-- ==== Sys2Proof/Word.lean ====
section
/-!
DEFINITION. The words and small index types of the WD8: the 32-bit link word, agent numbers and link names
(spec/00 tables 0-1 and 0-5, spec/10 section 10.5).
-/

namespace Sys2Proof

/-- One word of a message: 32 bits, bit 31 the most significant (file 10, section 10.5). -/
abbrev Word := BitVec 32

/-- An agent number, 0 to 7; link An serves agent n (table 0-1). -/
abbrev AgentId := Fin 8

/-- The ten message links (table 0-1): A0 to A7, S and M. -/
inductive LinkId where
  | agent (a : AgentId)   -- An: one agent
  | sup                   -- S: the supervisor
  | mem                   -- M: the memory fabric's maintenance input
  deriving DecidableEq, Repr

end Sys2Proof
end

