-- ==== Sys2Proof/Config.lean ====
section
/-!
DEFINITION. The capacities fixed in the part (spec/00 table 0-5). The values CONFIGURE chooses are state
(Machine/State.lean, Configuration). The spec leaves no result open, so no uninterpreted constant stands here.
-/

namespace Sys2Proof.Config

/-- Windows are numbered 0 to 4095 (R1). -/
def windows : Nat := 4096
/-- A window covers 1 to 4096 frames (R5). -/
def maxFramesPerWindow : Nat := 4096
/-- The Park List holds at most 16 entries (R47). -/
def parkCapacity : Nat := 16
/-- The Change Table has 16 entries (R58). -/
def changeEntries : Nat := 16
/-- A group has at most 8 members (R58). -/
def groupMembers : Nat := 8
/-- There are 16 scrub slots (R114). -/
def scrubSlots : Nat := 16
/-- At most 4 fills are in flight (R118). -/
def fillsInFlight : Nat := 4
/-- QUERY_FRAMES reads at most 64 frames (R110). -/
def maxFramesPerQuery : Nat := 64
/-- CONFIGURE takes 1 to 65536 frames (R148). -/
def maxConfiguredFrames : Nat := 65536
/-- CONFIGURE takes a recall deadline of 1 to 10000 units (R148). -/
def maxRecallDeadline : Nat := 10000
/-- CONFIGURE takes a fill deadline of 1 to 100 units (R148). -/
def maxFillDeadline : Nat := 100
/-- The notice credit stops at 255 (R156). -/
def maxNoticeCredit : Nat := 255
/-- A PORT notice's count of postings stops at 255 (R155). -/
def maxNoticeCount : Nat := 255
/-- Each Link Interface grants its partner 8 receive credits (R163). -/
def receiveCredits : Nat := 8
/-- A message body has at most 64 words (R162). -/
def maxBodyWords : Nat := 64

end Sys2Proof.Config
end

