-- ==== Sys2Proof/Machine/Tables.lean ====
section
/-!
DEFINITION. The two containers the state is built from: sparse tables and sets of small numbers. Both are plain
lists in one canonical form, so that equal contents are equal data (log 19).
-/

namespace Sys2Proof.Machine

/-- A sparse table: keys with values, keys strictly rising; an unlisted key reads as a default value that the table's
reader names, and no listed value is that default. -/
abbrev Sparse (α : Type) := List (Nat × α)

/-- The value at a key: the listed one, else the default. -/
def sparseGet {α : Type} (d : α) : Sparse α → Nat → α
  | [], _ => d
  | (j, v) :: t, k => if k = j then v else sparseGet d t k

/-- A value listed at its key, the other keys kept in order. -/
def sparsePut {α : Type} : Sparse α → Nat → α → Sparse α
  | [], k, v => [(k, v)]
  | (j, u) :: t, k, v =>
    if k < j then (k, v) :: (j, u) :: t
    else if k = j then (k, v) :: t
    else (j, u) :: sparsePut t k v

/-- A key no longer listed. -/
def sparseDrop {α : Type} (t : Sparse α) (k : Nat) : Sparse α := t.filter (fun p => p.1 != k)

/-- A write: the default value removes the key, any other value is listed. -/
def sparseSet {α : Type} [DecidableEq α] (d : α) (t : Sparse α) (k : Nat) (v : α) : Sparse α :=
  if v = d then sparseDrop t k else sparsePut t k v

/-- One value written at `n` keys from `lo` on, in ascending order. -/
def sparseFill {α : Type} [DecidableEq α] (d : α) (t : Sparse α) (lo : Nat) (n : Nat) (v : α) : Sparse α :=
  (List.range n).foldl (fun t i => sparseSet d t (lo + i) v) t

/-- Every listed value rewritten; a value that becomes the default is dropped. -/
def sparseMap {α : Type} [DecidableEq α] (d : α) (f : α → α) (t : Sparse α) : Sparse α :=
  (t.map (fun p => (p.1, f p.2))).filter (fun p => decide (p.2 ≠ d))

/-- The canonical form: keys strictly rising, no listed value equal to the default. -/
abbrev SparseWf {α : Type} (d : α) (t : Sparse α) : Prop :=
  t.Pairwise (fun p q => p.1 < q.1) ∧ ∀ p ∈ t, p.2 ≠ d

/-- A set of numbers: strictly rising. -/
abbrev NatSet := List Nat

/-- The set with a number added. -/
def natInsert : NatSet → Nat → NatSet
  | [], k => [k]
  | j :: t, k => if k < j then k :: j :: t else if k = j then j :: t else j :: natInsert t k

/-- The set with a number removed. -/
def natErase (t : NatSet) (k : Nat) : NatSet := t.filter (fun j => j != k)

/-- The canonical form of a set of numbers. -/
abbrev NatSetWf (t : NatSet) : Prop := t.Pairwise (· < ·)

/-- A subset of 0 to n-1: element i is in the set when place i is true. -/
abbrev FinSet (n : Nat) := Vector Bool n

/-- The empty set. -/
def noneOf (n : Nat) : FinSet n := Vector.replicate n false

/-- The set with an element added. -/
def FinSet.add {n : Nat} (t : FinSet n) (i : Fin n) : FinSet n := t.set i true

/-- The set with an element removed. -/
def FinSet.del {n : Nat} (t : FinSet n) (i : Fin n) : FinSet n := t.set i false

/-- The union of two sets. -/
def FinSet.join {n : Nat} (t u : FinSet n) : FinSet n := Vector.ofFn fun i => t[i] || u[i]

/-- The elements in ascending order. -/
def FinSet.elems {n : Nat} (t : FinSet n) : List (Fin n) := (List.finRange n).filter fun i => t[i]

/-- Whether the set has no element. -/
def FinSet.empty {n : Nat} (t : FinSet n) : Bool := (List.finRange n).all fun i => !t[i]

end Sys2Proof.Machine
end

