-- ==== Sys2Proof/Syntax.lean ====
section
/-!
DEFINITION. The commands of the WD8: one constructor for each row of spec/opcode_table.json.
A message carries the fields of its layout at their full width (R166); a field that a presence bit marks absent is
an absent option and is not read. The commands that are no message are events: link events, deadline expiries and
the RESET_N line.
-/

namespace Sys2Proof

/-- What made a received word or message a link error (R162). -/
inductive LinkFault where
  | crcMismatch                       -- the CRC word of a message or control word does not agree
  | overLong (words : BitVec 7)       -- the header names a body over 64 words
  | noCredit                          -- a message arrived while the partner held no credit (R163)
  | parameterWord                     -- a parameter word with a correct CRC on an UP link
  deriving DecidableEq, Repr

/-- The commands, in the order of spec/opcode_table.json. -/
inductive Instr where
  /-- LOOKUP (R40, table 10-4). -/
  | lookup (a : AgentId) (tag : BitVec 8) (window : BitVec 16) (rights : BitVec 2)
  /-- RELEASED (R68, table 10-4); its tag is not read (R166). -/
  | released (a : AgentId) (window generation : BitVec 16)
  /-- RETURN (R32); the slot is the 9-bit subject field. -/
  | returnSlot (a : AgentId) (tag : BitVec 8) (slot : BitVec 9)
  /-- FLUSH (R33). -/
  | flush (a : AgentId) (tag : BitVec 8)
  /-- SWITCH (R34); the context is the 9-bit subject field. -/
  | switch (a : AgentId) (tag : BitVec 8) (context : BitVec 9)
  /-- JOIN (R137); its tag is not read. -/
  | join (a : AgentId)
  /-- CONFIGURE (R148, section 10.5). -/
  | configure (tag : BitVec 8) (frameCount recallDeadline : Word) (initialScrub : Bool) (fillDeadline : BitVec 8)
      (pattern : Word)
  /-- CREATE (R14, table 10-5). -/
  | create (tag : BitVec 8) (window : BitVec 16) (cls : BitVec 8) (scrub : Bool) (boundAgent boundContext : BitVec 8)
      (rights : BitVec 16) (base count : Word)
  /-- CHANGE (R61, table 10-5). -/
  | change (tag : BitVec 8) (window : BitVec 16) (group : Option (BitVec 8)) (rights : Option (BitVec 16))
      (run : Option (Word × Word)) (scrub : Option Bool)
  /-- RETIRE (R61, section 10.5). -/
  | retire (tag : BitVec 8) (window : BitVec 16) (group : Option (BitVec 8))
  /-- ABANDON (R81): its own tag and the target tag. -/
  | abandon (tag target : BitVec 8)
  /-- GROUP_OPEN (R89); the group is the 9-bit subject field. -/
  | groupOpen (tag : BitVec 8) (group : BitVec 9)
  /-- GROUP_COMMIT (R92). -/
  | groupCommit (tag : BitVec 8) (group : BitVec 9)
  /-- GROUP_ABANDON (R97). -/
  | groupAbandon (tag : BitVec 8) (group : BitVec 9)
  /-- ADMIT (R138); the agent is the 9-bit subject field. -/
  | admitAgent (tag : BitVec 8) (agent : BitVec 9)
  /-- FENCE (R139). -/
  | fence (tag : BitVec 8) (agent : BitVec 9)
  /-- SUSPEND_SCRUB (R125). -/
  | suspendScrub (tag : BitVec 8)
  /-- RESUME_SCRUB (R126). -/
  | resumeScrub (tag : BitVec 8)
  /-- RESCRUB (R109). -/
  | rescrub (tag : BitVec 8) (base count : Word)
  /-- QUERY_WINDOW (R18). -/
  | queryWindow (tag : BitVec 8) (window : BitVec 16)
  /-- QUERY_AGENT (R154). -/
  | queryAgent (tag : BitVec 8) (agent : BitVec 9)
  /-- QUERY_FRAMES (R110). -/
  | queryFrames (tag : BitVec 8) (base count : Word)
  /-- QUERY_SCRUB (R130). -/
  | queryScrub (tag : BitVec 8)
  /-- NOTICE_CREDIT (R156). -/
  | noticeCredit (tag : BitVec 8) (n : Word)
  /-- RESTART (R149). -/
  | restart (tag : BitVec 8)
  /-- FILLED, a fill completion on M (R119, table 10-8). -/
  | filled (status : BitVec 8) (id : BitVec 2) (seq : BitVec 16)
  /-- A message of an unknown kind or the wrong body length for its link (R165): kind code, tag and body as received. -/
  | unknownKindMessage (l : LinkId) (kind tag : BitVec 8) (body : List Word)
  /-- The recall deadline of a Change Table entry expires (R72, R73). -/
  | recallDeadlineExpiry (entry : Fin 16)
  /-- The deadline of the fill in flight under a fill id expires (R119, R121). -/
  | fillDeadlineExpiry (id : Fin 4)
  /-- RESET_N goes low (R145, R161). -/
  | resetN
  /-- The partner's carrier is detected (R161). -/
  | carrierDetected (l : LinkId)
  /-- A parameter word is received: whether its CRC is correct, the role it names, and the two fields that are
  not read (R161). -/
  | parameterWord (l : LinkId) (crcOk : Bool) (role linkNumber : BitVec 4) (credits : BitVec 8)
  /-- The partner's carrier is lost (R161). -/
  | carrierLost (l : LinkId)
  /-- A fault on a received message that is a link error on an UP link (R162). -/
  | linkError (l : LinkId) (cause : LinkFault)
  /-- A credit-return word is received; the count it returns is not read (R162). -/
  | creditReturnWord (l : LinkId) (returned : BitVec 8)
  /-- A message other than a parameter word is received in TRAINING (R162): its words, unread. -/
  | messageInTraining (l : LinkId) (words : List Word)
  /-- RESET_N is released (R161). -/
  | resetNRelease
  /-- A control word with another control code is received (R161). -/
  | otherControlCodeWord (l : LinkId) (word : Word)
  deriving DecidableEq, Repr

end Sys2Proof
end

