-- ==== Sys2Proof/Machine/State.lean ====
section
/-!
DEFINITION. The state of the WD8 as plain data: every record, list, counter, line and mode the spec names, with the
reset values of its rules; the messages it sends; the queue of waiting commands. INVENTORY.md lists each field with
its rule and its reset value.
-/

namespace Sys2Proof.Machine

/-! ## Values shared by several blocks -/

/-- Rights in a window, ordered NONE, READ, READWRITE (spec/01 section 1.1). -/
inductive Rights where
  | none | read | readWrite
  deriving DecidableEq, Repr

/-- The rights entries of a record, one per agent (R4). -/
abbrev RightsSet := Vector Rights 8

/-- SHARED or BOUND, as messages and slots carry it (R3, R21). -/
inductive ClassName where
  | shared | bound
  deriving DecidableEq, Repr

/-- A run of consecutive frames: base frame and frame count. -/
structure Run where
  base : Nat
  count : Nat
  deriving DecidableEq, Repr

/-- The reasons of REFUSE and REFUSED (tables 3-2, 9-3, 10-3). -/
inductive Reason where
  | notConfigured | configured | badValue | malformed | tagInUse | badAgent | windowInUse | noWindow | windowBusy
  | badRange | framesBusy | changeFull | scrubFull | noGroup | groupFull | groupMember | noChange | portState | busy
  | notAdmitted | denied
  deriving DecidableEq, Repr

/-! ## The Directory -/

/-- The class of a LIVE record with its binding (R1, R3). -/
inductive WindowClass where
  | shared
  | bound (agent : AgentId) (context : Fin 16)
  deriving DecidableEq, Repr

/-- The fields of a record that are present while it is LIVE (table 1-1). -/
structure LiveFields where
  cls : WindowClass
  run : Run
  rights : RightsSet
  scrub : Bool
  deriving DecidableEq, Repr

/-- A window record (table 1-1); it is LIVE when the LIVE fields are present and FREE otherwise. -/
structure Window where
  generation : BitVec 16
  live : Option LiveFields
  pending : Option (Fin 16)
  holders : FinSet 8
  deriving DecidableEq, Repr

/-- A record after RESET_N (R19): what an unlisted window reads as. -/
def Window.initial : Window := { generation := 0, live := none, pending := none, holders := noneOf 8 }

/-! ## The Slot Mirror -/

/-- A HELD slot (table 2-1). -/
structure Holding where
  window : Nat
  rights : Rights
  cls : ClassName
  deriving DecidableEq, Repr

/-- An Agent Slot Table (R20, R22) with the agent's recalled and regranted sets (R68). -/
structure SlotTable where
  slots : Vector (Option Holding) 64
  pointer : Fin 64
  recalled : NatSet
  regranted : NatSet
  deriving DecidableEq, Repr

/-- A slot table after RESET_N (R39). -/
def SlotTable.initial : SlotTable :=
  { slots := Vector.replicate 64 none, pointer := 0, recalled := [], regranted := [] }

/-! ## The Port Controller -/

/-- Port states (R132). -/
inductive PortState where
  | down | outside | waiting | admitted
  deriving DecidableEq, Repr

/-- Port reasons (R133). -/
inductive PortReason where
  | linkUp | timeout | supervisor | linkLost | rejoin | restart
  deriving DecidableEq, Repr

/-- A port record (table 8-1). -/
structure Port where
  state : PortState
  reason : PortReason
  context : Fin 16
  tags : FinSet 4
  deriving DecidableEq, Repr

/-- A port after RESET_N (R145). -/
def Port.initial : Port := { state := .down, reason := .linkLost, context := 0, tags := noneOf 4 }

/-! ## The Park List -/

/-- An entry of the Park List (R47). -/
structure Parked where
  agent : AgentId
  tag : Fin 4
  window : Nat
  rights : Rights
  deriving DecidableEq, Repr

/-! ## The Change Unit -/

/-- What an entry will do, with the new values a CHANGE carries (table 4-1). -/
inductive ChangeKind where
  | change (rights : Option RightsSet) (run : Option Run) (scrub : Option Bool)
  | retire
  deriving DecidableEq, Repr

/-- States of an entry in use (R58). -/
inductive EntryState where
  | held | recalling | ready
  deriving DecidableEq, Repr

/-- The recall deadline timer (table 4-1). -/
inductive Deadline where
  | stopped | running | expired
  deriving DecidableEq, Repr

/-- A Change Table entry in use (table 4-1); its number is its place in the table. -/
structure Entry where
  tag : BitVec 8
  window : Nat
  kind : ChangeKind
  group : Option (Fin 4)
  state : EntryState
  awaited : FinSet 8
  lost : FinSet 8
  deadline : Deadline
  scrubSlot : Option (Fin 16)
  deriving DecidableEq, Repr

/-- The life of a group, with the commit tag it holds while RECALLING (table 5-1). -/
inductive GroupState where
  | free
  | opened
  | recalling (commitTag : BitVec 8)
  deriving DecidableEq, Repr

/-- A group record (table 5-1): the member list in the order of acceptance. -/
structure Group where
  state : GroupState
  members : List (Fin 16)
  deriving DecidableEq, Repr

/-- A group after RESET_N (R100). -/
def Group.initial : Group := { state := .free, members := [] }

/-! ## The Frame Map -/

/-- Frame states with what they carry (table 6-1). -/
inductive FrameState where
  | free
  | reserved (window : Nat)
  | bound (window : Nat)
  | scrubbing (slot : Fin 16)
  | quarantined
  deriving DecidableEq, Repr

/-! ## The Scrub Engine -/

/-- What queued a job (table 7-3). -/
inductive Origin where
  | window (w : Nat)
  | rescrub
  | initial
  deriving DecidableEq, Repr

/-- A place in a job's issue order (table 7-3): whether it lies in the second run, the frame and the block. -/
structure Position where
  second : Bool
  frame : Nat
  block : Fin 16
  deriving DecidableEq, Repr

/-- A scrub job (table 7-3): a position of `none` is END. The tally lists frames with the blocks filled. -/
structure Job where
  origin : Origin
  first : Run
  second : Option Run
  position : Option Position
  tally : Sparse (FinSet 16)
  freed : Nat
  quarantined : Nat
  deriving DecidableEq, Repr

/-- Scrub slot states with what they hold (table 7-1). -/
inductive ScrubSlot where
  | free
  | reserved (entry : Fin 16)
  | queued (job : Job)
  | active (job : Job)
  | ended (job : Job)
  deriving DecidableEq, Repr

/-- Engine states (R117); SUSPENDING holds the tag of the SUSPEND that waits (R125). -/
inductive Engine where
  | idle
  | running
  | suspending (tag : BitVec 8)
  | suspended
  deriving DecidableEq, Repr

/-- A fill in flight (R119); its fill id is its place and its deadline runs while it is in flight. -/
structure Fill where
  seq : BitVec 16
  frame : Nat
  block : Fin 16
  deriving DecidableEq, Repr

/-- The Scrub Engine: slots, queue head first, engine state, fills in flight by id, sequence counter. -/
structure Scrub where
  slots : Vector ScrubSlot 16
  queue : List (Fin 16)
  engine : Engine
  fills : Vector (Option Fill) 4
  seq : BitVec 16
  deriving DecidableEq, Repr

/-- The Scrub Engine after RESET_N (R131). -/
def Scrub.initial : Scrub :=
  { slots := Vector.replicate 16 .free, queue := [], engine := .idle, fills := Vector.replicate 4 none, seq := 0 }

/-! ## The Supervisor Interface -/

/-- The five values CONFIGURE writes (R147). -/
structure Configuration where
  frameCount : Nat
  recallDeadline : Nat
  fillDeadline : Nat
  pattern : Word
  initialScrub : Bool
  deriving DecidableEq, Repr

/-- The device state; the configuration has values exactly in SERVING (R147). -/
inductive Device where
  | unconfigured
  | serving (c : Configuration)
  deriving DecidableEq, Repr

/-- Notices (table 9-5): a PORT notice with its count of postings, a SCRUB notice of an ended job. -/
inductive Notice where
  | port (agent : AgentId) (state : PortState) (reason : PortReason) (count : Nat)
  | scrub (slot : Fin 16) (origin : Origin) (first : Run) (second : Option Run) (freed quarantined : Nat)
  deriving DecidableEq, Repr

/-! ## The links -/

/-- Link states (R161). -/
inductive LinkState where
  | down | training | up
  deriving DecidableEq, Repr

/-- A Link Interface: its state, the receive credits its partner may still use, and its receive buffer, the messages
received and not yet taken by the block above, oldest first (R161, R163). -/
@[ext]
structure Link where
  state : LinkState
  credits : Nat
  buffer : List Instr
  deriving DecidableEq, Repr

/-- The ten links. -/
structure Links where
  agents : Vector Link 8
  sup : Link
  mem : Link
  deriving DecidableEq, Repr

/-- A link after RESET_N: DOWN, no credit outstanding, its receive buffer empty (R169, log 11). -/
def Link.initial : Link := { state := .down, credits := 0, buffer := [] }

/-- A link that enters a state with its receive buffer empty and 8 credits for its partner (R162, R163). -/
def Link.fresh (st : LinkState) : Link := { state := st, credits := Config.receiveCredits, buffer := [] }

/-- The links after RESET_N (R169). -/
def Links.initial : Links := { agents := Vector.replicate 8 .initial, sup := .initial, mem := .initial }

/-! ## Messages the controller sends -/

/-- Messages to an agent (table 10-4). -/
inductive AgentMsg where
  /-- GRANT (table 3-3). -/
  | grant (tag : Fin 4) (slot : Fin 64) (window : Nat) (generation : BitVec 16) (cls : ClassName) (run : Run)
      (rights : Rights) (evicted : Option Nat)
  /-- REFUSE (R43): kind refused, tag, reason, and the window field of a LOOKUP (0 for other kinds). -/
  | refuse (kind tag : BitVec 8) (reason : Reason) (window : BitVec 16)
  /-- RECALL (R67). -/
  | recall (slot : Fin 64) (window : Nat) (generation : BitVec 16)
  /-- RETURNED (R32). -/
  | returned (slot : Fin 64) (wasHeld : Bool)
  /-- FLUSHED (R33). -/
  | flushed
  /-- SWITCHED (R34). -/
  | switched (context : Fin 16) (dropped : Nat)
  /-- ADMITTED (R138). -/
  | admitted (agent : AgentId) (context : Fin 16)
  /-- FENCED (R142). -/
  | fenced (reason : PortReason)
  deriving DecidableEq, Repr

/-- Outcomes of DONE (table 10-3). -/
inductive DoneOutcome where
  | applied | abandoned
  deriving DecidableEq, Repr

/-- Conditions of a window record (table 1-2). -/
inductive Condition where
  | none | claimed | inRecall
  deriving DecidableEq, Repr

/-- What QUERY_WINDOW reports of a pending change (table 1-5). -/
structure PendingReport where
  entry : Fin 16
  retire : Bool
  tag : BitVec 8
  group : Option (Fin 4)
  awaited : Option (FinSet 8)
  deriving DecidableEq, Repr

/-- The REPORT of QUERY_WINDOW (table 1-5). -/
structure WindowReport where
  window : Nat
  generation : BitVec 16
  live : Option LiveFields
  condition : Condition
  holders : FinSet 8
  pending : Option PendingReport
  deriving DecidableEq, Repr

/-- The REPORT of QUERY_AGENT (table 9-4). -/
structure AgentReport where
  agent : AgentId
  state : PortState
  reason : PortReason
  context : Fin 16
  pointer : Fin 64
  held : List (Fin 64 × Holding)
  parked : List (Fin 4 × Nat × Rights)
  deriving DecidableEq, Repr

/-- The REPORT of QUERY_FRAMES (table 6-3). -/
structure FramesReport where
  base : Nat
  count : Nat
  configured : Nat
  frames : List FrameState
  deriving DecidableEq, Repr

/-- One slot's record in the REPORT of QUERY_SCRUB (table 7-7). -/
inductive SlotReport where
  | free
  | reserved (entry : Fin 16)
  | queued (origin : Origin) (first : Run) (second : Option Run) (freed quarantined : Nat)
  | active (origin : Origin) (first : Run) (second : Option Run) (freed quarantined : Nat) (position : Option Position)
  | ended (origin : Origin) (first : Run) (second : Option Run) (freed quarantined : Nat)
  deriving DecidableEq, Repr

/-- The engine items of the REPORT of QUERY_SCRUB (table 7-7). -/
structure EngineReport where
  engine : Engine
  queue : List (Fin 16)
  fills : List (Fin 4 × Nat × Fin 16)
  deriving DecidableEq, Repr

/-- Contents of a REPORT; that of QUERY_SCRUB comes in two parts (R167). -/
inductive Report where
  | window (r : WindowReport)
  | agent (r : AgentReport)
  | frames (r : FramesReport)
  | scrubLow (e : EngineReport) (slots : List SlotReport)
  | scrubHigh (slots : List SlotReport)
  deriving DecidableEq, Repr

/-- Messages to the supervisor (table 9-1, table 9-5, table 10-6). -/
inductive SupMsg where
  | refused (kind tag : BitVec 8) (reason : Reason)
  | accepted (tag : BitVec 8)
  | done (tag : BitVec 8) (outcome : DoneOutcome) (generation : Option (BitVec 16)) (lost : FinSet 8)
      (slot : Option (Fin 16)) (credit : Option Nat)
  | report (tag : BitVec 8) (part : Nat) (last : Bool) (contents : Report)
  | notice (n : Notice)
  deriving DecidableEq, Repr

/-- FILL, to the memory fabric (R119, table 10-8). -/
structure FillMsg where
  id : Fin 4
  seq : BitVec 16
  frame : Nat
  block : Fin 16
  pattern : Word
  deriving DecidableEq, Repr

/-- The model's own record of what the latest action sent: the messages of each link in the order they leave, the
links on which a parameter word was sent and those on which a credit-return word was sent. Messages of different
links have no order (R164, log 3). -/
@[ext]
structure Outputs where
  agents : Vector (List AgentMsg) 8
  sup : List SupMsg
  mem : List FillMsg
  parameterWords : List LinkId
  creditReturns : List LinkId
  deriving DecidableEq, Repr

/-- Nothing sent. -/
def Outputs.nothing : Outputs :=
  { agents := Vector.replicate 8 [], sup := [], mem := [], parameterWords := [], creditReturns := [] }

/-! ## The state -/

/-- The whole state of the controller; and, the world's own, how far the blocks are behind in taking messages and the
queue of commands that are still to come (log 1, log 2). A link that stands n times in `behind` keeps n messages
waiting in its receive buffer before the block above takes the oldest. -/
@[ext]
structure State where
  windows : Sparse Window
  tables : Vector SlotTable 8
  ports : Vector Port 8
  fenceN : FinSet 8
  park : List Parked
  entries : Vector (Option Entry) 16
  groups : Vector Group 4
  frames : Sparse FrameState
  scrub : Scrub
  device : Device
  tags : NatSet
  outbox : List Notice
  credit : Nat
  noticeN : Bool
  links : Links
  resetN : Bool
  carrier : Bool
  out : Outputs
  behind : List LinkId
  pending : List Instr
  deriving DecidableEq, Repr

/-- The state after RESET_N has gone low and before it is released (R19, R39, R56, R85, R100, R113, R131, R145, R160,
R161, R169; log 4). A line is `true` when it is high. -/
def State.reset : State :=
  { windows := []
    tables := Vector.replicate 8 .initial
    ports := Vector.replicate 8 .initial
    fenceN := noneOf 8
    park := []
    entries := Vector.replicate 16 none
    groups := Vector.replicate 4 .initial
    frames := []
    scrub := .initial
    device := .unconfigured
    tags := []
    outbox := []
    credit := 0
    noticeN := true
    links := .initial
    resetN := false
    carrier := false
    out := .nothing
    behind := []
    pending := [] }

/-- Faults: none. Every rule of the spec gives every command an outcome, so no command stops the block. -/
inductive Fault where
  deriving DecidableEq, Repr

/-- Refusals of the model. -/
inductive Refusal where
  /-- Raised by an arm of exec whose command has no meaning yet; none is left. Safe: the machine stops. -/
  | notModelled (mnemonic : String)
  deriving DecidableEq, Repr

end Sys2Proof.Machine
end

