-- ==== Sys2Proof/Machine/Ops.lean ====
section
/-!
DEFINITION. The named operations over the records of the state: reading and writing one record, sending a message on
a link, the tags in use, the receive credit, and the Notice Outbox (spec/09 section 9.5).
-/

namespace Sys2Proof.Machine

/-! ## One record read or written -/

/-- The record of window w (R1). -/
def State.window (s : State) (w : Nat) : Window := sparseGet Window.initial s.windows w
/-- The record of window w written. -/
def State.setWindow (s : State) (w : Nat) (r : Window) : State :=
  { s with windows := sparseSet Window.initial s.windows w r }

/-- The state of frame f (R101); a frame is FREE unless listed otherwise. -/
def State.frame (s : State) (f : Nat) : FrameState := sparseGet .free s.frames f
/-- The Frame Map written. -/
def State.setFrames (s : State) (m : Sparse FrameState) : State := { s with frames := m }

/-- The slot table of agent a (R20). -/
def State.table (s : State) (a : AgentId) : SlotTable := s.tables[a]
/-- The slot table of agent a written. -/
def State.setTable (s : State) (a : AgentId) (t : SlotTable) : State := { s with tables := s.tables.set a t }

/-- The port record of agent a (R132). -/
def State.port (s : State) (a : AgentId) : Port := s.ports[a]
/-- The port record of agent a written. -/
def State.setPort (s : State) (a : AgentId) (p : Port) : State := { s with ports := s.ports.set a p }
/-- The line FENCE_Na driven high or low (R134). -/
def State.setFence (s : State) (a : AgentId) (high : Bool) : State := { s with fenceN := s.fenceN.set a high }

/-- The Park List written. -/
def State.setPark (s : State) (l : List Parked) : State := { s with park := l }

/-- Change Table entry e; absent while FREE (R58). -/
def State.entry (s : State) (e : Fin 16) : Option Entry := s.entries[e]
/-- Change Table entry e written. -/
def State.setEntry (s : State) (e : Fin 16) (x : Option Entry) : State := { s with entries := s.entries.set e x }

/-- The group record g (R87). -/
def State.group (s : State) (g : Fin 4) : Group := s.groups[g]
/-- The group record g written. -/
def State.setGroup (s : State) (g : Fin 4) (x : Group) : State := { s with groups := s.groups.set g x }

/-- Scrub slot i (R114). -/
def State.slot (s : State) (i : Fin 16) : ScrubSlot := s.scrub.slots[i]
/-- The Scrub Engine written. -/
def State.setScrub (s : State) (x : Scrub) : State := { s with scrub := x }
/-- Scrub slot i written. -/
def State.setSlot (s : State) (i : Fin 16) (x : ScrubSlot) : State :=
  s.setScrub { s.scrub with slots := s.scrub.slots.set i x }

/-- A supervisor tag entering the set of tags in use (R151). -/
def State.addTag (s : State) (t : BitVec 8) : State := { s with tags := natInsert s.tags t.toNat }
/-- A supervisor tag leaving the set (R151). -/
def State.freeTag (s : State) (t : BitVec 8) : State := { s with tags := natErase s.tags t.toNat }
/-- Whether a supervisor tag is in use (R151). -/
def State.tagInUse (s : State) (t : BitVec 8) : Bool := s.tags.contains t.toNat

/-- Lookup tag t of agent a entering or leaving the set of tags in use (R46). -/
def State.setLookupTag (s : State) (a : AgentId) (t : Fin 4) (inUse : Bool) : State :=
  s.setPort a { s.port a with tags := (s.port a).tags.set t inUse }

/-- The configured frame count; 0 while the device is UNCONFIGURED and the map holds no record (R101). -/
def State.frameCount (s : State) : Nat :=
  match s.device with
  | .unconfigured => 0
  | .serving c => c.frameCount

/-- Whether the device is SERVING (R147). -/
def State.isServing (s : State) : Bool :=
  match s.device with
  | .unconfigured => false
  | .serving _ => true

/-- The device state written (R147). -/
def State.setDevice (s : State) (d : Device) : State := { s with device := d }

/-- The notice credit written (R156). -/
def State.setCredit (s : State) (n : Nat) : State := { s with credit := n }

/-! ## Links -/

/-- The Link Interface of a link (R161). -/
def State.link (s : State) : LinkId → Link
  | .agent a => s.links.agents[a]
  | .sup => s.links.sup
  | .mem => s.links.mem

/-- The Link Interface of a link written. -/
def State.setLink (s : State) (l : LinkId) (x : Link) : State :=
  { s with links :=
      match l with
      | .agent a => { s.links with agents := s.links.agents.set a x }
      | .sup => { s.links with sup := x }
      | .mem => { s.links with mem := x } }

/-- Whether a link is UP (R161). -/
def State.isUp (s : State) (l : LinkId) : Bool := (s.link l).state == .up

/-- The record of what the action sends, written. -/
def State.setOut (s : State) (o : Outputs) : State := { s with out := o }

/-- The start of an action: nothing sent yet. -/
def State.begin (s : State) : State := s.setOut .nothing

/-- A message handed to agent a's link; nothing is handed to a link that is not UP (R162). -/
def State.sendAgent (s : State) (a : AgentId) (m : AgentMsg) : State :=
  if s.isUp (.agent a) then
    s.setOut { s.out with agents := s.out.agents.set a (s.out.agents[a] ++ [m]) }
  else s

/-- A message handed to S; while S is not UP it is discarded (R152, R159). -/
def State.sendSup (s : State) (m : SupMsg) : State :=
  if s.isUp .sup then s.setOut { s.out with sup := s.out.sup ++ [m] } else s

/-- A fill request handed to M (R118). -/
def State.sendFill (s : State) (m : FillMsg) : State :=
  if s.isUp .mem then s.setOut { s.out with mem := s.out.mem ++ [m] } else s

/-- A parameter word sent on a link in training (R161). -/
def State.sendParameterWord (s : State) (l : LinkId) : State :=
  s.setOut { s.out with parameterWords := s.out.parameterWords ++ [l] }

/-- A message received joins the tail of the link's receive buffer; it uses one of the partner's credits (R163). -/
def State.bufferMessage (s : State) (l : LinkId) (m : Instr) : State :=
  let x := s.link l
  s.setLink l { x with credits := x.credits - 1, buffer := x.buffer ++ [m] }

/-- The oldest message leaves the receive buffer, `rest` staying: one credit is returned by a credit-return word
(R163). -/
def State.returnCredit (s : State) (l : LinkId) (rest : List Instr) : State :=
  let x := s.link l
  (s.setLink l { x with credits := x.credits + 1, buffer := rest }).setOut
    { s.out with creditReturns := s.out.creditReturns ++ [l] }

/-- More messages wait in the receive buffer of a link than the block above is behind (log 1). -/
def State.due (s : State) (l : LinkId) : Bool := decide (s.behind.count l < (s.link l).buffer.length)

/-! ## Replies on S -/

/-- DONE with nothing but its outcome APPLIED (table 9-1): no generation, an empty lost set, no slot. -/
def State.sendPlainDone (s : State) (tag : BitVec 8) : State :=
  s.sendSup (.done tag .applied none (noneOf 8) none none)

/-- The DONE of a request whose tag is in use: the tag leaves the set in the action that sends it, or in which it falls
due while S is not UP and is discarded (R151, R159). -/
def State.finish (s : State) (tag : BitVec 8) (o : DoneOutcome) (g : Option (BitVec 16)) (lost : FinSet 8)
    (slot : Option (Fin 16)) : State :=
  (s.freeTag tag).sendSup (.done tag o g lost slot none)

/-- REFUSED (R152, R153). -/
def State.refuseSup (s : State) (kind tag : BitVec 8) (r : Reason) : State := s.sendSup (.refused kind tag r)

/-- ACCEPTED, whose tag enters the set of tags in use (R151). -/
def State.accept (s : State) (tag : BitVec 8) : State := (s.addTag tag).sendSup (.accepted tag)

/-! ## The Notice Outbox -/

/-- The outbox written; NOTICE_N is low exactly while it is not empty and changes with it (R157). -/
def State.setOutbox (s : State) (o : List Notice) : State := { s with outbox := o, noticeN := o.isEmpty }

/-- What the delivery of a notice does besides sending it: the slot of a SCRUB notice goes from ENDED to FREE (R124). -/
def State.noticeDelivered (s : State) : Notice → State
  | .port .. => s
  | .scrub i .. =>
    match s.slot i with
    | .ended _ => s.setSlot i .free
    | _ => s

/-- Delivery while the outbox is not empty, the credit is above 0 and S is UP: oldest first, one credit each (R156).
The list is the outbox as it stands. -/
def deliver : List Notice → State → State
  | [], s => s
  | n :: rest, s =>
    if s.isUp .sup && decide (0 < s.credit) then
      deliver rest ((((s.sendSup (.notice n)).setCredit (s.credit - 1)).setOutbox rest).noticeDelivered n)
    else s

/-- A notice of the outbox as a PORT posting for agent a leaves it: its own notice updated in place with its count
raised, stopping at 255 (R155). -/
def Notice.updated (a : AgentId) (st : PortState) (r : PortReason) : Notice → Notice
  | .port b st' r' c => if b = a then .port a st r (min (c + 1) Config.maxNoticeCount) else .port b st' r' c
  | n => n

/-- Whether a notice is a PORT notice for agent a. -/
def Notice.isPortOf (a : AgentId) : Notice → Bool
  | .port b .. => b == a
  | .scrub .. => false

/-- A PORT posting for agent a: in place where its notice waits, else at the tail with count 1 (R155). -/
def portPosting (o : List Notice) (a : AgentId) (st : PortState) (r : PortReason) : List Notice :=
  if o.any (Notice.isPortOf a) then o.map (Notice.updated a st r) else o ++ [.port a st r 1]

/-- The Port Controller posts the port of agent a as it stands (R144), and the outbox delivers what it may (R156). -/
def State.postPort (s : State) (a : AgentId) : State :=
  let o := portPosting s.outbox a (s.port a).state (s.port a).reason
  deliver o (s.setOutbox o)

/-- A SCRUB notice joins the tail (R155), and the outbox delivers what it may (R156). -/
def State.postScrub (s : State) (n : Notice) : State :=
  deliver (s.outbox ++ [n]) (s.setOutbox (s.outbox ++ [n]))

end Sys2Proof.Machine
end

