-- ==== Sys2Proof/Machine/Operands.lean ====
section
/-!
DEFINITION. Reading the fields of requests: the value codes of table 10-3 and the range checks that the chapters make
on fields wider than their values (R166).
-/

namespace Sys2Proof.Machine

/-- The rights a 2-bit code names; 3 names none (table 10-3). -/
def rightsOfCode (c : BitVec 2) : Option Rights :=
  match c.toNat with
  | 0 => some .none
  | 1 => some .read
  | 2 => some .readWrite
  | _ => none

/-- The code of a rights value (table 10-3). -/
def Rights.code : Rights → BitVec 2
  | .none => 0
  | .read => 1
  | .readWrite => 2

/-- The code that a rights set holds for agent a, in bits 2a+1 and 2a (table 10-3). -/
def rightsCodeAt (set : BitVec 16) (a : AgentId) : BitVec 2 := set.extractLsb' (2 * a.val) 2

/-- The eight rights entries of a 16-bit rights set, when every code names rights (table 10-3). -/
def rightsSetOfBits (set : BitVec 16) : Option RightsSet :=
  if (List.finRange 8).all (fun a => rightsCodeAt set a != 3) then
    some (Vector.ofFn fun a => (rightsOfCode (rightsCodeAt set a)).getD .none)
  else none

/-- A window number 0 to 4095 (R1). -/
def windowNumber (w : BitVec 16) : Option Nat := if w.toNat < Config.windows then some w.toNat else none

/-- The rights a lookup may ask: READ or READWRITE (table 3-1). -/
def lookupRights (c : BitVec 2) : Option Rights :=
  match rightsOfCode c with
  | some .none => none
  | r => r

/-- A small number read from a wider field: the number when it is below n. -/
def fieldBelow (n : Nat) (v : Nat) : Option (Fin n) := if h : v < n then some ⟨v, h⟩ else none

/-- The checks on a run: the base frame is 0 to 65535, else BAD_VALUE; the frame count is 1 to `most`, and the run
does not reach beyond the configured frames, else BAD_RANGE (checks 3 and 4 of R15, check 2 of R62, R109, R110). -/
def checkRun (configured most : Nat) (base count : Word) : Except Reason Run :=
  if 65536 ≤ base.toNat then .error .badValue
  else if count.toNat < 1 ∨ most < count.toNat ∨ configured < base.toNat + count.toNat then .error .badRange
  else .ok { base := base.toNat, count := count.toNat }

/-- The class of a CREATE: 0 SHARED, 1 BOUND, other values BAD_VALUE; then for BOUND the bound agent, else BAD_AGENT,
and the bound context, else BAD_VALUE (checks 1 and 2 of R15). The check of the class itself is `knownClass`. -/
def knownClass (cls : BitVec 8) : Bool := cls == 0 || cls == 1

/-- The binding a CREATE names, read only when the class is BOUND (R14; check 2 of R15). -/
def checkBinding (cls agent context : BitVec 8) : Except Reason WindowClass :=
  if cls == 0 then .ok .shared
  else
    match fieldBelow 8 agent.toNat with
    | none => .error .badAgent
    | some a =>
      match fieldBelow 16 context.toNat with
      | none => .error .badValue
      | some c => .ok (.bound a c)

/-- An optional item whose value must be within its range: absent, or present with its value; none when out of
range (check 1 of R62). -/
def optionalField {α β : Type} (read : α → Option β) : Option α → Option (Option β)
  | none => some none
  | some v => (read v).map some

end Sys2Proof.Machine
end

