-- ==== Sys2Proof/Machine/Wire.lean ====
section
/-!
DEFINITION. Words on the wire (spec/10 sections 10.1, 10.4 to 10.6): the CRC, the header, the control words, and the
layout of every message the controller sends. Machine states hold messages as data; this file says which words they
are. Reading received words into commands is in Decode.lean.
-/

namespace Sys2Proof.Machine

/-! ## CRC and frames -/

/-- One bit shifted into the CRC register, generator 04C11DB7h (R165). -/
def crcBit (r : Word) (b : Bool) : Word :=
  if r.msb ^^ b then (r <<< 1) ^^^ 0x04C11DB7#32 else r <<< 1

/-- One word into the CRC register, most significant bit first (R165). -/
def crcStep (r w : Word) : Word := (List.range 32).foldl (fun r i => crcBit r (w.getMsbD i)) r

/-- The CRC word of a list of words: preset FFFFFFFFh, the result complemented (R165). -/
def crcOf (ws : List Word) : Word := ~~~(ws.foldl crcStep 0xFFFFFFFF#32)

/-- The header word (table 10-1): kind 31-24, body length 23-17, tag 16-9, subject 8-0. -/
def headerWord (kind : BitVec 8) (length : BitVec 7) (tag : BitVec 8) (subject : BitVec 9) : Word :=
  kind ++ length ++ tag ++ subject

/-- A message on the wire: header, body, CRC (section 10.4). -/
def frameOf (kind tag : BitVec 8) (subject : BitVec 9) (body : List Word) : List Word :=
  let ws := headerWord kind (BitVec.ofNat 7 body.length) tag subject :: body
  ws ++ [crcOf ws]

/-! ## Control words -/

/-- The link number of a parameter word: 0 to 7 for A0 to A7, 8 for S, 9 for M (R161). -/
def linkNumber : LinkId → BitVec 4
  | .agent a => BitVec.ofNat 4 a
  | .sup => 8
  | .mem => 9

/-- A parameter word (R161): code 01h, role 15-12, link number 11-8, receive credits 7-0. -/
def parameterWordOf (role number : BitVec 4) (credits : BitVec 8) : Word :=
  0x00#8 ++ 0x01#8 ++ role ++ number ++ credits

/-- The controller's parameter word on a link with its CRC: role 3, 8 credits (R161). -/
def parameterFrame (l : LinkId) : List Word :=
  let w := parameterWordOf 3 (linkNumber l) (BitVec.ofNat 8 Config.receiveCredits)
  [w, crcOf [w]]

/-- The credit-return word with its CRC: code 02h, 1 credit in 7-0 (R161). -/
def creditReturnFrame : List Word :=
  let w : Word := 0x00#8 ++ 0x02#8 ++ 0#8 ++ 1#8
  [w, crcOf [w]]

/-! ## Value codes (table 10-3) -/

/-- A set as bits: bit i set when i is in the set. -/
def FinSet.bits {n : Nat} (t : FinSet n) : BitVec n :=
  (List.finRange n).foldl (fun b i => if t[i] then b ||| BitVec.twoPow n i else b) 0

/-- A rights set: bits 2a+1 and 2a hold agent a's code. -/
def rightsBits (r : RightsSet) : BitVec 16 :=
  (List.finRange 8).foldl (fun (b : BitVec 16) a => b ||| (r[a].code.setWidth 16).shiftLeft (2 * a.val)) 0

/-- A presence bit. -/
def flagBit (b : Bool) : BitVec 1 := BitVec.ofBool b

/-- Class codes. -/
def ClassName.code : ClassName → Nat
  | .shared => 0
  | .bound => 1

/-- Condition codes. -/
def Condition.code : Condition → Nat
  | .none => 0
  | .claimed => 1
  | .inRecall => 2

/-- Port state codes. -/
def PortState.code : PortState → Nat
  | .down => 0
  | .outside => 1
  | .waiting => 2
  | .admitted => 3

/-- Port reason codes. -/
def PortReason.code : PortReason → Nat
  | .linkUp => 0
  | .timeout => 1
  | .supervisor => 2
  | .linkLost => 3
  | .rejoin => 4
  | .restart => 5

/-- Outcome codes. -/
def DoneOutcome.code : DoneOutcome → Nat
  | .applied => 1
  | .abandoned => 2

/-- Refusal reason codes. -/
def Reason.code : Reason → BitVec 8
  | .notConfigured => 1
  | .configured => 2
  | .badValue => 3
  | .malformed => 4
  | .tagInUse => 5
  | .badAgent => 6
  | .windowInUse => 7
  | .noWindow => 8
  | .windowBusy => 9
  | .badRange => 10
  | .framesBusy => 11
  | .changeFull => 12
  | .scrubFull => 13
  | .noGroup => 14
  | .groupFull => 15
  | .groupMember => 16
  | .noChange => 17
  | .portState => 18
  | .busy => 19
  | .notAdmitted => 20
  | .denied => 21

/-- Origin codes: kind 0 window, 1 RESCRUB, 2 INITIAL. -/
def Origin.code : Origin → Nat
  | .window _ => 0
  | .rescrub => 1
  | .initial => 2

/-- The origin window of a job, 0 for the other origins. -/
def Origin.windowBits : Origin → BitVec 12
  | .window w => BitVec.ofNat 12 w
  | _ => 0

/-- A second run's base and count, 0 when there is none. -/
def secondOr (r : Option Run) : Run := r.getD { base := 0, count := 0 }

/-- The number of runs of a job, 1 or 2. -/
def runsCount (r : Option Run) : Nat := if r.isSome then 2 else 1

/-! ## Agent link messages (table 10-4) -/

/-- The words of a message to an agent. -/
def AgentMsg.words : AgentMsg → List Word
  | .grant tag slot window generation cls run rights evicted =>
    frameOf 0x11 (BitVec.ofNat 8 tag) (BitVec.ofNat 9 slot)
      [BitVec.ofNat 16 window ++ generation,
        BitVec.ofNat 16 run.base ++ BitVec.ofNat 16 run.count,
        BitVec.ofNat 1 cls.code ++ 0#1 ++ rights.code ++ 0#11 ++ flagBit evicted.isSome ++ 0#4 ++
          BitVec.ofNat 12 (evicted.getD 0)]
  | .refuse kind tag reason window => frameOf 0x12 tag 0 [kind ++ reason.code ++ window]
  | .recall slot window generation =>
    frameOf 0x13 0 (BitVec.ofNat 9 slot) [BitVec.ofNat 16 window ++ generation]
  | .returned slot wasHeld => frameOf 0x14 0 (BitVec.ofNat 9 slot) [0#31 ++ flagBit wasHeld]
  | .flushed => frameOf 0x15 0 0 []
  | .switched context dropped => frameOf 0x16 0 (BitVec.ofNat 9 context) [0#25 ++ BitVec.ofNat 7 dropped]
  | .admitted agent context => frameOf 0x17 0 (BitVec.ofNat 9 context) [0#29 ++ BitVec.ofNat 3 agent]
  | .fenced reason => frameOf 0x18 0 0 [0#28 ++ BitVec.ofNat 4 reason.code]

/-! ## Reports (table 10-7 and the text after it) -/

/-- Words w2 to w4 of a window report: 0 for a FREE window. -/
def liveWords : Option LiveFields → List Word
  | none => [0, 0, 0]
  | some l =>
    let binding : BitVec 16 :=
      match l.cls with
      | .shared => 0
      | .bound a c => BitVec.ofNat 8 a ++ BitVec.ofNat 8 c
    [BitVec.ofNat 8 (match l.cls with | .shared => 0 | .bound .. => 1) ++ binding ++ 0#7 ++ flagBit l.scrub,
      BitVec.ofNat 16 l.run.base ++ BitVec.ofNat 16 l.run.count,
      0#16 ++ rightsBits l.rights]

/-- Word w5 of a window report. -/
def pendingWord : Option PendingReport → Word
  | none => 0
  | some p =>
    flagBit true ++ flagBit p.group.isSome ++ flagBit p.awaited.isSome ++ flagBit p.retire ++ 0#2 ++
      BitVec.ofNat 2 ((p.group.map Fin.val).getD 0) ++ 0#4 ++ BitVec.ofNat 4 p.entry ++ 0#8 ++ p.tag

/-- The awaited set of a window report, empty when absent. -/
def WindowReport.awaited (r : WindowReport) : FinSet 8 := (r.pending.bind PendingReport.awaited).getD (noneOf 8)

/-- The six words of a window report. -/
def WindowReport.words (r : WindowReport) : List Word :=
  [BitVec.ofNat 16 r.window ++ BitVec.ofNat 8 (if r.live.isSome then 1 else 0) ++ BitVec.ofNat 8 r.condition.code,
    r.generation ++ r.holders.bits ++ r.awaited.bits] ++ liveWords r.live ++ [pendingWord r.pending]

/-- Sixteen-bit entries two to a word, the earlier in bits 31-16; a last odd entry leaves bits 15-0 as 0. -/
def pairWords : List (BitVec 16) → List Word
  | [] => []
  | [x] => [x ++ 0#16]
  | x :: y :: t => (x ++ y : BitVec 32) :: pairWords t

/-- A parked lookup's 16-bit entry. -/
def parkedEntry (p : Fin 4 × Nat × Rights) : BitVec 16 :=
  BitVec.ofNat 2 p.1 ++ p.2.2.code ++ BitVec.ofNat 12 p.2.1

/-- A slot's 16-bit entry. -/
def slotEntry (held : List (Fin 64 × Holding)) (i : Fin 64) : BitVec 16 :=
  match held.find? (fun p => p.1 == i) with
  | none => 0
  | some (_, h) =>
    flagBit true ++ BitVec.ofNat 1 h.cls.code ++ flagBit (h.rights == .readWrite) ++ 0#1 ++ BitVec.ofNat 12 h.window

/-- The 35 words of an agent report: four entries of parked lookups, then the 64 slots. -/
def AgentReport.words (r : AgentReport) : List Word :=
  let parked := (r.parked.map parkedEntry ++ List.replicate 4 0).take 4
  (BitVec.ofNat 4 r.state.code ++ BitVec.ofNat 4 r.reason.code ++ 0#4 ++ BitVec.ofNat 4 r.context ++ 0#2 ++
      BitVec.ofNat 6 r.pointer ++ 0#5 ++ BitVec.ofNat 3 r.parked.length : BitVec 32) ::
    (pairWords parked ++ pairWords ((List.finRange 64).map (slotEntry r.held)))

/-- A frame's 16-bit entry: state 15-13, window or slot 11-0. -/
def frameEntry : FrameState → BitVec 16
  | .free => 0
  | .reserved w => BitVec.ofNat 3 1 ++ 0#1 ++ BitVec.ofNat 12 w
  | .bound w => BitVec.ofNat 3 2 ++ 0#1 ++ BitVec.ofNat 12 w
  | .scrubbing i => BitVec.ofNat 3 3 ++ 0#1 ++ BitVec.ofNat 12 i
  | .quarantined => BitVec.ofNat 3 4 ++ 0#13

/-- The words of a frames report. -/
def FramesReport.words (r : FramesReport) : List Word :=
  (BitVec.ofNat 16 r.base ++ 0#8 ++ BitVec.ofNat 8 r.count : BitVec 32) :: BitVec.ofNat 32 r.configured ::
    pairWords (r.frames.map frameEntry)

/-- The words of the engine items: eight words. -/
def EngineReport.words (e : EngineReport) : List Word :=
  let code : Nat := match e.engine with | .idle => 0 | .running => 1 | .suspending _ => 2 | .suspended => 3
  let waiting : BitVec 9 := match e.engine with | .suspending t => flagBit true ++ t | _ => 0
  let place (n : Nat) : BitVec 4 := BitVec.ofNat 4 ((e.queue[n]?.map Fin.val).getD 0)
  let queueWord (n : Nat) : Word :=
    place n ++ place (n + 1) ++ place (n + 2) ++ place (n + 3) ++ place (n + 4) ++ place (n + 5) ++ place (n + 6) ++
      place (n + 7)
  let fillWord (k : Fin 4) : Word :=
    match e.fills.find? (fun p => p.1 == k) with
    | none => 0
    | some (_, f, b) => flagBit true ++ 0#11 ++ BitVec.ofNat 4 b ++ BitVec.ofNat 16 f
  [BitVec.ofNat 8 code ++ 0#7 ++ waiting ++ 0#3 ++ BitVec.ofNat 5 e.queue.length, queueWord 0, queueWord 8] ++
    (List.finRange 4).map fillWord ++ [0#29 ++ BitVec.ofNat 3 e.fills.length]

/-- The six words of a slot record. -/
def slotRecord (state : Nat) (reserved : Nat) (job : Option (Origin × Run × Option Run × Nat × Nat))
    (position : Option (Option Position)) : List Word :=
  let at' : Option Position := position.bind id
  let atEnd := position == some none
  match job with
  | none => [BitVec.ofNat 3 state ++ 0#13 ++ BitVec.ofNat 4 reserved ++ 0#12, 0, 0, 0, 0, 0]
  | some (o, first, second, freed, quarantined) =>
    [BitVec.ofNat 3 state ++ BitVec.ofNat 2 (runsCount second) ++ BitVec.ofNat 2 o.code ++ flagBit atEnd ++
        flagBit ((at'.map Position.second).getD false) ++ 0#3 ++
        BitVec.ofNat 4 ((at'.map fun p => p.block.val).getD 0) ++ 0#4 ++ o.windowBits,
      BitVec.ofNat 16 first.base ++ BitVec.ofNat 16 (secondOr second).base,
      BitVec.ofNat 32 first.count,
      BitVec.ofNat 16 (secondOr second).count ++ BitVec.ofNat 16 ((at'.map Position.frame).getD 0),
      BitVec.ofNat 32 freed,
      BitVec.ofNat 32 quarantined]

/-- The six words of one slot's report. -/
def SlotReport.words : SlotReport → List Word
  | .free => slotRecord 0 0 none none
  | .reserved e => slotRecord 1 e none none
  | .queued o f g x y => slotRecord 2 0 (some (o, f, g, x, y)) none
  | .active o f g x y p => slotRecord 3 0 (some (o, f, g, x, y)) (some p)
  | .ended o f g x y => slotRecord 4 0 (some (o, f, g, x, y)) none

/-- The body of a REPORT part. -/
def Report.words : Report → List Word
  | .window r => r.words
  | .agent r => r.words
  | .frames r => r.words
  | .scrubLow e slots => e.words ++ slots.flatMap SlotReport.words
  | .scrubHigh slots => slots.flatMap SlotReport.words

/-! ## Replies and notices on S (table 10-6) -/

/-- The body of a NOTICE. -/
def Notice.words : Notice → List Word
  | .port a st r n =>
    [1#8 ++ BitVec.ofNat 8 a ++ BitVec.ofNat 4 st.code ++ BitVec.ofNat 4 r.code ++ BitVec.ofNat 8 n]
  | .scrub i o first second freed quarantined =>
    [2#8 ++ BitVec.ofNat 8 i ++ BitVec.ofNat 2 o.code ++ BitVec.ofNat 2 (runsCount second) ++ o.windowBits,
      BitVec.ofNat 32 first.base, BitVec.ofNat 32 first.count, BitVec.ofNat 32 (secondOr second).base,
      BitVec.ofNat 32 (secondOr second).count, BitVec.ofNat 32 freed, BitVec.ofNat 32 quarantined]

/-- The words of a message to the supervisor. -/
def SupMsg.words : SupMsg → List Word
  | .refused kind tag reason => frameOf 0x41 tag 0 [kind ++ 0#16 ++ reason.code]
  | .accepted tag => frameOf 0x42 tag 0 []
  | .done tag outcome generation lost slot credit =>
    frameOf 0x43 tag 0
      [BitVec.ofNat 8 outcome.code ++ 0#5 ++ flagBit credit.isSome ++ flagBit slot.isSome ++ flagBit generation.isSome ++
          lost.bits ++ 0#4 ++ BitVec.ofNat 4 ((slot.map Fin.val).getD 0),
        generation.getD 0 ++ 0#8 ++ BitVec.ofNat 8 (credit.getD 0)]
  | .report tag part last contents =>
    frameOf 0x44 tag (flagBit last ++ 0#4 ++ BitVec.ofNat 4 part) contents.words
  | .notice n => frameOf 0x45 0 0 n.words

/-! ## The memory link (table 10-8) -/

/-- The words of a FILL. -/
def FillMsg.words (m : FillMsg) : List Word :=
  frameOf 0x51 0 0
    [0#14 ++ BitVec.ofNat 2 m.id ++ m.seq, BitVec.ofNat 16 m.frame ++ 0#12 ++ BitVec.ofNat 4 m.block, m.pattern]

/-- The frames of messages that an action sends on a link, in the order they leave (R164). -/
def Outputs.framesOn (o : Outputs) : LinkId → List (List Word)
  | .agent a => (o.agents[a]).map AgentMsg.words
  | .sup => o.sup.map SupMsg.words
  | .mem => o.mem.map FillMsg.words

end Sys2Proof.Machine
end

