-- ==== Sys2Proof/WellFormed.lean ====
section
/-!
DEFINITION. Which commands the world can send: the checks tie each command that stands for a received frame to the
frame it stands for (spec/10). Every other command is well-formed with every value of its fields (R166).
-/

namespace Sys2Proof

/-- The body length in words that table 10-2 gives a kind code received on a link; none when the link does not
receive that kind ("a message whose kind is known only for another link, or only for sending, is of a kind the link
does not know", R165). -/
def bodyWords (l : LinkId) (kind : BitVec 8) : Option Nat :=
  match l with
  | .agent _ =>
    [(0x01, 1), (0x02, 1), (0x03, 0), (0x04, 0), (0x05, 0), (0x06, 0)].lookup kind.toNat
  | .sup =>
    [(0x21, 4), (0x22, 4), (0x23, 4), (0x24, 1), (0x25, 1), (0x26, 0), (0x27, 0), (0x28, 0), (0x29, 0), (0x2A, 0),
      (0x2B, 0), (0x2C, 0), (0x2D, 2), (0x2E, 1), (0x2F, 0), (0x30, 2), (0x31, 0), (0x32, 1), (0x33, 0)].lookup
      kind.toNat
  | .mem => [(0x52, 1)].lookup kind.toNat

/-- Bits 31-24 and 23-16 of a control word (R161). -/
def isControlWord (w : Word) : Bool := w.extractLsb' 24 8 == 0#8
/-- The control code of a control word (R161). -/
def controlCode (w : Word) : BitVec 8 := w.extractLsb' 16 8

/-- A command is well-formed when it can stand for something the links receive:
an UNKNOWN_KIND_MESSAGE fails the format check and is no control word and no over-long message; an over-long link
error names 65 to 127 words (table 10-1); a MESSAGE_IN_TRAINING has a first word and is no parameter word; an
OTHER_CONTROL_CODE_WORD is a control word with neither of the two control codes of R161. -/
def Instr.wellFormed : Instr → Bool
  | .unknownKindMessage l kind _ body =>
    kind != 0#8 && decide (body.length ≤ Config.maxBodyWords) && bodyWords l kind != some body.length
  | .linkError _ (.overLong n) => decide (Config.maxBodyWords < n.toNat)
  | .messageInTraining _ words =>
    match words with
    | [] => false
    | w :: _ => !(isControlWord w && controlCode w == 1#8)
  | .otherControlCodeWord _ w => isControlWord w && controlCode w != 1#8 && controlCode w != 2#8
  | .lookup .. | .released .. | .returnSlot .. | .flush .. | .switch .. | .join .. | .configure .. | .create ..
  | .change .. | .retire .. | .abandon .. | .groupOpen .. | .groupCommit .. | .groupAbandon .. | .admitAgent ..
  | .fence .. | .suspendScrub .. | .resumeScrub .. | .rescrub .. | .queryWindow .. | .queryAgent .. | .queryFrames ..
  | .queryScrub .. | .noticeCredit .. | .restart .. | .filled .. | .recallDeadlineExpiry .. | .fillDeadlineExpiry ..
  | .resetN | .carrierDetected .. | .parameterWord .. | .carrierLost .. | .linkError _ .crcMismatch
  | .linkError _ .noCredit | .linkError _ .parameterWord | .creditReturnWord .. | .resetNRelease => true

end Sys2Proof
end

