-- ==== Sys2Proof/Decode.lean ====
section
/-!
DEFINITION. Words read into commands. spec/opcode_table.json gives its rows no bits, so a table word spells no command.
The spec's own layouts (spec/10 section 10.5) do say which command a received frame is: `frameCommand` reads a frame as
the link's condition has it, and `commandFrame` writes the frame of a command that stands for one.
-/

namespace Sys2Proof

open Sys2Proof.Machine

/-- No row of the table has bits: no word spells a command. -/
def decodeTableWord (_nbits _w : Nat) : Option Instr := none

/-! ## Frames received -/

/-- Bits of a word, from bit `lo` up. -/
def bitsAt (w : Word) (lo n : Nat) : BitVec n := w.extractLsb' lo n

/-- An option that a presence bit marks (R166). -/
def present {α : Type} (bit : BitVec 1) (v : α) : Option α := if bit = 1 then some v else none

/-- A message from agent a whose kind and length are known (table 10-4). -/
def agentCommand (a : AgentId) (kind tag : BitVec 8) (subject : BitVec 9) (body : List Word) : Option Instr :=
  match kind.toNat, body with
  | 0x01, [w0] => some (.lookup a tag (bitsAt w0 16 16) (bitsAt w0 0 2))
  | 0x02, [w0] => some (.released a (bitsAt w0 16 16) (bitsAt w0 0 16))
  | 0x03, [] => some (.returnSlot a tag subject)
  | 0x04, [] => some (.flush a tag)
  | 0x05, [] => some (.switch a tag subject)
  | 0x06, [] => some (.join a)
  | _, _ => none

/-- A message from the supervisor whose kind and length are known (table 10-5 and the text after it). -/
def supCommand (kind tag : BitVec 8) (subject : BitVec 9) (body : List Word) : Option Instr :=
  match kind.toNat, body with
  | 0x21, [w0, w1, w2, w3] => some (.configure tag w0 w1 (bitsAt w2 31 1 == 1) (bitsAt w2 0 8) w3)
  | 0x22, [w0, w1, w2, w3] =>
    some (.create tag (bitsAt w0 16 16) (bitsAt w0 8 8) (bitsAt w0 0 1 == 1) (bitsAt w1 24 8) (bitsAt w1 16 8)
      (bitsAt w1 0 16) w2 w3)
  | 0x23, [w0, w1, w2, w3] =>
    some (.change tag (bitsAt w0 16 16) (present (bitsAt w0 0 1) (bitsAt w0 8 8))
      (present (bitsAt w0 1 1) (bitsAt w1 0 16)) (present (bitsAt w0 2 1) (w2, w3))
      (present (bitsAt w0 3 1) (bitsAt w0 4 1 == 1)))
  | 0x24, [w0] => some (.retire tag (bitsAt w0 16 16) (present (bitsAt w0 0 1) (bitsAt w0 8 8)))
  | 0x25, [w0] => some (.abandon tag (bitsAt w0 0 8))
  | 0x26, [] => some (.groupOpen tag subject)
  | 0x27, [] => some (.groupCommit tag subject)
  | 0x28, [] => some (.groupAbandon tag subject)
  | 0x29, [] => some (.admitAgent tag subject)
  | 0x2A, [] => some (.fence tag subject)
  | 0x2B, [] => some (.suspendScrub tag)
  | 0x2C, [] => some (.resumeScrub tag)
  | 0x2D, [w0, w1] => some (.rescrub tag w0 w1)
  | 0x2E, [w0] => some (.queryWindow tag (bitsAt w0 0 16))
  | 0x2F, [] => some (.queryAgent tag subject)
  | 0x30, [w0, w1] => some (.queryFrames tag w0 w1)
  | 0x31, [] => some (.queryScrub tag)
  | 0x32, [w0] => some (.noticeCredit tag w0)
  | 0x33, [] => some (.restart tag)
  | _, _ => none

/-- A message from the fabric whose kind and length are known (table 10-8). -/
def memCommand (kind : BitVec 8) (body : List Word) : Option Instr :=
  match kind.toNat, body with
  | 0x52, [w0] => some (.filled (bitsAt w0 24 8) (bitsAt w0 16 2) (bitsAt w0 0 16))
  | _, _ => none

/-- A message received in good order: its command, or UNKNOWN_KIND_MESSAGE when the kind is not one the link receives or
the body has another length (R165). -/
def messageCommand (l : LinkId) (kind tag : BitVec 8) (subject : BitVec 9) (body : List Word) : Instr :=
  (match l with
    | .agent a => agentCommand a kind tag subject body
    | .sup => supCommand kind tag subject body
    | .mem => memCommand kind body).getD (.unknownKindMessage l kind tag body)

/-- A control word received with its CRC word (R161, R162; log 21). -/
def controlCommand (l : LinkId) (st : LinkState) (w : Word) (crcOk : Bool) : Option Instr :=
  match st with
  | .down => none
  | .up =>
    if !crcOk then some (.linkError l .crcMismatch)
    else if controlCode w = 1 then some (.linkError l .parameterWord)
    else if controlCode w = 2 then some (.creditReturnWord l (bitsAt w 0 8))
    else some (.otherControlCodeWord l w)
  | .training =>
    if controlCode w = 1 then some (.parameterWord l crcOk (bitsAt w 12 4) (bitsAt w 8 4) (bitsAt w 0 8))
    else if !crcOk then some (.messageInTraining l [w])
    else if controlCode w = 2 then some (.creditReturnWord l (bitsAt w 0 8))
    else some (.otherControlCodeWord l w)

/-- A header with the words after it, on an UP link with `credits` in the partner's hand (R162, R163, R165). -/
def upMessage (l : LinkId) (credits : Nat) (h : Word) (rest : List Word) : Option Instr :=
  let n := bitsAt h 17 7
  if Config.maxBodyWords < n.toNat then some (.linkError l (.overLong n))
  else if rest.length ≠ n.toNat + 1 then none
  else if rest.getLast? ≠ some (crcOf (h :: rest.dropLast)) then some (.linkError l .crcMismatch)
  else if credits = 0 then some (.linkError l .noCredit)
  else some (messageCommand l (bitsAt h 24 8) (bitsAt h 9 8) (bitsAt h 0 9) rest.dropLast)

/-- The command that a received frame is, on a link in a state with `credits` in the partner's hand. `none` where
nothing is received (a DOWN link) and where the words are not one frame. -/
def frameCommand (l : LinkId) (st : LinkState) (credits : Nat) (ws : List Word) : Option Instr :=
  match ws with
  | [] => none
  | h :: rest =>
    if isControlWord h then
      match rest with
      | [c] => controlCommand l st h (c == crcOf [h])
      | _ => none
    else
      match st with
      | .down => none
      | .training => some (.messageInTraining l ws)
      | .up => upMessage l credits h rest

/-! ## Frames of commands -/

/-- An optional value's bits, 0 when absent (R166). -/
def orZero {n : Nat} (v : Option (BitVec n)) : BitVec n := v.getD 0

/-- The link, kind, tag, subject and body of a command that stands for a message of a known kind. -/
def commandMessage : Instr → Option (LinkId × BitVec 8 × BitVec 8 × BitVec 9 × List Word)
  | .lookup a tag window rights => some (.agent a, 0x01, tag, 0, [window ++ 0#14 ++ rights])
  | .released a window generation => some (.agent a, 0x02, 0, 0, [window ++ generation])
  | .returnSlot a tag slot => some (.agent a, 0x03, tag, slot, [])
  | .flush a tag => some (.agent a, 0x04, tag, 0, [])
  | .switch a tag context => some (.agent a, 0x05, tag, context, [])
  | .join a => some (.agent a, 0x06, 0, 0, [])
  | .configure tag frames recallUnits scrub fill pattern =>
    some (.sup, 0x21, tag, 0, [frames, recallUnits, flagBit scrub ++ 0#23 ++ fill, pattern])
  | .create tag window cls scrub agent context rights base count =>
    some (.sup, 0x22, tag, 0, [window ++ cls ++ 0#7 ++ flagBit scrub, agent ++ context ++ rights, base, count])
  | .change tag window group rights run scrub =>
    some (.sup, 0x23, tag, 0,
      [window ++ orZero group ++ 0#3 ++ flagBit (scrub.getD false) ++ flagBit scrub.isSome ++ flagBit run.isSome ++
          flagBit rights.isSome ++ flagBit group.isSome,
        0#16 ++ orZero rights, (run.map Prod.fst).getD 0, (run.map Prod.snd).getD 0])
  | .retire tag window group =>
    some (.sup, 0x24, tag, 0, [window ++ orZero group ++ 0#7 ++ flagBit group.isSome])
  | .abandon tag target => some (.sup, 0x25, tag, 0, [0#24 ++ target])
  | .groupOpen tag group => some (.sup, 0x26, tag, group, [])
  | .groupCommit tag group => some (.sup, 0x27, tag, group, [])
  | .groupAbandon tag group => some (.sup, 0x28, tag, group, [])
  | .admitAgent tag agent => some (.sup, 0x29, tag, agent, [])
  | .fence tag agent => some (.sup, 0x2A, tag, agent, [])
  | .suspendScrub tag => some (.sup, 0x2B, tag, 0, [])
  | .resumeScrub tag => some (.sup, 0x2C, tag, 0, [])
  | .rescrub tag base count => some (.sup, 0x2D, tag, 0, [base, count])
  | .queryWindow tag window => some (.sup, 0x2E, tag, 0, [0#16 ++ window])
  | .queryAgent tag agent => some (.sup, 0x2F, tag, agent, [])
  | .queryFrames tag base count => some (.sup, 0x30, tag, 0, [base, count])
  | .queryScrub tag => some (.sup, 0x31, tag, 0, [])
  | .noticeCredit tag n => some (.sup, 0x32, tag, 0, [n])
  | .restart tag => some (.sup, 0x33, tag, 0, [])
  | .filled status id seq => some (.mem, 0x52, 0, 0, [status ++ 0#6 ++ id ++ seq])
  | .unknownKindMessage l kind tag body => some (l, kind, tag, 0, body)
  | .recallDeadlineExpiry .. | .fillDeadlineExpiry .. | .resetN | .carrierDetected .. | .parameterWord ..
  | .carrierLost .. | .linkError .. | .creditReturnWord .. | .messageInTraining .. | .resetNRelease
  | .otherControlCodeWord .. => none

/-- The frame of a command that stands for a message, with the link it arrives on. -/
def commandFrame (i : Instr) : Option (LinkId × List Word) :=
  (commandMessage i).map fun m => (m.1, frameOf m.2.1 m.2.2.1 m.2.2.2.1 m.2.2.2.2)

end Sys2Proof
end

