-- ==== Sys2Proof/Machine/Flags.lean ====
section
/-!
DEFINITION. Conditions derived from the records: the order of rights, the condition of a window, which holdings a
change affects, which frames it releases. Nothing here is stored (R7).
-/

namespace Sys2Proof.Machine

/-! ## Rights -/

/-- The place of a rights value in the order NONE, READ, READWRITE. -/
def Rights.rank : Rights → Nat
  | .none => 0
  | .read => 1
  | .readWrite => 2

/-- One rights value exceeds another when it stands later in the order (spec/01 section 1.1). -/
def Rights.exceeds (r q : Rights) : Bool := decide (q.rank < r.rank)

/-- The rights entries as a record of this class stores them: in a BOUND record every entry but the bound agent's is
NONE (R4). -/
def storedRights (cls : WindowClass) (r : RightsSet) : RightsSet :=
  match cls with
  | .shared => r
  | .bound a _ => Vector.ofFn fun b => if b = a then r[b] else .none

/-- SHARED or BOUND (R3). -/
def WindowClass.name : WindowClass → ClassName
  | .shared => .shared
  | .bound .. => .bound

/-- Whether the class and binding allow agent a in context c (R3; check 6 of R42). -/
def WindowClass.allows (cls : WindowClass) (a : AgentId) (c : Fin 16) : Bool :=
  match cls with
  | .shared => true
  | .bound b d => b == a && d == c

/-! ## The condition of a window -/

/-- RECALLING or READY: the entry's window is IN_RECALL and its removals may count (R7, R70). -/
def Entry.inRound (x : Entry) : Bool := x.state != .held

/-- The condition of window w, read from its pending change (R7, table 1-2). -/
def State.condition (s : State) (w : Nat) : Condition :=
  match (s.window w).pending with
  | none => .none
  | some e =>
    match s.entry e with
    | none => .none
    | some x => if x.inRound then .inRecall else .claimed

/-! ## What a change affects -/

/-- Whether an entry's kind affects a holding with these held rights of agent a, the window's record being `l`
(R65, table 4-4). -/
def ChangeKind.affects (k : ChangeKind) (l : LiveFields) (a : AgentId) (held : Rights) : Bool :=
  match k with
  | .retire => true
  | .change rights run _ =>
    match run with
    | some r => if r ≠ l.run then true else rightsLowered rights
    | none => rightsLowered rights
where
  /-- The held rights exceed the new entry, read in the form the record will store it. -/
  rightsLowered : Option RightsSet → Bool
    | some new => held.exceeds (storedRights l.cls new)[a]
    | none => false

/-- The slot of a table that names window w, if any; R29 allows one at most. -/
def SlotTable.naming (t : SlotTable) (w : Nat) : Option (Fin 64) :=
  (List.finRange 64).find? fun i =>
    match t.slots[i] with
    | some h => h.window == w
    | none => false

/-- The holding of window w in a table, if any. -/
def SlotTable.holding (t : SlotTable) (w : Nat) : Option Holding :=
  match t.naming w with
  | some i => t.slots[i]
  | none => none

/-- The awaited set when an entry's recall starts: the agents for whom the Slot Mirror lists a holding of the window
that the change affects (R65). -/
def State.affectedAgents (s : State) (k : ChangeKind) (w : Nat) : FinSet 8 :=
  match (s.window w).live with
  | none => noneOf 8
  | some l =>
    Vector.ofFn fun a =>
      match (s.table a).holding w with
      | some h => k.affects l a h.rights
      | none => false

/-! ## Released frames -/

/-- The lower and upper released runs of a move from the old run to the new one (R105): none, one or both, the lower
first. -/
def releasedRuns (old new : Run) : List Run :=
  let b := old.base
  let stop := old.base + old.count
  let b' := new.base
  let stop' := new.base + new.count
  (if b < b' then [{ base := b, count := min stop b' - b }] else []) ++
    (if stop' < stop then [{ base := max b stop', count := stop - max b stop' }] else [])

/-- The runs an entry releases from the window's current run (R63, R105): the whole run for a RETIRE, what a differing
new run leaves out for a CHANGE, else none. -/
def ChangeKind.released (k : ChangeKind) (current : Run) : List Run :=
  match k with
  | .retire => [current]
  | .change _ (some new) _ => if new ≠ current then releasedRuns current new else []
  | .change _ none _ => []

/-! ## Ports and scrub slots -/

/-- Whether agent a's port is ADMITTED (R132). -/
def State.isAdmitted (s : State) (a : AgentId) : Bool := (s.port a).state == .admitted

/-- Whether a scrub slot is FREE. -/
def ScrubSlot.isFree : ScrubSlot → Bool
  | .free => true
  | _ => false

/-- The lowest-numbered FREE scrub slot (R114). -/
def State.freeSlot (s : State) : Option (Fin 16) := (List.finRange 16).find? fun i => (s.slot i).isFree

/-- The lowest-numbered FREE Change Table entry (R58). -/
def State.freeEntry (s : State) : Option (Fin 16) := (List.finRange 16).find? fun e => (s.entry e).isNone

end Sys2Proof.Machine
end

