-- ==== Sys2Proof/Machine/Engine.lean ====
section
/-!
DEFINITION. The Scrub Engine's own actions (spec/07): jobs and the queue, the sending of fills, the end of a job,
suspension and the loss of M. The commands that reach the engine call these.
-/

namespace Sys2Proof.Machine

/-! ## A job's issue order -/

/-- The runs of a job, the first below the second (R116). -/
def Job.runs (j : Job) : List Run :=
  match j.second with
  | none => [j.first]
  | some r => [j.first, r]

/-- Whether a frame lies in a run. -/
def Run.covers (r : Run) (f : Nat) : Bool := decide (r.base ≤ f) && decide (f < r.base + r.count)

/-- Whether a frame lies in one of the job's runs. -/
def Job.covers (j : Job) (f : Nat) : Bool := j.runs.any fun r => r.covers f

/-- The number of frames in the job's runs. -/
def Job.size (j : Job) : Nat := (j.runs.map Run.count).sum

/-- A job as it is queued: position at block 0 of the first frame of the first run, tally empty, counts 0 (R116). -/
def Job.fresh (o : Origin) (first : Run) (second : Option Run) : Job :=
  { origin := o, first := first, second := second, position := some { second := false, frame := first.base, block := 0 }
    tally := [], freed := 0, quarantined := 0 }

/-- Block 0 of the frame after the position's frame in issue order; none past the last frame of the last run, which is
END (R118). -/
def Job.nextFrame (j : Job) (p : Position) : Option Position :=
  match p.second, j.second with
  | false, none =>
    if p.frame + 1 < j.first.base + j.first.count then some { p with frame := p.frame + 1, block := 0 } else none
  | false, some r =>
    if p.frame + 1 < j.first.base + j.first.count then some { p with frame := p.frame + 1, block := 0 }
    else some { second := true, frame := r.base, block := 0 }
  | true, some r =>
    if p.frame + 1 < r.base + r.count then some { p with frame := p.frame + 1, block := 0 } else none
  | true, none => none

/-- The next block in issue order (R118). -/
def Job.nextBlock (j : Job) (p : Position) : Option Position :=
  if p.block.val < 15 then some { p with block := p.block + 1 } else j.nextFrame p

/-- The blocks of a frame filled so far (R116). -/
def Job.filled (j : Job) (f : Nat) : FinSet 16 := sparseGet (noneOf 16) j.tally f

/-- The first block from b on that is not in a set of blocks. -/
def firstUnfilled (t : FinSet 16) (b : Fin 16) : Option (Fin 16) :=
  (List.finRange 16).find? fun c => decide (b ≤ c) && !t[c]

/-- The position after passing over: whole frames not SCRUBBING for the slot, and within a SCRUBBING frame the blocks
already in its tally (R118). The number bounds the frames looked at; a job's size plus one is enough. -/
def passOver (s : State) (i : Fin 16) (j : Job) : Nat → Option Position → Option Position
  | 0, _ => none
  | _, none => none
  | n + 1, some p =>
    if s.frame p.frame = .scrubbing i then
      match firstUnfilled (j.filled p.frame) p.block with
      | some b => some { p with block := b }
      | none => passOver s i j n (j.nextFrame p)
    else passOver s i j n (j.nextFrame p)

/-- `passOver` over as many frames as the job has. -/
def State.passed (s : State) (i : Fin 16) (j : Job) (p : Option Position) : Option Position :=
  passOver s i j (j.size + 1) p

/-! ## The ACTIVE job and the fills in flight -/

/-- The job of an ACTIVE slot. -/
def ScrubSlot.activeJob : ScrubSlot → Option Job
  | .active j => some j
  | _ => none

/-- The ACTIVE job with its slot (R117). -/
def State.active (s : State) : Option (Fin 16 × Job) :=
  (List.finRange 16).findSome? fun i => (s.slot i).activeJob.map fun j => (i, j)

/-- The fill in flight under a fill id (R119). -/
def State.fill (s : State) (k : Fin 4) : Option Fill := s.scrub.fills[k]

/-- The fill in flight under an id, set or ended. -/
def State.setFill (s : State) (k : Fin 4) (x : Option Fill) : State :=
  s.setScrub { s.scrub with fills := s.scrub.fills.set k x }

/-- The engine state written (R117). -/
def State.setEngine (s : State) (x : Engine) : State := s.setScrub { s.scrub with engine := x }

/-- The lowest-numbered fill id not in flight (R119). -/
def State.freeFillId (s : State) : Option (Fin 4) := (List.finRange 4).find? fun k => (s.fill k).isNone

/-- Whether no fill is in flight. -/
def State.quiet (s : State) : Bool := (List.finRange 4).all fun k => (s.fill k).isNone

/-- The fill pattern of the configuration (R147); no fill is sent while the device is UNCONFIGURED (R131). -/
def State.pattern (s : State) : Word :=
  match s.device with
  | .unconfigured => 0
  | .serving c => c.pattern

/-- One fill sent where R118 allows it: the engine RUNNING, M UP, the ACTIVE job's position not END, a fill id free.
The fill takes the lowest free id and the sequence counter's value, the counter goes up by one, and the position moves
to the next block (R118, R119). -/
def State.sendOneFill (s : State) : State :=
  if s.scrub.engine = .running ∧ s.isUp .mem then
    match s.active, s.freeFillId with
    | some (i, j), some k =>
      match s.passed i j j.position with
      | none => s.setSlot i (.active { j with position := none })
      | some p =>
        let f : Fill := { seq := s.scrub.seq, frame := p.frame, block := p.block }
        let s1 := s.setSlot i (.active { j with position := s.passed i j (j.nextBlock p) })
        let s2 := s1.setFill k (some f)
        let s3 := s2.setScrub { s2.scrub with seq := s2.scrub.seq + 1 }
        s3.sendFill { id := k, seq := f.seq, frame := f.frame, block := f.block, pattern := s.pattern }
    | _, _ => s
  else s

/-- Fills sent until 4 are in flight or the position reaches END (R118). -/
def State.sendFills (s : State) : State := s.sendOneFill.sendOneFill.sendOneFill.sendOneFill

/-! ## The end of a job and the start of the next -/

/-- Whether the job of a slot has a frame SCRUBBING for that slot in its runs. An unlisted frame is FREE. -/
def State.hasScrubbing (s : State) (i : Fin 16) (j : Job) : Bool :=
  s.frames.any fun p => p.2 == FrameState.scrubbing i && j.covers p.1

/-- The SCRUB notice of an ended job (R123). -/
def Job.notice (i : Fin 16) (j : Job) : Notice := .scrub i j.origin j.first j.second j.freed j.quarantined

/-- A RUNNING engine without an ACTIVE job starts the job at the head of the queue, or goes IDLE (R117). -/
def State.startNext (s : State) : State :=
  if s.scrub.engine = .running ∧ s.active = none then
    match s.scrub.queue with
    | [] => s.setEngine .idle
    | i :: rest =>
      let s1 := s.setScrub { s.scrub with queue := rest }
      match s.slot i with
      | .queued j => s1.setSlot i (.active j)
      | _ => s1
  else s

/-- The end of the ACTIVE job, when no frame of its runs is SCRUBBING for its slot and no fill is in flight: the slot
becomes ENDED, its SCRUB notice is posted, and the next job starts or the engine goes IDLE (R123). `none` when the job
does not end. -/
def State.endJob (s : State) : Option State :=
  match s.active with
  | none => none
  | some (i, j) =>
    if s.hasScrubbing i j || !s.quiet then none
    else some (((s.setSlot i (.ended j)).postScrub (j.notice i)).startNext)

/-- Further fills, then the check for the end of the job, again for each job it starts (R118, R120, R123). A job ends
once, so 17 rounds reach the end of the queue. -/
def runEngine : Nat → State → State
  | 0, s => s
  | n + 1, s =>
    match s.sendFills.endJob with
    | none => s.sendFills
    | some s' => runEngine n s'

/-- `runEngine` over the 16 slots. -/
def State.drive (s : State) : State := runEngine (Config.scrubSlots + 1) s

/-- A SUSPENDING engine with no fill in flight becomes SUSPENDED and the waiting SUSPEND gets its DONE (R125). -/
def State.settleSuspend (s : State) : State :=
  match s.scrub.engine with
  | .suspending t => if s.quiet then (s.setEngine .suspended).finish t .applied none (noneOf 8) none else s
  | _ => s

/-- What follows the end of a fill: further fills, the end of the job, the end of a suspension (R120, R121, R123,
R125). -/
def State.afterFill (s : State) : State := s.drive.settleSuspend

/-! ## Jobs joining the queue -/

/-- A job put in a slot, at the tail of the queue; an IDLE engine starts it at once (R116, R117). -/
def State.enqueue (s : State) (i : Fin 16) (j : Job) : State :=
  let s1 := s.setSlot i (.queued j)
  let s2 := s1.setScrub { s1.scrub with queue := s1.scrub.queue ++ [i] }
  if s2.scrub.engine = .idle then (s2.setEngine .running).startNext.drive else s2

/-! ## The end of a fill -/

/-- A job with a frame's tally written; an empty set is not listed (R116). -/
def Job.setFilled (j : Job) (f : Nat) (t : FinSet 16) : Job := { j with tally := sparseSet (noneOf 16) j.tally f t }

/-- A block counted OK for a frame SCRUBBING for the ACTIVE job's slot: it joins the tally, and a tally of all 16
blocks makes the frame FREE (R107, R120). -/
def State.countBlock (s : State) (i : Fin 16) (j : Job) (f : Nat) (b : Fin 16) : State :=
  let t := (j.filled f).add b
  if (List.finRange 16).all (fun c => t[c]) then
    (s.setFrames (sparseSet .free s.frames f .free)).setSlot i
      (.active { (j.setFilled f (noneOf 16)) with freed := j.freed + 1 })
  else s.setSlot i (.active (j.setFilled f t))

/-- A frame quarantined by a failed fill: it leaves the tally, and a position that stands in it passes to the next
frame (R107, R121). -/
def State.quarantine (s : State) (i : Fin 16) (j : Job) (f : Nat) : State :=
  let s1 := s.setFrames (sparseSet .free s.frames f .quarantined)
  let j1 := { (j.setFilled f (noneOf 16)) with quarantined := j.quarantined + 1 }
  let position :=
    match j.position with
    | some p => if p.frame = f then s1.passed i j1 (j1.nextFrame p) else some p
    | none => none
  s1.setSlot i (.active { j1 with position := position })

/-- A fill that has ended, with whether it wrote its block: the fill id leaves the set in flight, and the frame
changes only while it is SCRUBBING for the ACTIVE job's slot (R107, R120, R121). -/
def State.fillEnds (s : State) (k : Fin 4) (f : Fill) (ok : Bool) : State :=
  let s1 := s.setFill k none
  let s2 :=
    match s1.active with
    | none => s1
    | some (i, j) =>
      if s1.frame f.frame = FrameState.scrubbing i then
        if ok then s1.countBlock i j f.frame f.block else s1.quarantine i j f.frame
      else s1
  s2.afterFill

/-! ## The loss of M -/

/-- Of two fills, the one earlier in issue order: the first run lies below the second (R116, R118). -/
def Fill.earlier (f g : Fill) : Fill :=
  if f.frame * 16 + f.block.val ≤ g.frame * 16 + g.block.val then f else g

/-- The earliest fill in flight in issue order, if any (R128). -/
def State.earliestFill (s : State) : Option Fill :=
  (List.finRange 4).foldl
    (fun best k =>
      match best, s.fill k with
      | none, x => x
      | some f, none => some f
      | some f, some g => some (f.earlier g))
    none

/-- M leaves UP: every fill in flight is forgotten, the ACTIVE job's position is rewound to the earliest block that
had a fill in flight, and what follows the end of a fill happens (R123, R128). -/
def State.loseMem (s : State) : State :=
  let s1 :=
    match s.active, s.earliestFill with
    | some (i, j), some f =>
      let back : Position := { second := !j.first.covers f.frame, frame := f.frame, block := f.block }
      s.setSlot i (.active { j with position := some back })
    | _, _ => s
  (s1.setScrub { s1.scrub with fills := Vector.replicate 4 none }).afterFill

end Sys2Proof.Machine
end

