-- ==== Sys2Proof/Machine/Mirror.lean ====
section
/-!
DEFINITION. The Slot Mirror's own actions (spec/02): removals and their report, slot choice, and the GRANT and RECALL
messages with the recalled and regranted sets (R68).
-/

namespace Sys2Proof.Machine

/-! ## Removals -/

/-- The Change Unit takes the report of a removal of agent a's holding of window w (R28, R70). When w's pending entry is
RECALLING or READY, awaits a, and is no member of the group whose abandonment is being taken (R97), a leaves the
awaited set, and enters the lost set when the cause is DEPARTURE. Every other report changes nothing. -/
def State.report (s : State) (abandoning : Option (Fin 4)) (a : AgentId) (w : Nat) (departure : Bool) : State :=
  match (s.window w).pending with
  | none => s
  | some e =>
    match s.entry e with
    | none => s
    | some x =>
      if x.inRound && x.awaited[a] && !(x.group.isSome && x.group == abandoning) then
        s.setEntry e (some { x with awaited := x.awaited.del a, lost := if departure then x.lost.add a else x.lost })
      else s

/-- The removal of the holding in a slot: the slot becomes EMPTY, the agent leaves the window's holder set (R10), and
the removal is reported (R28). An EMPTY slot has nothing to remove. -/
def State.removeSlot (s : State) (abandoning : Option (Fin 4)) (a : AgentId) (departure : Bool) (i : Fin 64) : State :=
  match (s.table a).slots[i] with
  | none => s
  | some h =>
    let s1 := s.setTable a { s.table a with slots := (s.table a).slots.set i none }
    let r := s1.window h.window
    (s1.setWindow h.window { r with holders := r.holders.del a }).report abandoning a h.window departure

/-- The removal of every holding of an agent that a test picks, in slot order (R33, R34, R37). -/
def State.removeWhere (s : State) (a : AgentId) (departure : Bool) (pick : Holding → Bool) : State :=
  (List.finRange 64).foldl
    (fun s i =>
      match (s.table a).slots[i] with
      | some h => if pick h then s.removeSlot none a departure i else s
      | none => s)
    s

/-- The number of holdings of an agent that a test picks (the count of SWITCHED, R34). -/
def SlotTable.count (t : SlotTable) (pick : Holding → Bool) : Nat :=
  (List.finRange 64).countP fun i =>
    match t.slots[i] with
    | some h => pick h
    | none => false

/-- The replacement pointer of an agent's table written (R22). -/
def State.setPointer (s : State) (a : AgentId) (p : Fin 64) : State :=
  s.setTable a { s.table a with pointer := p }

/-! ## Entries that end their waiting -/

/-- Whether an entry awaits some agent. -/
def State.awaits (s : State) (e : Fin 16) : Bool :=
  match s.entry e with
  | some x => !x.awaited.empty
  | none => false

/-- The entries whose awaited set became empty between two moments of one action, in ascending entry order (R74). -/
def emptied (before after : State) : List (Fin 16) :=
  (List.finRange 16).filter fun e => before.awaits e && !after.awaits e

/-- How an entry ends its waiting (R71): the cascade of Machine/Cascade.lean, handed to the actions that can bring an
entry's waiting to its end. -/
abbrev EndWait := Fin 16 → State → State

/-- Every entry emptied since `before` ends its waiting, in ascending entry order (R71, R74). -/
def endWaits (k : EndWait) (before after : State) : State :=
  (emptied before after).foldl (fun s e => k e s) after

/-! ## Slot choice -/

/-- The slot for a new holding: from the pointer upward, wrapping past 63, the first EMPTY slot; the pointer's own slot
when all 64 are HELD (R25). Addition of slot numbers wraps. -/
def SlotTable.choose (t : SlotTable) : Fin 64 :=
  (((List.finRange 64).map fun n => t.pointer + n).find? fun i => t.slots[i].isNone).getD t.pointer

/-- The pointer after a refresh or upgrade in slot i: past it when it stands on it (R22). -/
def SlotTable.pointerPast (t : SlotTable) (i : Fin 64) : Fin 64 := if t.pointer = i then t.pointer + 1 else t.pointer

/-! ## Messages of the Slot Mirror -/

/-- The GRANT of a granted lookup, built from the record as it stands (R44); it puts a window of the recalled set into
the regranted set (R68). -/
def State.sendGrant (s : State) (a : AgentId) (tag : Fin 4) (slot : Fin 64) (w : Nat) (l : LiveFields) (r : Rights)
    (evicted : Option Nat) : State :=
  let t := s.table a
  let s1 := if t.recalled.contains w then s.setTable a { t with regranted := natInsert t.regranted w } else s
  s1.sendAgent a (.grant tag slot w (s.window w).generation l.cls.name l.run r evicted)

/-- The RECALL of window w to an awaited agent, naming the slot that lists its holding (R67); the window enters the
recalled set and leaves the regranted set (R68). -/
def State.sendRecall (s : State) (w : Nat) (a : AgentId) : State :=
  let t := s.table a
  match t.naming w with
  | none => s
  | some i =>
    (s.setTable a { t with recalled := natInsert t.recalled w, regranted := natErase t.regranted w }).sendAgent a
      (.recall i w (s.window w).generation)

/-- A granted lookup of agent a for window w with rights r (R23 to R27). An existing holding is refreshed, or upgraded
when it holds READ and READWRITE is asked. Otherwise a new holding goes into the chosen slot; a holding that stands
there is evicted in the same action, and the entry that its removal empties ends its waiting after the GRANT (R52,
log 6). -/
def grant (k : EndWait) (abandoning : Option (Fin 4)) (a : AgentId) (tag : Fin 4) (w : Nat) (r : Rights)
    (l : LiveFields) (s : State) : State :=
  let t := s.table a
  match t.naming w with
  | some i =>
    let held :=
      match t.slots[i] with
      | some h => if r.exceeds h.rights then r else h.rights
      | none => r
    let slots :=
      match t.slots[i] with
      | some h => t.slots.set i (some { h with rights := held })
      | none => t.slots
    (s.setTable a { t with slots := slots, pointer := t.pointerPast i }).sendGrant a tag i w l held none
  | none =>
    let i := t.choose
    let s1 := s.removeSlot abandoning a false i
    let t1 := s1.table a
    let s2 := s1.setTable a
      { t1 with slots := t1.slots.set i (some { window := w, rights := r, cls := l.cls.name }), pointer := i + 1 }
    let rec' := s2.window w
    let s3 := s2.setWindow w { rec' with holders := rec'.holders.add a }
    endWaits k s (s3.sendGrant a tag i w l r (t.slots[i].map Holding.window))

end Sys2Proof.Machine
end

