-- ==== Sys2Proof/Machine/Cascade.lean ====
section
/-!
DEFINITION. Lookups decided against a record, re-takes of parked lookups, and the ends of changes: application,
abandonment, the READY wait of a group and its application (spec/03 section 3.6, spec/04 sections 4.6 to 4.10,
spec/05). These are one recursion: a re-take's GRANT may evict a holding that another change awaits, which then ends
within that GRANT's step (R52).
-/

namespace Sys2Proof.Machine

/-! ## A lookup decided against the record -/

/-- REFUSE of a LOOKUP (R43): its kind code 01h, its tag and its window. -/
def State.refuseLookup (s : State) (a : AgentId) (tag : BitVec 8) (window : BitVec 16) (r : Reason) : State :=
  s.sendAgent a (.refuse 0x01 tag r window)

/-- Checks 4, 6, 7 and 8 of R42, against the record and the agent's context as they stand. -/
def answerLookup (k : EndWait) (abandoning : Option (Fin 4)) (a : AgentId) (tag : Fin 4) (w : Nat) (r : Rights)
    (s : State) : State :=
  match (s.window w).live with
  | none => s.refuseLookup a (BitVec.ofNat 8 tag) (BitVec.ofNat 16 w) .noWindow
  | some l =>
    if !l.cls.allows a (s.port a).context || r.exceeds l.rights[a] then
      s.refuseLookup a (BitVec.ofNat 8 tag) (BitVec.ofNat 16 w) .denied
    else grant k abandoning a tag w r l s

/-- A parked lookup answered on re-taking: its tag leaves the set of tags in use in that step (R50). -/
def retakeOne (k : EndWait) (abandoning : Option (Fin 4)) (p : Parked) (s : State) : State :=
  answerLookup k abandoning p.agent p.tag p.window p.rights (s.setLookupTag p.agent p.tag false)

/-- The re-take of window w: its entries leave the Park List together and are answered one after another in list
order (R50, R51). -/
def retake (k : EndWait) (abandoning : Option (Fin 4)) (w : Nat) (s : State) : State :=
  (s.park.filter (fun p => p.window == w)).foldl (fun s p => retakeOne k abandoning p s)
    (s.setPark (s.park.filter fun p => p.window != w))

/-! ## The parts of an application -/

/-- The LIVE fields as a CHANGE writes them: each value it carries, the others kept (R12). -/
def LiveFields.changed (l : LiveFields) (rights : Option RightsSet) (run : Option Run) (scrub : Option Bool) :
    LiveFields :=
  { cls := l.cls
    run := run.getD l.run
    rights :=
      match rights with
      | some r => storedRights l.cls r
      | none => l.rights
    scrub := scrub.getD l.scrub }

/-- The record as the application of an entry writes it (R2, R8, R12): the generation goes up by one and the pending
change becomes absent; a CHANGE writes its values, a RETIRE makes the record FREE. -/
def ChangeKind.applied (k : ChangeKind) (r : Window) (l : LiveFields) : Window :=
  { r with
    generation := r.generation + 1
    pending := none
    live :=
      match k with
      | .retire => none
      | .change rights run scrub => some (l.changed rights run scrub) }

/-- Every frame RESERVED for window w put in another state (R104, R105). -/
def settleReserved (w : Nat) (y : FrameState) (m : Sparse FrameState) : Sparse FrameState :=
  sparseMap .free (fun x => if x = .reserved w then y else x) m

/-- Every frame of some runs put in one state. -/
def fillRuns (m : Sparse FrameState) (runs : List Run) (x : FrameState) : Sparse FrameState :=
  runs.foldl (fun m r => sparseFill .free m r.base r.count x) m

/-- The scrub job of an application: the released runs, the lower first, origin the window (R106). -/
def releaseJob (w : Nat) : List Run → Option Job
  | [] => none
  | [r] => some (Job.fresh (.window w) r none)
  | r :: q :: _ => some (Job.fresh (.window w) r (some q))

/-- The scrub slot whose job an application queues: the slot the entry reserved, when the window's flag as it stood is
set and frames are released (R78). -/
def Entry.jobSlot (x : Entry) (l : LiveFields) : Option (Fin 16) :=
  if l.scrub ∧ x.kind.released l.run ≠ [] then x.scrubSlot else none

/-- Whether an entry carries a new run that differs from the window's current run. -/
def ChangeKind.moves (k : ChangeKind) (l : LiveFields) : Bool :=
  match k with
  | .change _ (some r) _ => decide (r ≠ l.run)
  | _ => false

/-- Part 2 of an application (R77, R78, R105, R106): for a differing new run the frames RESERVED for the window become
BOUND; the released frames become FREE, or SCRUBBING in the entry's slot with its job at the tail of the queue, by the
flag as it stood before the change. -/
def State.moveFrames (s : State) (x : Entry) (l : LiveFields) : State :=
  let m := if x.kind.moves l then settleReserved x.window (.bound x.window) s.frames else s.frames
  let released := x.kind.released l.run
  if l.scrub then
    match x.scrubSlot, releaseJob x.window released with
    | some i, some j => (s.setFrames (fillRuns m released (.scrubbing i))).enqueue i j
    | _, _ => s.setFrames m
  else s.setFrames (fillRuns m released .free)

/-- Parts 1 to 3 of an application (R76): record, frames, entry and DONE. The entry's window is LIVE by R58; an entry
whose window were not would be left alone. -/
def State.applyParts (s : State) (e : Fin 16) (x : Entry) : State :=
  match (s.window x.window).live with
  | none => s
  | some l =>
    let r := x.kind.applied (s.window x.window) l
    (((s.setWindow x.window r).moveFrames x l).setEntry e none).finish x.tag .applied (some r.generation) x.lost
      (x.jobSlot l)

/-- The application of an entry, with the re-take of its window's parked lookups (R76). -/
def applyEntry (k : EndWait) (abandoning : Option (Fin 4)) (e : Fin 16) (s : State) : State :=
  match s.entry e with
  | none => s
  | some x => retake k abandoning x.window (s.applyParts e x)

/-! ## Groups -/

/-- Whether every member of a group is READY (R71, R95). -/
def State.allReady (s : State) (g : Fin 4) : Bool :=
  (s.group g).members.all fun e =>
    match s.entry e with
    | some x => x.state == .ready
    | none => false

/-- The union of the members' lost sets (R96). -/
def State.groupLost (s : State) (g : Fin 4) : FinSet 8 :=
  (s.group g).members.foldl
    (fun t e =>
      match s.entry e with
      | some x => t.join x.lost
      | none => t)
    (noneOf 8)

/-- The commit DONE and the end of the group (R95, R97): the commit tag leaves the set and the group is FREE with an
empty member list. A group that was not RECALLING has no commit tag. -/
def State.closeGroup (s : State) (g : Fin 4) (o : DoneOutcome) (lost : FinSet 8) : State :=
  let s1 :=
    match (s.group g).state with
    | .recalling t => s.finish t o none lost none
    | _ => s
  s1.setGroup g .initial

/-- The application of a group: its members in member order, each taken whole, then the commit DONE (R95, R96). -/
def applyGroup (k : EndWait) (abandoning : Option (Fin 4)) (g : Fin 4) (s : State) : State :=
  ((s.group g).members.foldl (fun s e => applyEntry k abandoning e s) s).closeGroup g .applied (s.groupLost g)

/-! ## The end of an entry's waiting -/

/-- An entry whose awaited set has become empty (R71): a standalone entry applies; a group member becomes READY, and
its group applies when that leaves every member READY. -/
def endWaiting (k : EndWait) (abandoning : Option (Fin 4)) (e : Fin 16) (s : State) : State :=
  match s.entry e with
  | none => s
  | some x =>
    match x.group with
    | none => applyEntry k abandoning e s
    | some g =>
      let s1 := s.setEntry e (some { x with state := .ready })
      if s1.allReady g then applyGroup k abandoning g s1 else s1

/-- `endWaiting` with its nested ends to a depth (R52). Each nested end belongs to a further entry, since an awaited
set that has become empty is not filled again within the action, so the depth of 16 entries is never exceeded
(log 14). -/
def cascadeDepth (abandoning : Option (Fin 4)) : Nat → EndWait
  | 0 => fun _ s => s
  | n + 1 => fun e s => endWaiting (cascadeDepth abandoning n) abandoning e s

/-- The end of an entry's waiting in any action but a group abandonment. -/
def cascade : EndWait := cascadeDepth none Config.changeEntries

/-! ## Abandonment -/

/-- Parts 1 to 4 of an abandonment (R82): the record's pending change becomes absent, frames RESERVED for the window
and the reserved scrub slot return to FREE, the entry returns to FREE, and DONE (ABANDONED) is sent. -/
def State.abandonParts (s : State) (e : Fin 16) (x : Entry) : State :=
  let r := s.window x.window
  let s1 := s.setWindow x.window { r with pending := none }
  let s2 := s1.setFrames (settleReserved x.window .free s1.frames)
  let s3 :=
    match x.scrubSlot with
    | some i => s2.setSlot i .free
    | none => s2
  (s3.setEntry e none).finish x.tag .abandoned (some r.generation) x.lost none

/-- A member abandoned whole, with the re-take of its window against the old record (R97). -/
def abandonMember (g : Fin 4) (e : Fin 16) (s : State) : State :=
  match s.entry e with
  | none => s
  | some x => retake (cascadeDepth (some g) Config.changeEntries) (some g) x.window (s.abandonParts e x)

/-! ## Departures -/

/-- Parts 1 to 5 of a departure (R142): the port's state and reason are written and FENCE_N goes low; the agent's table
is emptied with cause DEPARTURE, its pointer 0 and its recalled and regranted sets empty (R37, R68); its parked lookups
are removed without answer and its tags are free (R55); FENCED is sent and a PORT notice posted where the cause calls
for them. -/
def State.departParts (s : State) (a : AgentId) (st : PortState) (r : PortReason) (fenced posted : Bool) : State :=
  let s1 := (s.setPort a { s.port a with state := st, reason := r }).setFence a false
  let s2 := s1.removeWhere a true fun _ => true
  let s3 := s2.setTable a { s2.table a with pointer := 0, recalled := [], regranted := [] }
  let s4 := s3.setPark (s3.park.filter fun p => p.agent != a)
  let s5 := s4.setPort a { s4.port a with tags := noneOf 4 }
  let s6 := if fenced then s5.sendAgent a (.fenced r) else s5
  if posted then s6.postPort a else s6

/-- A single departure, with the ends of waiting it brings about (R74, R142 part 6). -/
def State.depart (s : State) (a : AgentId) (st : PortState) (r : PortReason) (fenced posted : Bool) : State :=
  endWaits cascade s (s.departParts a st r fenced posted)

end Sys2Proof.Machine
end

