-- ==== Sys2Proof/Machine/Messages.lean ====
section
/-!
DEFINITION. What links and requests share: a link's departure from UP (R141, R159, R161) and its becoming UP, the
common checks of every supervisor request (R150), the replies.
-/

namespace Sys2Proof.Machine

/-- What a command answers. -/
abbrev Answer := Host.Outcome State Fault Refusal

/-! ## A link leaving UP -/

/-- Link An leaves UP (R141): the port becomes DOWN (LINK_LOST), departing if it was ADMITTED, and a PORT notice is
posted. A port is DOWN whenever its link is not UP (R136). -/
def State.losePort (s : State) (a : AgentId) : State :=
  match (s.port a).state with
  | .down => s
  | .admitted => s.depart a .down .linkLost false true
  | .outside | .waiting => (s.setPort a { s.port a with state := .down, reason := .linkLost }).postPort a

/-- What the block that owns a link does when the link leaves UP, in the same action (R161): the Port Controller
(R141), the Supervisor Interface, whose credit becomes 0 (R159), the Scrub Engine (R128). -/
def State.leaveUp (s : State) : LinkId → State
  | .agent a => s.losePort a
  | .sup => s.setCredit 0
  | .mem => s.loseMem

/-- A link error taken on an UP link (R162): the link drops to TRAINING and sends its parameter word, every message not
yet taken is discarded, the receive credit count is set for the next exchange, and the link's owner takes the departure
from UP. -/
def State.takeLinkError (s : State) (l : LinkId) : State :=
  ((s.setLink l (.fresh .training)).sendParameterWord l).leaveUp l

/-- The loss of an UP link's carrier (R161): the link is DOWN, its receive buffer emptied and its credit count set for
the next exchange (R163, table 10-9), and its owner takes the departure from UP. -/
def State.takeCarrierLoss (s : State) (l : LinkId) : State := (s.setLink l (.fresh .down)).leaveUp l

/-- A link becoming UP as the parameter exchange completes: its partner holds 8 credits (R161, R163), port a becomes
OUTSIDE (LINK_UP) (R136), and a RUNNING engine sends fills when the link is M (R128). -/
def State.comeUp (s : State) (l : LinkId) : State :=
  let s1 := s.setLink l (.fresh .up)
  match l with
  | .agent a => s1.setPort a { s1.port a with state := .outside, reason := .linkUp }
  | .sup => s1
  | .mem => s1.drive

/-! ## Requests -/

/-- REFUSE of a request other than LOOKUP: its window field is 0 (R43, R165). -/
def State.refuseAgent (s : State) (a : AgentId) (kind tag : BitVec 8) (r : Reason) : State :=
  s.sendAgent a (.refuse kind tag r 0)

/-- A supervisor request after the format check (R150): NOT_CONFIGURED in UNCONFIGURED unless its kind is exempt, then
TAG_IN_USE, then the block's own checks and effect. -/
def request (kind tag : BitVec 8) (exempt : Bool) (act : State → State) (s : State) : State :=
  if !exempt && !s.isServing then s.refuseSup kind tag .notConfigured
  else if s.tagInUse tag then s.refuseSup kind tag .tagInUse
  else act s

/-- A subject field that must name an agent 0 to 7, else BAD_AGENT (R138, R139, R154). -/
def withAgent (kind tag : BitVec 8) (agent : BitVec 9) (act : AgentId → State → State) (s : State) : State :=
  match fieldBelow 8 agent.toNat with
  | none => s.refuseSup kind tag .badAgent
  | some a => act a s

/-- A subject field that must name a group 0 to 3, else BAD_VALUE (R89, R92, R97). -/
def withGroup (kind tag : BitVec 8) (group : BitVec 9) (act : Fin 4 → State → State) (s : State) : State :=
  match fieldBelow 4 group.toNat with
  | none => s.refuseSup kind tag .badValue
  | some g => act g s

end Sys2Proof.Machine
end

