-- ==== Sys2Proof/Machine/Agents.lean ====
section
/-!
DEFINITION. The agent's requests: LOOKUP (spec/03), RELEASED (spec/04 section 4.5), RETURN, FLUSH, SWITCH
(spec/02 section 2.4) and JOIN (spec/08 section 8.5).
-/

namespace Sys2Proof.Machine

/-! ## LOOKUP -/

/-- A lookup joins the tail of the Park List and its tag enters the agent's set (R48). -/
def State.parkLookup (s : State) (a : AgentId) (t : Fin 4) (w : Nat) (r : Rights) : State :=
  (s.setPark (s.park ++ [{ agent := a, tag := t, window := w, rights := r }])).setLookupTag a t true

/-- Whether a lookup tag of agent a is in use; a tag over 3 never is (R42, R46). -/
def State.lookupTagInUse (s : State) (a : AgentId) (tag : BitVec 8) : Bool :=
  match fieldBelow 4 tag.toNat with
  | some t => (s.port a).tags[t]
  | none => false

/-- The fields of a LOOKUP within their values (check 3 of R42). -/
def lookupFields (tag : BitVec 8) (window : BitVec 16) (rights : BitVec 2) : Option (Fin 4 × Nat × Rights) :=
  match fieldBelow 4 tag.toNat, windowNumber window, lookupRights rights with
  | some t, some w, some r => some (t, w, r)
  | _, _, _ => none

/-- A well-formed lookup of an ADMITTED agent from check 4 on (R42, R48, R49). -/
def takeLookup (a : AgentId) (t : Fin 4) (w : Nat) (r : Rights) (s : State) : State :=
  if s.condition w = .inRecall ∧ (s.window w).live ≠ none then
    if s.park.length < Config.parkCapacity then s.parkLookup a t w r
    else s.refuseLookup a (BitVec.ofNat 8 t) (BitVec.ofNat 16 w) .busy
  else answerLookup cascade none a t w r s

/-- The eight checks of R42, in order. -/
def lookupChecks (a : AgentId) (tag : BitVec 8) (window : BitVec 16) (rights : BitVec 2) (s : State) : State :=
  if !s.isAdmitted a then s.refuseLookup a tag window .notAdmitted
  else if s.lookupTagInUse a tag then s.refuseLookup a tag window .tagInUse
  else
    match lookupFields tag window rights with
    | none => s.refuseLookup a tag window .malformed
    | some (t, w, r) => takeLookup a t w r s

/-- LOOKUP (R42). -/
def actLookup (a : AgentId) (tag : BitVec 8) (window : BitVec 16) (rights : BitVec 2) : State → State :=
  lookupChecks a tag window rights

/-! ## RELEASED -/

/-- Whether a RELEASED on an ADMITTED port is counted, and the slot of its holding (R31, R68). -/
def State.countedSlot (s : State) (a : AgentId) (window generation : BitVec 16) : Option (Fin 64) :=
  match windowNumber window with
  | none => none
  | some w =>
    if generation = (s.window w).generation ∧ (s.table a).regranted.contains w = false then (s.table a).naming w
    else none

/-- Every RELEASED for w on an ADMITTED port removes w from the agent's recalled and regranted sets (R68). -/
def State.forgetRecall (s : State) (a : AgentId) (w : Nat) : State :=
  let t := s.table a
  s.setTable a { t with recalled := natErase t.recalled w, regranted := natErase t.regranted w }

/-- RELEASED of an ADMITTED port (R68): counted, it removes the holding with cause RELEASE, and the entry this empties
ends its waiting (R35, R71); stale, it changes nothing but the two sets. -/
def takeReleased (a : AgentId) (window generation : BitVec 16) (s : State) : State :=
  let s1 := s.forgetRecall a window.toNat
  match s.countedSlot a window generation with
  | none => s1
  | some i => endWaits cascade s (s1.removeSlot none a false i)

/-- RELEASED (R68); on a port that is not ADMITTED it is discarded. -/
def actReleased (a : AgentId) (window generation : BitVec 16) (s : State) : State :=
  if s.isAdmitted a then takeReleased a window generation s else s

/-! ## RETURN, FLUSH, SWITCH -/

/-- RETURN of slot i (R32): the slot is emptied, RETURNED tells whether it was HELD, and an entry this empties ends its
waiting after the reply (R35). -/
def takeReturn (a : AgentId) (i : Fin 64) (s : State) : State :=
  let wasHeld := (s.table a).slots[i].isSome
  endWaits cascade s ((s.removeSlot none a false i).sendAgent a (.returned i wasHeld))

/-- RETURN (R32, R43): the admission check, then the slot 0 to 63, else MALFORMED. -/
def actReturn (a : AgentId) (tag : BitVec 8) (slot : BitVec 9) (s : State) : State :=
  if !s.isAdmitted a then s.refuseAgent a 0x03 tag .notAdmitted
  else
    match fieldBelow 64 slot.toNat with
    | none => s.refuseAgent a 0x03 tag .malformed
    | some i => takeReturn a i s

/-- FLUSH of an ADMITTED port (R33): every holding removed, the pointer 0, FLUSHED, then the entries this empties
(R35). -/
def takeFlush (a : AgentId) (s : State) : State :=
  endWaits cascade s (((s.removeWhere a false fun _ => true).setPointer a 0).sendAgent a .flushed)

/-- FLUSH (R33, R43). -/
def actFlush (a : AgentId) (tag : BitVec 8) (s : State) : State :=
  if !s.isAdmitted a then s.refuseAgent a 0x04 tag .notAdmitted else takeFlush a s

/-- Whether a holding's class copy is BOUND (R34). -/
def Holding.isBound (h : Holding) : Bool := h.cls == .bound

/-- SWITCH to context c of an ADMITTED port (R34): every BOUND holding removed, the context stored, SWITCHED with the
number dropped, then the entries this empties (R35). -/
def takeSwitch (a : AgentId) (c : Fin 16) (s : State) : State :=
  let n := (s.table a).count Holding.isBound
  let s1 := s.removeWhere a false Holding.isBound
  let s2 := s1.setPort a { s1.port a with context := c }
  endWaits cascade s (s2.sendAgent a (.switched c n))

/-- SWITCH (R34, R43): the admission check, then the context 0 to 15, else MALFORMED. -/
def actSwitch (a : AgentId) (tag : BitVec 8) (context : BitVec 9) (s : State) : State :=
  if !s.isAdmitted a then s.refuseAgent a 0x05 tag .notAdmitted
  else
    match fieldBelow 16 context.toNat with
    | none => s.refuseAgent a 0x05 tag .malformed
    | some c => takeSwitch a c s

/-! ## JOIN -/

/-- JOIN (R137): OUTSIDE becomes WAITING with its reason kept and a PORT notice; in WAITING it is disregarded; ADMITTED
departs to WAITING (REJOIN) with a PORT notice and no FENCED. A DOWN port receives nothing. -/
def takeJoin (a : AgentId) (s : State) : State :=
  match (s.port a).state with
  | .down | .waiting => s
  | .outside => (s.setPort a { s.port a with state := .waiting }).postPort a
  | .admitted => s.depart a .waiting .rejoin false true

/-- JOIN (R137). -/
def actJoin (a : AgentId) : State → State :=
  takeJoin a

end Sys2Proof.Machine
end

