-- ==== Sys2Proof/Machine/WindowTable.lean ====
section
/-!
DEFINITION. CREATE and QUERY_WINDOW (spec/01 sections 1.7 and 1.8).
-/

namespace Sys2Proof.Machine

/-- Whether every frame of a run satisfies a test on its state. -/
def State.runAll (s : State) (r : Run) (ok : FrameState → Bool) : Bool :=
  (List.range r.count).all fun i => ok (s.frame (r.base + i))

/-- The values of an accepted CREATE, or the reason of the first check that fails (R15). -/
def createChecks (window : BitVec 16) (cls : BitVec 8) (scrub : Bool) (boundAgent boundContext : BitVec 8)
    (rights : BitVec 16) (base count : Word) (s : State) : Except Reason (Nat × LiveFields) :=
  match windowNumber window, rightsSetOfBits rights with
  | some w, some r =>
    if !knownClass cls then .error .badValue
    else
      match checkBinding cls boundAgent boundContext with
      | .error e => .error e
      | .ok c =>
        match checkRun s.frameCount Config.maxFramesPerWindow base count with
        | .error e => .error e
        | .ok run =>
          if (s.window w).live ≠ none then .error .windowInUse
          else if !s.runAll run (· == .free) then .error .framesBusy
          else .ok (w, { cls := c, run := run, rights := storedRights c r, scrub := scrub })
  | _, _ => .error .badValue

/-- An accepted CREATE (R16): the record becomes LIVE with its generation raised, and every frame of its run becomes
BOUND to it (R103). A FREE record has no pending change and an empty holder set (R1, R11), which stay so (log 16). -/
def State.createWindow (s : State) (w : Nat) (l : LiveFields) : State :=
  let r := s.window w
  (s.setWindow w { r with live := some l, generation := r.generation + 1 }).setFrames
    (sparseFill .free s.frames l.run.base l.run.count (.bound w))

/-- CREATE (R15, R16): DONE carries the new generation. -/
def actCreate (tag : BitVec 8) (window : BitVec 16) (cls : BitVec 8) (scrub : Bool)
    (boundAgent boundContext : BitVec 8) (rights : BitVec 16) (base count : Word) : State → State :=
  request 0x22 tag false
    (fun s =>
      match createChecks window cls scrub boundAgent boundContext rights base count s with
      | .error e => s.refuseSup 0x22 tag e
      | .ok (w, l) =>
        let s1 := s.createWindow w l
        s1.sendSup (.done tag .applied (some (s1.window w).generation) (noneOf 8) none none))

/-- The pending items of a window's report (table 1-5): the awaited set is present when the entry is RECALLING or
READY. -/
def State.pendingReport (s : State) (w : Nat) : Option PendingReport :=
  match (s.window w).pending with
  | none => none
  | some e =>
    match s.entry e with
    | none => none
    | some x =>
      some
        { entry := e
          retire := x.kind == .retire
          tag := x.tag
          group := x.group
          awaited := if x.inRound then some x.awaited else none }

/-- The contents of QUERY_WINDOW (R18, table 1-5). -/
def State.windowReport (s : State) (w : Nat) : WindowReport :=
  { window := w
    generation := (s.window w).generation
    live := (s.window w).live
    condition := s.condition w
    holders := (s.window w).holders
    pending := s.pendingReport w }

/-- QUERY_WINDOW (R18): a window number over 4095 is BAD_VALUE. -/
def actQueryWindow (tag : BitVec 8) (window : BitVec 16) : State → State :=
  request 0x2E tag false
    (fun s =>
      match windowNumber window with
      | none => s.refuseSup 0x2E tag .badValue
      | some w => s.sendSup (.report tag 0 true (.window (s.windowReport w))))

end Sys2Proof.Machine
end

