-- ==== Sys2Proof/Machine/Changes.lean ====
section
/-!
DEFINITION. CHANGE, RETIRE, ABANDON and the recall deadline (spec/04).
-/

namespace Sys2Proof.Machine

/-- A CHANGE or RETIRE whose fields are within their values. -/
structure ChangeRequest where
  window : Nat
  group : Option (Fin 4)
  kind : ChangeKind
  deriving DecidableEq, Repr

/-- The new run of a CHANGE, checked (check 2 of R62). -/
def checkNewRun (configured : Nat) : Option (Word × Word) → Except Reason (Option Run)
  | none => .ok none
  | some (b, c) =>
    match checkRun configured Config.maxFramesPerWindow b c with
    | .error e => .error e
    | .ok r => .ok (some r)

/-- Checks 1 and 2 of R62 for a CHANGE. -/
def readChange (configured : Nat) (window : BitVec 16) (group : Option (BitVec 8)) (rights : Option (BitVec 16))
    (run : Option (Word × Word)) (scrub : Option Bool) : Except Reason ChangeRequest :=
  match windowNumber window, optionalField (fun g => fieldBelow 4 g.toNat) group,
    optionalField rightsSetOfBits rights with
  | some w, some g, some r =>
    match checkNewRun configured run with
    | .error e => .error e
    | .ok q => .ok { window := w, group := g, kind := .change r q scrub }
  | _, _, _ => .error .badValue

/-- Check 1 of R62 for a RETIRE. -/
def readRetire (window : BitVec 16) (group : Option (BitVec 8)) : Except Reason ChangeRequest :=
  match windowNumber window, optionalField (fun g => fieldBelow 4 g.toNat) group with
  | some w, some g => .ok { window := w, group := g, kind := .retire }
  | _, _ => .error .badValue

/-- Check 5 of R62: a named group is OPEN, else NO_GROUP, and has fewer than 8 members, else GROUP_FULL. -/
def State.checkGroup (s : State) : Option (Fin 4) → Option Reason
  | none => none
  | some g =>
    if (s.group g).state ≠ .opened then some .noGroup
    else if Config.groupMembers ≤ (s.group g).members.length then some .groupFull
    else none

/-- Check 7 of R62: every frame of a new run is FREE or BOUND to this window (R103). -/
def State.newRunFree (s : State) (w : Nat) : ChangeKind → Bool
  | .change _ (some r) _ => s.runAll r fun x => x == .free || x == .bound w
  | _ => true

/-- Whether a request needs a scrub slot: it releases frames while the window's flag, as it stands, is set (check 8 of
R62, R63). -/
def ChangeKind.needsSlot (k : ChangeKind) (l : LiveFields) : Bool := l.scrub && decide (k.released l.run ≠ [])

/-- Checks 3 to 8 of R62: the record's LIVE fields, the entry and the scrub slot the request takes, or the reason of the
first check that fails. -/
def State.changeChecks (s : State) (q : ChangeRequest) : Except Reason (LiveFields × Fin 16 × Option (Fin 16)) :=
  match (s.window q.window).live with
  | none => .error .noWindow
  | some l =>
    if (s.window q.window).pending ≠ none then .error .windowBusy
    else
      match s.checkGroup q.group with
      | some e => .error e
      | none =>
        match s.freeEntry with
        | none => .error .changeFull
        | some e =>
          if !s.newRunFree q.window q.kind then .error .framesBusy
          else if q.kind.needsSlot l then
            match s.freeSlot with
            | none => .error .scrubFull
            | some i => .ok (l, e, some i)
          else .ok (l, e, none)

/-- The frames of a new run that are FREE become RESERVED for the window (R64, R103). -/
def State.reserveRun (s : State) (w : Nat) : ChangeKind → State
  | .change _ (some r) _ =>
    s.setFrames ((List.range r.count).foldl
      (fun m i =>
        if sparseGet .free m (r.base + i) = .free then sparseSet .free m (r.base + i) (.reserved w) else m)
      s.frames)
  | _ => s

/-- What every accepted CHANGE or RETIRE does (R64): the entry takes the request, the window's pending change names it,
FREE frames of the new run are RESERVED, and the scrub slot is RESERVED for the entry. The entry starts HELD with its
deadline stopped; a standalone one goes on in the same action. -/
def State.acceptParts (s : State) (tag : BitVec 8) (q : ChangeRequest) (e : Fin 16) (slot : Option (Fin 16)) : State :=
  let x : Entry :=
    { tag := tag, window := q.window, kind := q.kind, group := q.group, state := .held, awaited := noneOf 8
      lost := noneOf 8, deadline := .stopped, scrubSlot := slot }
  let s1 := s.setEntry e (some x)
  let r := s1.window q.window
  let s2 := (s1.setWindow q.window { r with pending := some e }).reserveRun q.window q.kind
  match slot with
  | none => s2
  | some i => s2.setSlot i (.reserved e)

/-- The start of an entry's recall (R65, R67, R72, R93): its awaited set, its state RECALLING or READY, its deadline
running, and one RECALL to each awaited agent, in ascending order. -/
def State.startRecall (s : State) (e : Fin 16) (x : Entry) : State :=
  let awaited := s.affectedAgents x.kind x.window
  let st : EntryState := if awaited.empty then .ready else .recalling
  let s1 := s.setEntry e (some { x with awaited := awaited, state := st, deadline := .running })
  awaited.elems.foldl (fun s a => s.sendRecall x.window a) s1

/-- A standalone entry in the action of its acceptance (R66): with an empty awaited set it applies, and DONE is the only
reply; else it is RECALLING, the reply is ACCEPTED and the RECALLs go out. -/
def startStandalone (e : Fin 16) (s : State) : State :=
  match s.entry e with
  | none => s
  | some x =>
    if (s.affectedAgents x.kind x.window).empty then applyEntry cascade none e s
    else (s.startRecall e x).accept x.tag

/-- A request that joins a group (R64, R90): its entry stays HELD, joins the tail of the member list, and is
ACCEPTED. -/
def State.joinGroup (s : State) (g : Fin 4) (e : Fin 16) (tag : BitVec 8) : State :=
  (s.setGroup g { s.group g with members := (s.group g).members ++ [e] }).accept tag

/-- A CHANGE or RETIRE whose fields have been read (R62, R64). -/
def takeChange (kind tag : BitVec 8) (q : Except Reason ChangeRequest) (s : State) : State :=
  match q with
  | .error r => s.refuseSup kind tag r
  | .ok q =>
    match s.changeChecks q with
    | .error r => s.refuseSup kind tag r
    | .ok (_, e, slot) =>
      let s1 := s.acceptParts tag q e slot
      match q.group with
      | some g => s1.joinGroup g e tag
      | none => startStandalone e s1

/-- CHANGE (R62). -/
def actChange (tag : BitVec 8) (window : BitVec 16) (group : Option (BitVec 8)) (rights : Option (BitVec 16))
    (run : Option (Word × Word)) (scrub : Option Bool) : State → State :=
  request 0x23 tag false
    (fun s => takeChange 0x23 tag (readChange s.frameCount window group rights run scrub) s)

/-- RETIRE (R62). -/
def actRetire (tag : BitVec 8) (window : BitVec 16) (group : Option (BitVec 8)) : State → State :=
  request 0x24 tag false (takeChange 0x24 tag (readRetire window group))

/-! ## ABANDON -/

/-- The Change Table entry whose tag is t, if any. -/
def State.entryWithTag (s : State) (t : BitVec 8) : Option (Fin 16) :=
  (List.finRange 16).find? fun e =>
    match s.entry e with
    | some x => x.tag == t
    | none => false

/-- Whether t is the commit tag of a RECALLING group. -/
def State.isCommitTag (s : State) (t : BitVec 8) : Bool :=
  (List.finRange 4).any fun g => (s.group g).state == .recalling t

/-- ABANDON after the common checks (R81, R82): NO_CHANGE, GROUP_MEMBER, or the abandonment of a standalone entry, with
the target's DONE before the ABANDON's own and the re-take after both. -/
def takeAbandon (tag target : BitVec 8) (s : State) : State :=
  match s.entryWithTag target with
  | none => s.refuseSup 0x25 tag (if s.isCommitTag target then .groupMember else .noChange)
  | some e =>
    match s.entry e with
    | none => s
    | some x =>
      if x.group.isSome then s.refuseSup 0x25 tag .groupMember
      else
        let s1 := s.abandonParts e x
        retake cascade none x.window
          (s1.sendSup (.done tag .applied (some (s1.window x.window).generation) (noneOf 8) none none))

/-- ABANDON (R81, R82). -/
def actAbandon (tag target : BitVec 8) : State → State :=
  request 0x25 tag false (takeAbandon tag target)

/-! ## The recall deadline -/

/-- A straggler put OUTSIDE (TIMEOUT), with FENCED and a PORT notice (R140). An awaited agent is always ADMITTED
(R140); a port that were not has nothing to leave and is left alone (log 17). -/
def State.putOutside (s : State) (a : AgentId) : State :=
  if s.isAdmitted a then s.departParts a .outside .timeout true true else s

/-- The expiry of a running deadline (R72, R73, R74): every awaited agent is put outside in ascending order, each taken
whole; then the entries whose awaited sets became empty end their waiting in entry order. -/
def takeExpiry (e : Fin 16) (x : Entry) (s : State) : State :=
  let s1 := s.setEntry e (some { x with deadline := .expired })
  endWaits cascade s (x.awaited.elems.foldl State.putOutside s1)

/-- RECALL_DEADLINE_EXPIRY (R72, R73). A deadline that is not running does not expire (log 5). -/
def execRecallDeadlineExpiry (e : Fin 16) (s : State) : Answer :=
  .next (
    match s.entry e with
    | none => s.begin
    | some x => if x.deadline = .running then takeExpiry e x s.begin else s.begin)

end Sys2Proof.Machine
end

