-- ==== Sys2Proof/Machine/Groups.lean ====
section
/-!
DEFINITION. GROUP_OPEN, GROUP_COMMIT and GROUP_ABANDON (spec/05).
-/

namespace Sys2Proof.Machine

/-- GROUP_OPEN of group g (R89): a FREE group becomes OPEN with an empty member list; any other is NO_GROUP. -/
def takeGroupOpen (tag : BitVec 8) (g : Fin 4) (s : State) : State :=
  if (s.group g).state = .free then (s.setGroup g { state := .opened, members := [] }).sendPlainDone tag
  else s.refuseSup 0x26 tag .noGroup

/-- GROUP_OPEN (R89). -/
def actGroupOpen (tag : BitVec 8) (group : BitVec 9) : State → State :=
  request 0x26 tag false (withGroup 0x26 tag group (takeGroupOpen tag))

/-- The recall of one member starts (R93). -/
def startMember (e : Fin 16) (s : State) : State :=
  match s.entry e with
  | none => s
  | some x => s.startRecall e x

/-- The commit of an OPEN group with members (R93): every member's recall starts, in member order; the group is
RECALLING with the commit tag ACCEPTED and in use, or applies in the same action when every member is READY. -/
def commitGroup (tag : BitVec 8) (g : Fin 4) (s : State) : State :=
  let members := (s.group g).members
  let s1 := members.foldl (fun s e => startMember e s) s
  let s2 := s1.setGroup g { state := .recalling tag, members := members }
  if s2.allReady g then applyGroup cascade none g s2 else s2.accept tag

/-- GROUP_COMMIT of group g (R92, R93). -/
def takeGroupCommit (tag : BitVec 8) (g : Fin 4) (s : State) : State :=
  if (s.group g).state ≠ .opened then s.refuseSup 0x27 tag .noGroup
  else if (s.group g).members = [] then (s.setGroup g .initial).sendPlainDone tag
  else commitGroup tag g s

/-- GROUP_COMMIT (R92, R93). -/
def actGroupCommit (tag : BitVec 8) (group : BitVec 9) : State → State :=
  request 0x27 tag false (withGroup 0x27 tag group (takeGroupCommit tag))

/-- GROUP_ABANDON of group g (R97): the members in member order, each abandoned whole; the commit DONE (ABANDONED) when
the group was RECALLING; then the GROUP_ABANDON's own DONE. -/
def takeGroupAbandon (tag : BitVec 8) (g : Fin 4) (s : State) : State :=
  if (s.group g).state = .free then s.refuseSup 0x28 tag .noGroup
  else
    let s1 := (s.group g).members.foldl (fun s e => abandonMember g e s) s
    (s1.closeGroup g .abandoned (s.groupLost g)).sendPlainDone tag

/-- GROUP_ABANDON (R97). -/
def actGroupAbandon (tag : BitVec 8) (group : BitVec 9) : State → State :=
  request 0x28 tag false (withGroup 0x28 tag group (takeGroupAbandon tag))

end Sys2Proof.Machine
end

