-- ==== Sys2Proof/Machine/LinkLayer.lean ====
section
/-!
DEFINITION. The events of the Link Interfaces and of the RESET_N line (spec/10 sections 10.1 to 10.4 and 10.7).
-/

namespace Sys2Proof.Machine

/-- CARRIER_DETECTED (R161): a DOWN link goes to TRAINING and sends its parameter word. While RESET_N is low every link
stays DOWN. -/
def execCarrierDetected (l : LinkId) (s : State) : Answer :=
  .next (
    if s.resetN ∧ (s.link l).state = .down then
      (s.begin.setLink l { s.link l with state := .training }).sendParameterWord l
    else s.begin)

/-- The role a partner must name on a link: 0 agent, 1 supervisor, 2 memory fabric (R161). -/
def roleOf : LinkId → BitVec 4
  | .agent _ => 0
  | .sup => 1
  | .mem => 2

/-- PARAMETER_WORD (R161, R162). In TRAINING a word with a correct CRC and a fitting role makes the link UP; any other
starts the exchange over with the controller's own parameter word. On an UP link the word is a link error, whether its
CRC is correct or not. On a DOWN link nothing is received. The link number and the credit count are not read. -/
def execParameterWord (l : LinkId) (crcOk : Bool) (role _linkNumber : BitVec 4) (_credits : BitVec 8) (s : State) :
    Answer :=
  .next (
    match (s.link l).state with
    | .down => s.begin
    | .training => if crcOk ∧ role = roleOf l then s.begin.comeUp l else s.begin.sendParameterWord l
    | .up => s.begin.takeLinkError l)

/-- CARRIER_LOST (R161): a TRAINING or UP link goes DOWN; from UP its owner takes the departure. -/
def execCarrierLost (l : LinkId) (s : State) : Answer :=
  .next (
    match (s.link l).state with
    | .down => s.begin
    | .training => s.begin.setLink l { s.link l with state := .down }
    | .up => s.begin.takeCarrierLoss l)

/-- LINK_ERROR (R162): detected only while the link is UP; the same faults on a TRAINING link are no link errors, and a
DOWN link receives nothing. Every cause has the same effect. -/
def execLinkError (l : LinkId) (_cause : LinkFault) (s : State) : Answer :=
  .next (if s.isUp l then s.begin.takeLinkError l else s.begin)

/-- CREDIT_RETURN_WORD (R162): disregarded in every link state. -/
def execCreditReturnWord (_l : LinkId) (_returned : BitVec 8) (s : State) : Answer := .next s.begin

/-- MESSAGE_IN_TRAINING (R162): discarded unread. -/
def execMessageInTraining (_l : LinkId) (_words : List Word) (s : State) : Answer := .next s.begin

/-- OTHER_CONTROL_CODE_WORD (R161): disregarded. -/
def execOtherControlCodeWord (_l : LinkId) (_word : Word) (s : State) : Answer := .next s.begin

/-- The window field that the REFUSE of a malformed message carries: that of a LOOKUP whose body holds it, else 0
(R165). -/
def malformedWindow (kind : BitVec 8) (body : List Word) : BitVec 16 :=
  match body with
  | w :: _ => if kind = 0x01 then w.extractLsb' 16 16 else 0
  | [] => 0

/-- UNKNOWN_KIND_MESSAGE taken (R153, R165): the format check comes before every other check, in every port and device
state. It is answered REFUSE on an agent link and REFUSED on S, and discarded on M. -/
def actUnknownKindMessage (l : LinkId) (kind tag : BitVec 8) (body : List Word) (s : State) : State :=
  match l with
  | .agent a => s.sendAgent a (.refuse kind tag .malformed (malformedWindow kind body))
  | .sup => s.refuseSup kind tag .malformed
  | .mem => s

/-- RESET_N (R19, R39, R56, R85, R100, R113, R131, R145, R160, R169): every block takes its reset state, every link is
DOWN with no carrier driven and its receive buffer empty. What is the world's own stays: the commands still to come, and
how far the blocks are behind (log 1, log 2). -/
def execResetN (s : State) : Answer := .next { State.reset with behind := s.behind, pending := s.pending }

/-- RESET_N_RELEASE (R161): the controller drives carrier on all ten links. -/
def execResetNRelease (s : State) : Answer := .next { s.begin with resetN := true, carrier := true }

end Sys2Proof.Machine
end

