-- ==== Sys2Proof/Machine/Ports.lean ====
section
/-!
DEFINITION. ADMIT and FENCE (spec/08 sections 8.6 and 8.7) and QUERY_AGENT (spec/09 section 9.4).
-/

namespace Sys2Proof.Machine

/-- ADMIT of agent a (R138): a WAITING port becomes ADMITTED in context 0 with its reason kept and its gate open, and
ADMITTED is sent; any other port is PORT_STATE. -/
def takeAdmit (tag : BitVec 8) (a : AgentId) (s : State) : State :=
  if (s.port a).state = .waiting then
    let s1 := (s.setPort a { s.port a with state := .admitted, context := 0 }).setFence a true
    (s1.sendAgent a (.admitted a 0)).sendPlainDone tag
  else s.refuseSup 0x29 tag .portState

/-- ADMIT (R138). -/
def actAdmit (tag : BitVec 8) (agent : BitVec 9) : State → State :=
  request 0x29 tag false (withAgent 0x29 tag agent (takeAdmit tag))

/-- FENCE of agent a (R139, table 8-3): ADMITTED departs, WAITING is turned away, both with FENCED (SUPERVISOR); OUTSIDE
and DOWN keep everything. The DONEs of the changes it completes come before its own. -/
def takeFence (tag : BitVec 8) (a : AgentId) (s : State) : State :=
  let s1 :=
    match (s.port a).state with
    | .admitted => s.depart a .outside .supervisor true false
    | .waiting =>
      (s.setPort a { s.port a with state := .outside, reason := .supervisor }).sendAgent a (.fenced .supervisor)
    | .outside | .down => s
  s1.sendPlainDone tag

/-- FENCE (R139). -/
def actFence (tag : BitVec 8) (agent : BitVec 9) : State → State :=
  request 0x2A tag false (withAgent 0x2A tag agent (takeFence tag))

/-- The HELD slots of a table in ascending slot order (R38). -/
def SlotTable.heldSlots (t : SlotTable) : List (Fin 64 × Holding) :=
  (List.finRange 64).filterMap fun i => t.slots[i].map fun h => (i, h)

/-- The contents of QUERY_AGENT (R38, R57, R154, table 9-4). -/
def State.agentReport (s : State) (a : AgentId) : AgentReport :=
  { agent := a
    state := (s.port a).state
    reason := (s.port a).reason
    context := (s.port a).context
    pointer := (s.table a).pointer
    held := (s.table a).heldSlots
    parked := (s.park.filter fun p => p.agent == a).map fun p => (p.tag, p.window, p.rights) }

/-- QUERY_AGENT (R154), taken in both device states. -/
def actQueryAgent (tag : BitVec 8) (agent : BitVec 9) : State → State :=
  request 0x2F tag true
    (withAgent 0x2F tag agent fun a s => s.sendSup (.report tag 0 true (.agent (s.agentReport a))))

end Sys2Proof.Machine
end

