-- ==== Sys2Proof/Machine/Scrubbing.lean ====
section
/-!
DEFINITION. RESCRUB and QUERY_FRAMES (spec/06), SUSPEND_SCRUB, RESUME_SCRUB, QUERY_SCRUB, FILLED and the fill deadline
(spec/07).
-/

namespace Sys2Proof.Machine

/-- An accepted RESCRUB (R109): the job of one run in slot i, every frame of the run SCRUBBING for it. -/
def State.rescrubRun (s : State) (r : Run) (i : Fin 16) : State :=
  (s.setFrames (sparseFill .free s.frames r.base r.count (.scrubbing i))).enqueue i (Job.fresh .rescrub r none)

/-- RESCRUB after the common checks (R109). -/
def takeRescrub (tag : BitVec 8) (base count : Word) (s : State) : State :=
  match checkRun s.frameCount Config.maxFramesPerWindow base count with
  | .error e => s.refuseSup 0x2D tag e
  | .ok r =>
    if !s.runAll r (· == .quarantined) then s.refuseSup 0x2D tag .framesBusy
    else
      match s.freeSlot with
      | none => s.refuseSup 0x2D tag .scrubFull
      | some i => (s.rescrubRun r i).sendSup (.done tag .applied none (noneOf 8) (some i) none)

/-- RESCRUB (R109). -/
def actRescrub (tag : BitVec 8) (base count : Word) : State → State :=
  request 0x2D tag false (takeRescrub tag base count)

/-- The contents of QUERY_FRAMES (R110, table 6-3). -/
def State.framesReport (s : State) (r : Run) : FramesReport :=
  { base := r.base, count := r.count, configured := s.frameCount
    frames := (List.range r.count).map fun i => s.frame (r.base + i) }

/-- QUERY_FRAMES (R110): base frame, then count 1 to 64 and the configured frames. -/
def actQueryFrames (tag : BitVec 8) (base count : Word) : State → State :=
  request 0x30 tag false
    (fun s =>
      match checkRun s.frameCount Config.maxFramesPerQuery base count with
      | .error e => s.refuseSup 0x30 tag e
      | .ok r => s.sendSup (.report tag 0 true (.frames (s.framesReport r))))

/-- SUSPEND_SCRUB after the common checks (R125, table 7-4). -/
def takeSuspend (tag : BitVec 8) (s : State) : State :=
  match s.scrub.engine with
  | .running =>
    if s.quiet then (s.setEngine .suspended).sendPlainDone tag
    else (s.setEngine (.suspending tag)).addTag tag
  | .idle => (s.setEngine .suspended).sendPlainDone tag
  | .suspending _ => s.refuseSup 0x2B tag .busy
  | .suspended => s.sendPlainDone tag

/-- SUSPEND_SCRUB (R125). -/
def actSuspendScrub (tag : BitVec 8) : State → State :=
  request 0x2B tag false (takeSuspend tag)

/-- The engine leaving SUSPENDED or SUSPENDING (R126): RUNNING when it has an ACTIVE job or the queue holds one, whose
head then becomes ACTIVE, else IDLE; a RUNNING engine sends fills in the same action. -/
def State.resume (s : State) : State :=
  if s.active = none ∧ s.scrub.queue = [] then s.setEngine .idle
  else ((s.setEngine .running).startNext).drive

/-- RESUME_SCRUB after the common checks (R126, table 7-5). -/
def takeResume (tag : BitVec 8) (s : State) : State :=
  match s.scrub.engine with
  | .suspended => s.resume.sendPlainDone tag
  | .suspending t => ((s.finish t .abandoned none (noneOf 8) none).resume).sendPlainDone tag
  | .running | .idle => s.sendPlainDone tag

/-- RESUME_SCRUB (R126). -/
def actResumeScrub (tag : BitVec 8) : State → State :=
  request 0x2C tag false (takeResume tag)

/-- One slot's record in the report of QUERY_SCRUB (table 7-7). -/
def ScrubSlot.report : ScrubSlot → SlotReport
  | .free => .free
  | .reserved e => .reserved e
  | .queued j => .queued j.origin j.first j.second j.freed j.quarantined
  | .active j => .active j.origin j.first j.second j.freed j.quarantined j.position
  | .ended j => .ended j.origin j.first j.second j.freed j.quarantined

/-- The engine items of the report of QUERY_SCRUB (table 7-7). -/
def State.engineReport (s : State) : EngineReport :=
  { engine := s.scrub.engine
    queue := s.scrub.queue
    fills := (List.finRange 4).filterMap fun k => (s.fill k).map fun f => (k, f.frame, f.block) }

/-- The slot records of the report of QUERY_SCRUB, slots 0 to 15. -/
def State.slotReports (s : State) : List SlotReport := (List.finRange 16).map fun i => (s.slot i).report

/-- QUERY_SCRUB (R130): two parts, slots 0 to 7 in the first and 8 to 15 in the second (R167). -/
def actQueryScrub (tag : BitVec 8) : State → State :=
  request 0x31 tag false
    (fun s =>
      (s.sendSup (.report tag 0 false (.scrubLow s.engineReport (s.slotReports.take 8)))).sendSup
        (.report tag 1 true (.scrubHigh (s.slotReports.drop 8))))

/-- A fill status: 1 OK, 2 ERROR; another value makes the completion unmatched (R122, table 10-3). -/
def fillStatus (c : BitVec 8) : Option Bool :=
  if c = 1 then some true else if c = 2 then some false else none

/-- A completion taken (R120, R121, R122): matched when a fill is in flight with its id and sequence and its status is
OK or ERROR; else discarded without effect. -/
def takeFilled (status : BitVec 8) (id : BitVec 2) (seq : BitVec 16) (s : State) : State :=
  match s.fill id.toFin, fillStatus status with
  | some f, some ok => if f.seq = seq then s.fillEnds id.toFin f ok else s
  | _, _ => s

/-- FILLED (R120). -/
def actFilled (status : BitVec 8) (id : BitVec 2) (seq : BitVec 16) : State → State :=
  takeFilled status id seq

/-- FILL_DEADLINE_EXPIRY (R121): the fill in flight under the id ends as a failed one; with none in flight no deadline
runs (log 5). -/
def execFillDeadlineExpiry (id : Fin 4) (s : State) : Answer :=
  .next (
    match s.begin.fill id with
    | some f => s.begin.fillEnds id f false
    | none => s.begin)

end Sys2Proof.Machine
end

