-- ==== Sys2Proof/Machine/Supervisor.lean ====
section
/-!
DEFINITION. CONFIGURE, NOTICE_CREDIT and RESTART (spec/09).
-/

namespace Sys2Proof.Machine

/-- The values of a CONFIGURE within their ranges (check 2 of R148). -/
def checkConfiguration (frameCount recallDeadline : Word) (initialScrub : Bool) (fillDeadline : BitVec 8)
    (pattern : Word) : Option Configuration :=
  if 1 ≤ frameCount.toNat ∧ frameCount.toNat ≤ Config.maxConfiguredFrames ∧
      1 ≤ recallDeadline.toNat ∧ recallDeadline.toNat ≤ Config.maxRecallDeadline ∧
      1 ≤ fillDeadline.toNat ∧ fillDeadline.toNat ≤ Config.maxFillDeadline then
    some
      { frameCount := frameCount.toNat, recallDeadline := recallDeadline.toNat, fillDeadline := fillDeadline.toNat
        pattern := pattern, initialScrub := initialScrub }
  else none

/-- An accepted CONFIGURE (R102, R148): the device is SERVING with the five values. With the option clear every frame is
FREE. With the option set every frame is SCRUBBING in slot 0 and the initial job is queued there, which an IDLE engine
starts at once (R129). -/
def State.configureWith (s : State) (c : Configuration) : State :=
  let s1 := s.setDevice (.serving c)
  if c.initialScrub then
    (s1.setFrames ((List.range c.frameCount).map fun f => (f, .scrubbing 0))).enqueue 0
      (Job.fresh .initial { base := 0, count := c.frameCount } none)
  else s1.setFrames []

/-- CONFIGURE after the common checks (R148). -/
def takeConfigure (tag : BitVec 8) (c : Option Configuration) (s : State) : State :=
  if s.isServing then s.refuseSup 0x21 tag .configured
  else
    match c with
    | none => s.refuseSup 0x21 tag .badValue
    | some c =>
      (s.configureWith c).sendSup
        (.done tag .applied none (noneOf 8) (if c.initialScrub then some 0 else none) none)

/-- CONFIGURE (R148). -/
def actConfigure (tag : BitVec 8) (frameCount recallDeadline : Word) (initialScrub : Bool) (fillDeadline : BitVec 8)
    (pattern : Word) : State → State :=
  request 0x21 tag true
    (takeConfigure tag (checkConfiguration frameCount recallDeadline initialScrub fillDeadline pattern))

/-- NOTICE_CREDIT after the common checks (R156): the credit goes up, stopping at 255; DONE carries it; then the notices
it allows are delivered. -/
def takeNoticeCredit (tag : BitVec 8) (n : Word) (s : State) : State :=
  if Config.maxNoticeCredit < n.toNat then s.refuseSup 0x32 tag .badValue
  else
    let c := min (s.credit + n.toNat) Config.maxNoticeCredit
    let s1 := (s.setCredit c).sendSup (.done tag .applied none (noneOf 8) none (some c))
    deliver s1.outbox s1

/-- NOTICE_CREDIT (R156), taken in both device states. -/
def actNoticeCredit (tag : BitVec 8) (n : Word) : State → State :=
  request 0x32 tag true (takeNoticeCredit tag n)

/-- A port at RESTART (R145): a DOWN port keeps its state and reason, another becomes OUTSIDE (RESTART); every context is
0 and no lookup tag is in use. -/
def Port.restarted (p : Port) : Port :=
  if p.state = .down then { p with context := 0, tags := noneOf 4 }
  else { state := .outside, reason := .restart, context := 0, tags := noneOf 4 }

/-- The state every block takes at RESTART (R149): the reset state, with the links, the notice credit and the fill
sequence counter kept, and the ports as R145 states. The RESET_N line is not touched. -/
def State.restarted (s : State) : State :=
  { State.reset with
    ports := s.ports.map Port.restarted
    scrub := { Scrub.initial with seq := s.scrub.seq }
    credit := s.credit
    links := s.links
    resetN := s.resetN
    carrier := s.carrier
    out := s.out
    behind := s.behind
    pending := s.pending }

/-- RESTART (R149): FENCED (RESTART) to the agent of each port that was not DOWN, in ascending order, then DONE. -/
def takeRestart (tag : BitVec 8) (s : State) : State :=
  ((List.finRange 8).foldl
    (fun t a => if (s.port a).state = .down then t else t.sendAgent a (.fenced .restart)) s.restarted).sendPlainDone tag

/-- RESTART (R149): no common check but the length is made on it. -/
def actRestart (tag : BitVec 8) : State → State :=
  takeRestart tag

end Sys2Proof.Machine
end

