-- ==== Sys2Proof/Machine/Taking.lean ====
section
/-!
DEFINITION. The reception of a message into its link's receive buffer and its taking by the block above (R162 to R164).
-/

namespace Sys2Proof.Machine

/-- What the block above does with a message it takes. A command that is no message is never taken from a buffer. -/
def act (m : Instr) (s : State) : State :=
  match m with
  | .lookup a tag window rights => actLookup a tag window rights s
  | .released a window generation => actReleased a window generation s
  | .returnSlot a tag slot => actReturn a tag slot s
  | .flush a tag => actFlush a tag s
  | .switch a tag context => actSwitch a tag context s
  | .join a => actJoin a s
  | .configure tag frameCount recallDeadline initialScrub fillDeadline pattern =>
    actConfigure tag frameCount recallDeadline initialScrub fillDeadline pattern s
  | .create tag window cls scrub boundAgent boundContext rights base count =>
    actCreate tag window cls scrub boundAgent boundContext rights base count s
  | .change tag window group rights run scrub => actChange tag window group rights run scrub s
  | .retire tag window group => actRetire tag window group s
  | .abandon tag target => actAbandon tag target s
  | .groupOpen tag group => actGroupOpen tag group s
  | .groupCommit tag group => actGroupCommit tag group s
  | .groupAbandon tag group => actGroupAbandon tag group s
  | .admitAgent tag agent => actAdmit tag agent s
  | .fence tag agent => actFence tag agent s
  | .suspendScrub tag => actSuspendScrub tag s
  | .resumeScrub tag => actResumeScrub tag s
  | .rescrub tag base count => actRescrub tag base count s
  | .queryWindow tag window => actQueryWindow tag window s
  | .queryAgent tag agent => actQueryAgent tag agent s
  | .queryFrames tag base count => actQueryFrames tag base count s
  | .queryScrub tag => actQueryScrub tag s
  | .noticeCredit tag n => actNoticeCredit tag n s
  | .restart tag => actRestart tag s
  | .filled status id seq => actFilled status id seq s
  | .unknownKindMessage l kind tag body => actUnknownKindMessage l kind tag body s
  | .recallDeadlineExpiry _ | .fillDeadlineExpiry _ | .resetN | .carrierDetected _ | .parameterWord .. | .carrierLost _
  | .linkError .. | .creditReturnWord .. | .messageInTraining .. | .resetNRelease | .otherControlCodeWord .. => s

/-- The block above takes the oldest message of a link's receive buffer, whole and in one action: the credit it used is
returned, and the message has its effect (R163, R164). -/
def takeOldest (l : LinkId) (s : State) : State :=
  match (s.link l).buffer with
  | [] => s
  | m :: rest => act m (s.returnCredit l rest)

/-- A message received on a link (R162 to R164). On a link that is not UP nothing is received. With no credit in the
partner's hand the message is a link error. Otherwise it joins the receive buffer, and unless the block above is behind
on the link (log 1) it takes the oldest message, which with an empty buffer is this one. -/
def receiveMessage (l : LinkId) (m : Instr) (s : State) : State :=
  if s.isUp l then
    if (s.link l).credits = 0 then s.begin.takeLinkError l
    else
      let s1 := s.begin.bufferMessage l m
      if s1.due l then takeOldest l s1 else s1
  else s.begin

/-- The links, in the order in which a block that has nothing else to do looks for a message that waits (log 2). -/
def linkOrder : List LinkId := (List.finRange 8).map .agent ++ [.sup, .mem]

/-- With no command to come, the oldest message of the first link that holds one is taken; with none waiting nothing
happens (R164, log 2). -/
def takeWaiting (s : State) : State :=
  match linkOrder.find? fun l => (s.link l).buffer != [] with
  | none => s
  | some l => takeOldest l s.begin

end Sys2Proof.Machine
end

