-- ==== Sys2Proof/Machine/Commands.lean ====
section
/-!
DEFINITION. The commands that are messages: each is received on its link (spec/10 sections 10.2 and 10.3), and what it does
when the block above takes it is its own action.
-/

namespace Sys2Proof.Machine

/-! ## The agent links -/

/-- LOOKUP received on the agent's link; `actLookup` is what it does when it is taken. -/
def execLookup (a : AgentId) (tag : BitVec 8) (window : BitVec 16) (rights : BitVec 2) (s : State) : Answer :=
  .next (receiveMessage (.agent a) (.lookup a tag window rights) s)

/-- RELEASED received on the agent's link; `actReleased` is what it does when it is taken. -/
def execReleased (a : AgentId) (window generation : BitVec 16) (s : State) : Answer :=
  .next (receiveMessage (.agent a) (.released a window generation) s)

/-- RETURN received on the agent's link; `actReturn` is what it does when it is taken. -/
def execReturn (a : AgentId) (tag : BitVec 8) (slot : BitVec 9) (s : State) : Answer :=
  .next (receiveMessage (.agent a) (.returnSlot a tag slot) s)

/-- FLUSH received on the agent's link; `actFlush` is what it does when it is taken. -/
def execFlush (a : AgentId) (tag : BitVec 8) (s : State) : Answer :=
  .next (receiveMessage (.agent a) (.flush a tag) s)

/-- SWITCH received on the agent's link; `actSwitch` is what it does when it is taken. -/
def execSwitch (a : AgentId) (tag : BitVec 8) (context : BitVec 9) (s : State) : Answer :=
  .next (receiveMessage (.agent a) (.switch a tag context) s)

/-- JOIN received on the agent's link; `actJoin` is what it does when it is taken. -/
def execJoin (a : AgentId) (s : State) : Answer :=
  .next (receiveMessage (.agent a) (.join a) s)

/-! ## The supervisor link -/

/-- CONFIGURE received on S; `actConfigure` is what it does when it is taken. -/
def execConfigure (tag : BitVec 8) (frameCount recallDeadline : Word) (initialScrub : Bool)
    (fillDeadline : BitVec 8) (pattern : Word) (s : State) : Answer :=
  .next (receiveMessage .sup (.configure tag frameCount recallDeadline initialScrub fillDeadline pattern) s)

/-- CREATE received on S; `actCreate` is what it does when it is taken. -/
def execCreate (tag : BitVec 8) (window : BitVec 16) (cls : BitVec 8) (scrub : Bool)
    (boundAgent boundContext : BitVec 8) (rights : BitVec 16) (base count : Word) (s : State) : Answer :=
  .next (receiveMessage .sup (.create tag window cls scrub boundAgent boundContext rights base count) s)

/-- CHANGE received on S; `actChange` is what it does when it is taken. -/
def execChange (tag : BitVec 8) (window : BitVec 16) (group : Option (BitVec 8)) (rights : Option (BitVec 16))
    (run : Option (Word × Word)) (scrub : Option Bool) (s : State) : Answer :=
  .next (receiveMessage .sup (.change tag window group rights run scrub) s)

/-- RETIRE received on S; `actRetire` is what it does when it is taken. -/
def execRetire (tag : BitVec 8) (window : BitVec 16) (group : Option (BitVec 8)) (s : State) : Answer :=
  .next (receiveMessage .sup (.retire tag window group) s)

/-- ABANDON received on S; `actAbandon` is what it does when it is taken. -/
def execAbandon (tag target : BitVec 8) (s : State) : Answer :=
  .next (receiveMessage .sup (.abandon tag target) s)

/-- GROUP_OPEN received on S; `actGroupOpen` is what it does when it is taken. -/
def execGroupOpen (tag : BitVec 8) (group : BitVec 9) (s : State) : Answer :=
  .next (receiveMessage .sup (.groupOpen tag group) s)

/-- GROUP_COMMIT received on S; `actGroupCommit` is what it does when it is taken. -/
def execGroupCommit (tag : BitVec 8) (group : BitVec 9) (s : State) : Answer :=
  .next (receiveMessage .sup (.groupCommit tag group) s)

/-- GROUP_ABANDON received on S; `actGroupAbandon` is what it does when it is taken. -/
def execGroupAbandon (tag : BitVec 8) (group : BitVec 9) (s : State) : Answer :=
  .next (receiveMessage .sup (.groupAbandon tag group) s)

/-- ADMIT received on S; `actAdmit` is what it does when it is taken. -/
def execAdmit (tag : BitVec 8) (agent : BitVec 9) (s : State) : Answer :=
  .next (receiveMessage .sup (.admitAgent tag agent) s)

/-- FENCE received on S; `actFence` is what it does when it is taken. -/
def execFence (tag : BitVec 8) (agent : BitVec 9) (s : State) : Answer :=
  .next (receiveMessage .sup (.fence tag agent) s)

/-- SUSPEND_SCRUB received on S; `actSuspendScrub` is what it does when it is taken. -/
def execSuspendScrub (tag : BitVec 8) (s : State) : Answer :=
  .next (receiveMessage .sup (.suspendScrub tag) s)

/-- RESUME_SCRUB received on S; `actResumeScrub` is what it does when it is taken. -/
def execResumeScrub (tag : BitVec 8) (s : State) : Answer :=
  .next (receiveMessage .sup (.resumeScrub tag) s)

/-- RESCRUB received on S; `actRescrub` is what it does when it is taken. -/
def execRescrub (tag : BitVec 8) (base count : Word) (s : State) : Answer :=
  .next (receiveMessage .sup (.rescrub tag base count) s)

/-- QUERY_WINDOW received on S; `actQueryWindow` is what it does when it is taken. -/
def execQueryWindow (tag : BitVec 8) (window : BitVec 16) (s : State) : Answer :=
  .next (receiveMessage .sup (.queryWindow tag window) s)

/-- QUERY_AGENT received on S; `actQueryAgent` is what it does when it is taken. -/
def execQueryAgent (tag : BitVec 8) (agent : BitVec 9) (s : State) : Answer :=
  .next (receiveMessage .sup (.queryAgent tag agent) s)

/-- QUERY_FRAMES received on S; `actQueryFrames` is what it does when it is taken. -/
def execQueryFrames (tag : BitVec 8) (base count : Word) (s : State) : Answer :=
  .next (receiveMessage .sup (.queryFrames tag base count) s)

/-- QUERY_SCRUB received on S; `actQueryScrub` is what it does when it is taken. -/
def execQueryScrub (tag : BitVec 8) (s : State) : Answer :=
  .next (receiveMessage .sup (.queryScrub tag) s)

/-- NOTICE_CREDIT received on S; `actNoticeCredit` is what it does when it is taken. -/
def execNoticeCredit (tag : BitVec 8) (n : Word) (s : State) : Answer :=
  .next (receiveMessage .sup (.noticeCredit tag n) s)

/-- RESTART received on S; `actRestart` is what it does when it is taken. -/
def execRestart (tag : BitVec 8) (s : State) : Answer :=
  .next (receiveMessage .sup (.restart tag) s)

/-! ## The memory link -/

/-- FILLED received on M; `actFilled` is what it does when it is taken. -/
def execFilled (status : BitVec 8) (id : BitVec 2) (seq : BitVec 16) (s : State) : Answer :=
  .next (receiveMessage .mem (.filled status id seq) s)

/-! ## Any link -/

/-- A message that fails the format check received on its link; `actUnknownKindMessage` is what it does when it is taken. -/
def execUnknownKindMessage (l : LinkId) (kind tag : BitVec 8) (body : List Word) (s : State) : Answer :=
  .next (receiveMessage l (.unknownKindMessage l kind tag body) s)

end Sys2Proof.Machine
end

