-- ==== Sys2Proof/Machine/Dispatch.lean ====
section
/-!
DEFINITION. The dispatch: one arm per command, in the order of spec/opcode_table.json.
-/

namespace Sys2Proof.Machine

def exec (i : Instr) (s : State) : Host.Outcome State Fault Refusal :=
  match i with
  | .lookup a tag window rights => Sys2Proof.Machine.execLookup a tag window rights s
  | .released a window generation => Sys2Proof.Machine.execReleased a window generation s
  | .returnSlot a tag slot => Sys2Proof.Machine.execReturn a tag slot s
  | .flush a tag => Sys2Proof.Machine.execFlush a tag s
  | .switch a tag context => Sys2Proof.Machine.execSwitch a tag context s
  | .join a => Sys2Proof.Machine.execJoin a s
  | .configure tag frameCount recallDeadline initialScrub fillDeadline pattern => Sys2Proof.Machine.execConfigure tag frameCount recallDeadline initialScrub fillDeadline pattern s
  | .create tag window cls scrub boundAgent boundContext rights base count => Sys2Proof.Machine.execCreate tag window cls scrub boundAgent boundContext rights base count s
  | .change tag window group rights run scrub => Sys2Proof.Machine.execChange tag window group rights run scrub s
  | .retire tag window group => Sys2Proof.Machine.execRetire tag window group s
  | .abandon tag target => Sys2Proof.Machine.execAbandon tag target s
  | .groupOpen tag group => Sys2Proof.Machine.execGroupOpen tag group s
  | .groupCommit tag group => Sys2Proof.Machine.execGroupCommit tag group s
  | .groupAbandon tag group => Sys2Proof.Machine.execGroupAbandon tag group s
  | .admitAgent tag agent => Sys2Proof.Machine.execAdmit tag agent s
  | .fence tag agent => Sys2Proof.Machine.execFence tag agent s
  | .suspendScrub tag => Sys2Proof.Machine.execSuspendScrub tag s
  | .resumeScrub tag => Sys2Proof.Machine.execResumeScrub tag s
  | .rescrub tag base count => Sys2Proof.Machine.execRescrub tag base count s
  | .queryWindow tag window => Sys2Proof.Machine.execQueryWindow tag window s
  | .queryAgent tag agent => Sys2Proof.Machine.execQueryAgent tag agent s
  | .queryFrames tag base count => Sys2Proof.Machine.execQueryFrames tag base count s
  | .queryScrub tag => Sys2Proof.Machine.execQueryScrub tag s
  | .noticeCredit tag n => Sys2Proof.Machine.execNoticeCredit tag n s
  | .restart tag => Sys2Proof.Machine.execRestart tag s
  | .filled status id seq => Sys2Proof.Machine.execFilled status id seq s
  | .unknownKindMessage l kind tag body => Sys2Proof.Machine.execUnknownKindMessage l kind tag body s
  | .recallDeadlineExpiry entry => Sys2Proof.Machine.execRecallDeadlineExpiry entry s
  | .fillDeadlineExpiry id => Sys2Proof.Machine.execFillDeadlineExpiry id s
  | .resetN => Sys2Proof.Machine.execResetN s
  | .carrierDetected l => Sys2Proof.Machine.execCarrierDetected l s
  | .parameterWord l crcOk role linkNumber credits => Sys2Proof.Machine.execParameterWord l crcOk role linkNumber credits s
  | .carrierLost l => Sys2Proof.Machine.execCarrierLost l s
  | .linkError l cause => Sys2Proof.Machine.execLinkError l cause s
  | .creditReturnWord l returned => Sys2Proof.Machine.execCreditReturnWord l returned s
  | .messageInTraining l words => Sys2Proof.Machine.execMessageInTraining l words s
  | .resetNRelease => Sys2Proof.Machine.execResetNRelease s
  | .otherControlCodeWord l word => Sys2Proof.Machine.execOtherControlCodeWord l word s

end Sys2Proof.Machine
end

