-- ==== Sys2Proof/Safety.lean ====
section
/-!
DEFINITION. The terms in which statements speak of the block: when a message is taken, what an action sends, what a
departure leaves, and the laws of the device that every step keeps (spec/00, "Laws of the device").
-/

namespace Sys2Proof.Machine

/-! ## When a message is taken -/

/-- A link is UP, its partner holds a credit, no message waits in its receive buffer and the block above is not behind:
a message on it is received and taken at once (R163, R164; log 1). -/
abbrev State.receives (s : State) (l : LinkId) : Prop :=
  s.isUp l = true ∧ (s.link l).credits ≠ 0 ∧ (s.link l).buffer = [] ∧ l ∉ s.behind

/-- A supervisor request with this tag passes the common checks of a SERVING device (R150). -/
abbrev State.serves (s : State) (tag : BitVec 8) : Prop :=
  s.receives .sup ∧ s.isServing = true ∧ s.tagInUse tag = false

/-- A request of agent a is taken on an ADMITTED port (R143). -/
abbrev State.hears (s : State) (a : AgentId) : Prop := s.receives (.agent a) ∧ (s.port a).state = .admitted

/-- No change awaits a release from agent a. -/
abbrev State.unawaited (s : State) (a : AgentId) : Prop := ∀ e, ∀ x ∈ s.entry e, x.awaited[a] = false

/-- Every change that awaits agent a still awaits another one: a removal of a's holdings ends no waiting. -/
abbrev State.outwaited (s : State) (a : AgentId) : Prop :=
  ∀ e, ∀ x ∈ s.entry e, x.awaited[a] = true → ∃ b, b ≠ a ∧ x.awaited[b] = true

/-- The outbox delivers nothing now: no credit, or S not UP (R156). -/
abbrev State.mute (s : State) : Prop := s.credit = 0 ∨ s.isUp .sup = false

/-- The holding in slot i of agent a, absent while the slot is EMPTY (R20). -/
abbrev State.held (s : State) (a : AgentId) (i : Fin 64) : Option Holding := (s.table a).slots[i]

/-! ## What an action sends -/

/-- A message taken on S and these messages sent on it, and nothing else. -/
def Outputs.onSup (ms : List SupMsg) : Outputs := { Outputs.nothing with sup := ms, creditReturns := [.sup] }

/-- A message taken on agent a's link and these messages sent on it, and nothing else. -/
def Outputs.onAgent (a : AgentId) (ms : List AgentMsg) : Outputs :=
  { Outputs.nothing with agents := Outputs.nothing.agents.set a ms, creditReturns := [.agent a] }

/-- A message taken on M and these fills sent on it, and nothing else. -/
def Outputs.onMem (ms : List FillMsg) : Outputs := { Outputs.nothing with mem := ms, creditReturns := [.mem] }

/-- A parameter word sent on a link, and nothing else. -/
def Outputs.trains (l : LinkId) : Outputs := { Outputs.nothing with parameterWords := [l] }

/-- DONE (tag, APPLIED) with no generation, an empty lost set, no scrub slot and no credit. -/
def SupMsg.plainDone (tag : BitVec 8) : SupMsg := .done tag .applied none (noneOf 8) none none

/-! ## Lookups -/

/-- The lookup of agent a for LIVE window w with rights r passes checks 4 to 7 of R42: the window is not IN_RECALL, its
class and binding allow the agent, and the rights asked do not exceed the agent's entry. -/
abbrev State.grants (s : State) (a : AgentId) (w : Nat) (r : Rights) (l : LiveFields) : Prop :=
  (s.window w).live = some l ∧ s.condition w ≠ .inRecall ∧ l.cls.allows a (s.port a).context = true ∧
    r.exceeds l.rights[a] = false

/-- The agent's regranted set after a GRANT for w (R68). -/
def SlotTable.regrantedBy (t : SlotTable) (w : Nat) : NatSet :=
  if w ∈ t.recalled then natInsert t.regranted w else t.regranted

/-! ## What a departure leaves -/

/-- What every departure of agent a to a port state with a reason leaves of a (R142): the port written with its context
kept, its tags and its table empty and its pointer 0, FENCE_N low, no parked lookup of a, a in no holder set of a window
it held. -/
structure Emptied (s t : State) (a : AgentId) (st : PortState) (r : PortReason) : Prop where
  port : t.port a = { state := st, reason := r, context := (s.port a).context, tags := noneOf 4 }
  table : t.table a = SlotTable.initial
  fence : t.fenceN[a] = false
  park : ∀ p ∈ t.park, p.agent ≠ a
  holders : ∀ i, ∀ h ∈ s.held a i, (t.window h.window).holders[a] = false

/-- A port keeps its state, its reason and its context, and its FENCE_N line its level. -/
structure PortKept (s t : State) (b : AgentId) : Prop where
  state : (t.port b).state = (s.port b).state
  reason : (t.port b).reason = (s.port b).reason
  context : (t.port b).context = (s.port b).context
  fence : t.fenceN[b] = s.fenceN[b]

/-- What no departure reaches, whatever changes it brings to their end: the device state with its configuration, the lines
of the reset and the carrier, and of the record of a window that no Change Table entry names all but the holder set. -/
structure Bystanders (s t : State) : Prop where
  device : t.device = s.device
  resetN : t.resetN = s.resetN
  carrier : t.carrier = s.carrier
  records : ∀ w, (∀ e, ∀ x ∈ s.entry e, x.window ≠ w) →
    (t.window w).live = (s.window w).live ∧ (t.window w).generation = (s.window w).generation ∧
      (t.window w).pending = (s.window w).pending

/-- The departure of one agent: the agent is emptied and every other port is kept. -/
structure Departed (s t : State) (a : AgentId) (st : PortState) (r : PortReason) : Prop where
  gone : Emptied s t a st r
  others : ∀ b, b ≠ a → PortKept s t b
  rest : Bystanders s t

/-! ## Re-takes -/

/-- Every parked lookup is one that R42 parks: of an ADMITTED agent, for a window number 0 to 4095 and rights other than
NONE. -/
abbrev State.parkSound (s : State) : Prop :=
  ∀ p ∈ s.park, (s.port p.agent).state = .admitted ∧ p.window < 4096 ∧ p.rights ≠ .none

/-- Parked lookups answered in list order: each one's tag leaves its agent's set, and it is decided as a LOOKUP taken at
that moment is, on what the lookups before it left (R50 to R52). -/
def State.lookAgain (s : State) (ps : List Parked) : State :=
  ps.foldl
    (fun s p =>
      let port := s.port p.agent
      act (.lookup p.agent (BitVec.ofNat 8 p.tag) (BitVec.ofNat 16 p.window) p.rights.code)
        (s.setPort p.agent { port with tags := port.tags.set p.tag false }))
    s

/-- The re-take of window w: its entries leave the Park List together, and their lookups are answered in list order
(R50). -/
def State.retaken (s : State) (w : Nat) : State :=
  { s with park := s.park.filter fun p => decide (p.window ≠ w) }.lookAgain
    (s.park.filter fun p => decide (p.window = w))

/-! ## Requests for a change -/

/-- A 16-bit rights set holds these rights entries (table 10-3). -/
def rightsNamed (bits : BitVec 16) (r : RightsSet) : Prop :=
  ∀ a : AgentId, bits.extractLsb' (2 * a.val) 2 = r[a].code

/-- The rights entries as a record of a class stores them: in a BOUND record every entry but the bound agent's is NONE
(R4). -/
def WindowClass.entries (c : WindowClass) (r : RightsSet) : RightsSet :=
  Vector.ofFn fun b =>
    match c with
    | .shared => r[b]
    | .bound a _ => if b = a then r[b] else .none

/-- The frame lies in the run. -/
abbrev Run.has (r : Run) (f : Nat) : Prop := r.base ≤ f ∧ f < r.base + r.count

/-- A base frame and a frame count within their values, and the run they name (check 2 of R62). -/
abbrev runNamed (configured : Nat) (base count : Word) (r : Run) : Prop :=
  base.toNat < 65536 ∧ 1 ≤ count.toNat ∧ count.toNat ≤ 4096 ∧ base.toNat + count.toNat ≤ configured ∧
    r = ⟨base.toNat, count.toNat⟩

/-- The command is a CHANGE or RETIRE of window w whose fields are within their values, asking for this kind of change
(checks 1 and 2 of R62, but for the group). -/
def State.asks (s : State) (c : Instr) (tag : BitVec 8) (w : BitVec 16) (group : Option (BitVec 8)) :
    ChangeKind → Prop
  | .retire => c = .retire tag w group
  | .change r n scrub =>
    ∃ bits run, c = .change tag w group bits run scrub ∧
      (bits = none ∧ r = none ∨ ∃ b q, bits = some b ∧ r = some q ∧ rightsNamed b q) ∧
      (run = none ∧ n = none ∨
        ∃ base count q, run = some (base, count) ∧ n = some q ∧ runNamed s.frameCount base count q)

/-- The kind code of the request for a change (table 10-2). -/
def ChangeKind.code : ChangeKind → BitVec 8
  | .retire => 0x24
  | .change .. => 0x23

/-- The new run of a change, if it carries one. -/
def ChangeKind.newRun : ChangeKind → Option Run
  | .retire => none
  | .change _ n _ => n

/-- The frames of the old run below the new one, and those above it, as runs of consecutive frames (R105). -/
def Run.left (old new : Run) : List Run :=
  let stop := old.base + old.count
  (if old.base < new.base then [⟨old.base, min stop new.base - old.base⟩] else []) ++
    (if new.base + new.count < stop then
      [⟨max old.base (new.base + new.count), stop - max old.base (new.base + new.count)⟩]
    else [])

/-- The runs that a change releases: all of the current run for a RETIRE; what a new run leaves out; else none (R63,
R105). -/
def ChangeKind.leaves (k : ChangeKind) (l : LiveFields) : List Run :=
  match k with
  | .retire => [l.run]
  | .change _ (some n) _ => l.run.left n
  | .change _ none _ => []

/-- A holding of agent a with these held rights is affected by the change (table 4-4). -/
def ChangeKind.hits (k : ChangeKind) (l : LiveFields) (a : AgentId) (held : Rights) : Prop :=
  match k with
  | .retire => True
  | .change r n _ => (∃ q ∈ n, q ≠ l.run) ∨ ∃ q ∈ r, held.exceeds (l.cls.entries q)[a] = true

/-- Entry e is the lowest FREE entry of the Change Table (R58). -/
abbrev State.nextEntry (s : State) (e : Fin 16) : Prop := s.entry e = none ∧ ∀ d < e, s.entry d ≠ none

/-- Slot i is the lowest FREE scrub slot (R114). -/
abbrev State.nextSlot (s : State) (i : Fin 16) : Prop := s.slot i = .free ∧ ∀ j < i, s.slot j ≠ .free

/-- A scrub slot is reserved exactly when the change releases frames while the window's flag is set (R63). -/
def ChangeKind.slotFits (k : ChangeKind) (l : LiveFields) (slot : Option (Fin 16)) : Prop :=
  slot = none ↔ l.scrub = false ∨ k.leaves l = []

/-- A change of window w passes checks 3, 4, 6, 7 and 8 of R62, taking entry e and this scrub slot. -/
structure State.Admits (s : State) (w : Nat) (k : ChangeKind) (l : LiveFields) (e : Fin 16) (slot : Option (Fin 16)) :
    Prop where
  live : (s.window w).live = some l
  idle : (s.window w).pending = none
  entry : s.nextEntry e
  frames : ∀ r ∈ k.newRun, ∀ f, r.has f → s.frame f = .free ∨ s.frame f = .bound w
  fits : k.slotFits l slot
  slot : ∀ i ∈ slot, s.nextSlot i

/-- The entry of a request just accepted: HELD, nobody awaited or lost, its deadline stopped (R64). -/
def Entry.fresh (tag : BitVec 8) (w : Nat) (k : ChangeKind) (group : Option (Fin 4)) (slot : Option (Fin 16)) : Entry :=
  { tag := tag, window := w, kind := k, group := group, state := .held, awaited := noneOf 8, lost := noneOf 8
    deadline := .stopped, scrubSlot := slot }

/-- What every acceptance does (R64): the entry is taken, the window's pending change names it, the FREE frames of the new
run are RESERVED for the window, and the scrub slot is RESERVED for the entry. -/
structure State.Accepts (s t : State) (e : Fin 16) (x : Entry) : Prop where
  rest : t =
    { (s.setEntry e (some x)).setWindow x.window { s.window x.window with pending := some e } with
      frames := t.frames
      scrub :=
        match x.scrubSlot with
        | none => s.scrub
        | some i => { s.scrub with slots := s.scrub.slots.set i (.reserved e) } }
  frames : ∀ f, t.frame f =
    if (∃ r ∈ x.kind.newRun, r.has f) ∧ s.frame f = .free then .reserved x.window else s.frame f

/-! ## The recall -/

/-- Exactly the agents of a set hold window w with rights that a change affects, each in the slot given, and no agent
lists w twice (R29, R65). -/
structure State.Affected (s : State) (w : Nat) (agents : FinSet 8) (slot : AgentId → Fin 64)
    (affects : AgentId → Rights → Prop) : Prop where
  holds : ∀ a, agents[a] = true → ∃ h ∈ s.held a (slot a), h.window = w ∧ affects a h.rights
  spared : ∀ a, agents[a] = false → ∀ i, ∀ h ∈ s.held a i, h.window = w → ¬affects a h.rights
  once : ∀ a i j, ∀ h ∈ s.held a i, ∀ k ∈ s.held a j, h.window = w → k.window = w → i = j

/-- The state in which a standalone entry just accepted has started its recall (R65 to R68, R72): the entry RECALLING with
its deadline running, its tag in use, its window in the recalled set and out of the regranted set of every awaited agent;
a RECALL sent to each, naming its slot and the generation as it stands, and ACCEPTED. -/
def State.recalls (s : State) (e : Fin 16) (x : Entry) (agents : FinSet 8) (slot : AgentId → Fin 64) : State :=
  { s.setEntry e (some { x with state := .recalling, awaited := agents, deadline := .running }) with
    tags := natInsert s.tags x.tag.toNat
    tables := Vector.ofFn fun a =>
      if agents[a] then
        { s.table a with
          recalled := natInsert (s.table a).recalled x.window
          regranted := natErase (s.table a).regranted x.window }
      else s.table a
    out :=
      { Outputs.onSup [.accepted x.tag] with
        agents := Vector.ofFn fun a =>
          if agents[a] then [.recall (slot a) x.window (s.window x.window).generation] else [] } }

/-! ## Applications -/

/-- The record as an application writes it (R76, R12): its generation raised, its pending change absent; FREE after a
RETIRE, else with each value the change carries. -/
def Entry.record (x : Entry) (r : Window) (l : LiveFields) : Window :=
  { r with
    generation := r.generation + 1
    pending := none
    live :=
      match x.kind with
      | .retire => none
      | .change q n scrub =>
        some
          { l with
            rights :=
              match q with
              | some q => l.cls.entries q
              | none => l.rights
            run := n.getD l.run
            scrub := scrub.getD l.scrub } }

/-- A job as it is queued: nothing filled, at block 0 of its first frame (R116). -/
def Job.start (o : Origin) (r : Run) : Job :=
  { origin := o, first := r, second := none, position := some { second := false, frame := r.base, block := 0 }
    tally := [], freed := 0, quarantined := 0 }

/-- The job of the runs that an entry releases, the lower first (R106). -/
def Entry.job (x : Entry) (l : LiveFields) : Option Job :=
  match x.kind.leaves l with
  | [] => none
  | r :: q => some { Job.start (.window x.window) r with second := q.head? }

/-- The frames after an application (R105, R106): a frame that the change releases is SCRUBBING in the entry's slot, or
FREE where it has none; with a new run, a frame RESERVED for the window is BOUND to it; every other frame stays. -/
def State.framesApplied (s t : State) (x : Entry) (l : LiveFields) : Prop :=
  ∀ f, t.frame f =
    if ∃ r ∈ x.kind.leaves l, r.has f then
      match x.scrubSlot with
      | some i => .scrubbing i
      | none => .free
    else if s.frame f = .reserved x.window ∧ ∃ n ∈ x.kind.newRun, n ≠ l.run then .bound x.window
    else s.frame f

/-- What the application of an entry does before the re-take, with S UP (R76 to R80): the record and the frames, the
job of the released frames at the tail of the queue, the entry FREE, its tag free, and DONE. The engine is not IDLE, or
there is no job. -/
structure State.Applies (s t : State) (e : Fin 16) (x : Entry) (l : LiveFields) : Prop where
  rest : t =
    { (s.setWindow x.window (x.record (s.window x.window) l)).setEntry e none with
      frames := t.frames
      scrub :=
        match x.scrubSlot, x.job l with
        | some i, some j =>
          { s.scrub with slots := s.scrub.slots.set i (.queued j), queue := s.scrub.queue ++ [i] }
        | _, _ => s.scrub
      tags := natErase s.tags x.tag.toNat
      out :=
        { s.out with
          sup := s.out.sup ++
            [.done x.tag .applied (some ((s.window x.window).generation + 1)) x.lost x.scrubSlot none] } }
  frames : s.framesApplied t x l

/-- An entry in use can be applied as `State.Applies` says: its window is LIVE, S is UP, its slot fits, and the engine is
not IDLE where a job joins the queue. -/
structure State.Applicable (s : State) (e : Fin 16) (x : Entry) (l : LiveFields) : Prop where
  entry : s.entry e = some x
  live : (s.window x.window).live = some l
  up : s.isUp .sup = true
  wf : SparseWf .free s.frames
  fits : x.kind.slotFits l x.scrubSlot
  engine : s.scrub.engine ≠ .idle ∨ x.scrubSlot = none

/-- Entries applied one after another, each whole with the re-take of its window before the next (R95). -/
def State.AppliesAll : List (Fin 16) → State → State → Prop
  | [], s, t => t = s
  | e :: es, s, t =>
    ∃ u x l, s.entry e = some x ∧ (s.window x.window).live = some l ∧ s.Applies u e x l ∧
      AppliesAll es (u.retaken x.window) t

/-! ## The abandonment of a group -/

/-- What the abandonment of an entry does before the re-take, with S UP (R82): the record keeps its values and loses its
pending change, the frames RESERVED for the window and the entry's scrub slot are FREE, the entry and its tag are free,
and DONE (ABANDONED) is sent with the generation as it stands and the lost set. -/
structure State.Abandons (s t : State) (e : Fin 16) (x : Entry) : Prop where
  rest : t =
    { (s.setWindow x.window { s.window x.window with pending := none }).setEntry e none with
      frames := t.frames
      scrub :=
        match x.scrubSlot with
        | some i => { s.scrub with slots := s.scrub.slots.set i .free }
        | none => s.scrub
      tags := natErase s.tags x.tag.toNat
      out :=
        { s.out with
          sup := s.out.sup ++
            [.done x.tag .abandoned (some (s.window x.window).generation) x.lost none none] } }
  frames : ∀ f, t.frame f = if s.frame f = .reserved x.window then .free else s.frame f

/-- The re-take of window w inside the GROUP_ABANDON of group g: lookups are answered as in every re-take, but no
eviction in it is a release for a member of g, which keeps its awaited set and its state until its own turn (R28, R97).
So it is the re-take of a Change Table without g's entries, which then stand as they stood. -/
def State.retakenBeside (s : State) (g : Fin 4) (w : Nat) : State :=
  let own (e : Fin 16) : Bool := (s.entry e).any fun x => x.group == some g
  let t := { s with entries := Vector.ofFn fun e => if own e then none else s.entry e }.retaken w
  { t with entries := Vector.ofFn fun e => if own e then s.entry e else t.entry e }

/-- Members of group g abandoned one after another, each whole with the re-take of its window before the next (R97). -/
def State.AbandonsAll (g : Fin 4) : List (Fin 16) → State → State → Prop
  | [], s, t => t = s
  | e :: es, s, t =>
    ∃ u x, s.entry e = some x ∧ s.Abandons u e x ∧ AbandonsAll g es (u.retakenBeside g x.window) t

/-! ## Releases -/

/-- An entry from whose awaited set agent a has gone, into the lost set when it left admission (R70). -/
def Entry.released (x : Entry) (a : AgentId) (lost : Bool) : Entry :=
  { x with awaited := x.awaited.set a false, lost := if lost then x.lost.set a true else x.lost }

/-- Holding h in slot i of agent a removed, and the entry e that awaited it released (R28, R70). -/
def State.without (s : State) (a : AgentId) (i : Fin 64) (h : Holding) (e : Fin 16) (x : Entry) : State :=
  ((s.setTable a { s.table a with slots := (s.table a).slots.set i none }).setWindow h.window
    { s.window h.window with holders := (s.window h.window).holders.set a false }).setEntry e
    (some (x.released a false))

/-- The command c is a request of agent a whose one removal is holding h in slot i, and u is the state it leaves before
any end of waiting, with what it sends: RETURN of the slot; a counted RELEASED; FLUSH of an agent that holds nothing
else; SWITCH of an agent that holds nothing else that is BOUND; a LOOKUP of another window that is granted to a full
table whose pointer stands at i. That its GRANT leaves before the answers of a re-take on the same link is
the model's choice (log 6). -/
def State.GivesBack (s : State) (a : AgentId) (i : Fin 64) (h : Holding) (e : Fin 16) (x : Entry) (c : Instr)
    (u : State) : Prop :=
  let v := s.without a i h e x
  (∃ tag, c = .returnSlot a tag (BitVec.ofNat 9 i) ∧ u = { v with out := .onAgent a [.returned i true] }) ∨
  (∃ w g, c = .released a w g ∧ w.toNat = h.window ∧ h.window < 4096 ∧ g = (s.window h.window).generation ∧
    h.window ∉ (s.table a).regranted ∧ (∀ j, ∀ k ∈ s.held a j, k.window = h.window → j = i) ∧
    u = { v.setTable a
            { v.table a with
              recalled := natErase (s.table a).recalled h.window
              regranted := natErase (s.table a).regranted h.window } with
          out := .onAgent a [] }) ∨
  (∃ tag, c = .flush a tag ∧ (∀ j, j ≠ i → s.held a j = none) ∧
    u = { v.setTable a { v.table a with pointer := 0 } with out := .onAgent a [.flushed] }) ∨
  (∃ (tag : BitVec 8) (n : Fin 16), c = .switch a tag (BitVec.ofNat 9 n) ∧ h.cls = .bound ∧
    (∀ j, j ≠ i → ∀ k ∈ s.held a j, k.cls = .shared) ∧
    u = { v.setPort a { s.port a with context := n } with out := .onAgent a [.switched n 1] }) ∨
  (∃ (t : Fin 4) (w : BitVec 16) (r : Rights) (l : LiveFields),
    c = .lookup a (BitVec.ofNat 8 t) w r.code ∧ w.toNat < 4096 ∧ r ≠ .none ∧ (s.port a).tags[t] = false ∧
    s.grants a w.toNat r l ∧ (∀ j, s.held a j ≠ none) ∧ (∀ j, ∀ k ∈ s.held a j, k.window ≠ w.toNat) ∧
    (s.table a).pointer = i ∧
    u = { (v.setTable a
            { v.table a with
              slots := (s.table a).slots.set i (some { window := w.toNat, rights := r, cls := l.cls.name })
              pointer := i + 1
              regranted := (s.table a).regrantedBy w.toNat }).setWindow w.toNat
            { s.window w.toNat with holders := (s.window w.toNat).holders.set a true } with
          out := .onAgent a
            [.grant t i w.toNat (s.window w.toNat).generation l.cls.name l.run r (some h.window)] })

/-- What the removal of some of agent a's holdings leaves of every entry in use, while each entry that awaited a awaits
another agent too: an entry of the window of a removed holding that was waiting for a has released it; every other
entry is as it was (R70). -/
def State.ReleasesOnly (s t : State) (a : AgentId) (lost : Bool) (removed : Holding → Prop) : Prop :=
  ∀ e, ∀ x ∈ s.entry e,
    (x.awaited[a] = true ∧ x.state ≠ .held ∧
        (∃ i, ∃ h ∈ s.held a i, removed h ∧ (s.window h.window).pending = some e) →
      t.entry e = some (x.released a lost)) ∧
    (x.awaited[a] = false ∨ x.state = .held ∨
        (∀ i, ∀ h ∈ s.held a i, removed h → (s.window h.window).pending ≠ some e) →
      t.entry e = some x)

/-! ## Frames and scrub jobs -/

/-- Every frame of a run put in one state, every other frame as it was. -/
def State.framesSet (s t : State) (r : Run) (x : FrameState) : Prop :=
  ∀ f, t.frame f = if r.has f then x else s.frame f

/-- The fill f is of a frame SCRUBBING in the ACTIVE job's slot i. -/
abbrev State.scrubs (s : State) (f : Fill) (i : Fin 16) (j : Job) : Prop :=
  s.active = some (i, j) ∧ s.frame f.frame = .scrubbing i

/-- The fill f is of the last block of its frame that the job has not filled (R120). -/
abbrev Job.lastBlock (j : Job) (f : Fill) : Prop := ∀ b : Fin 16, b = f.block ∨ (j.filled f.frame)[b] = true

/-- No frame but the fill's own moves; that frame takes a state when it is SCRUBBING for the ACTIVE job and a condition
holds of the job, and else stays. Beyond the frames, the end of a fill reaches only the Scrub Engine, the outbox and what
is sent. -/
structure State.FrameEnds (s t : State) (f : Fill) (x : FrameState) (cond : Job → Prop) : Prop where
  others : ∀ g, g ≠ f.frame → t.frame g = s.frame g
  moved : ∀ i j, s.scrubs f i j → cond j → t.frame f.frame = x
  kept : (∀ i j, s.scrubs f i j → ¬cond j) → t.frame f.frame = s.frame f.frame
  rest : t =
    { s with
      frames := t.frames, scrub := t.scrub, tags := t.tags, outbox := t.outbox, credit := t.credit
      noticeN := t.noticeN, out := t.out }

/-! ## The sending of fills -/

/-- One block comes before another in issue order: run by run, frame by frame, block by block (R118). -/
def Position.before (p q : Position) : Prop :=
  p.second = false ∧ q.second = true ∨
    p.second = q.second ∧ (p.frame < q.frame ∨ p.frame = q.frame ∧ p.block < q.block)

/-- A block of the run of the job that it names. -/
def Job.names (j : Job) (p : Position) : Prop :=
  if p.second then ∃ r ∈ j.second, r.has p.frame else j.first.has p.frame

/-- A block that the job in slot i has still to fill: its frame is SCRUBBING for the slot and the block is not in the
tally (R118). -/
def State.wants (s : State) (i : Fin 16) (j : Job) (p : Position) : Prop :=
  j.names p ∧ s.frame p.frame = .scrubbing i ∧ (j.filled p.frame)[p.block] = false

/-- The first block in issue order, of those that satisfy a condition, that the job has still to fill; END (none) when
there is none (R118). -/
def State.firstWanted (s : State) (i : Fin 16) (j : Job) (ok : Position → Prop) : Option Position → Prop
  | some q => s.wants i j q ∧ ok q ∧ ∀ p, s.wants i j p → ok p → ¬p.before q
  | none => ∀ p, s.wants i j p → ¬ok p

/-- The blocks that the job has still to fill, in issue order from those that satisfy a condition on, and the block that
follows them, or END. -/
def State.nextBlocks (s : State) (i : Fin 16) (j : Job) : (Position → Prop) → List Position → Option Position → Prop
  | ok, [], q => s.firstWanted i j ok q
  | ok, p :: ps, q => s.firstWanted i j ok (some p) ∧ s.nextBlocks i j p.before ps q

/-- The fill ids not in flight, the lowest first (R119). -/
def State.freeIds (s : State) : List (Fin 4) := (List.finRange 4).filter fun k => (s.fill k).isNone

/-- At the sending of fills the job in slot i has these blocks, one or more, to send from its position on, as many as
there are fill ids free or all it has left, and its position passes to q (R118). -/
structure State.Sends (s : State) (i : Fin 16) (j : Job) (ps : List Position) (q : Option Position) : Prop where
  some : ps ≠ []
  order : ∃ p ∈ j.position, j.names p ∧ s.nextBlocks i j (fun b => ¬b.before p) ps q
  runs : ∀ r ∈ j.second, 1 ≤ r.count
  room : ps.length = s.freeIds.length ∨ ps.length < s.freeIds.length ∧ q = none

/-- The fills of these blocks: the lowest fill ids not in flight, and the sequence counter's values from its own on
(R119). -/
def State.fillsOf (s : State) (ps : List Position) : List (Fin 4 × Fill) :=
  (s.freeIds.zip ps).zipIdx.map fun x =>
    (x.1.1, { seq := s.scrub.seq + BitVec.ofNat 16 x.2, frame := x.1.2.frame, block := x.1.2.block })

/-- The state after the ACTIVE job in slot i has sent the fills of these blocks and its position has passed to q (R118,
R119). -/
def State.filling (s : State) (i : Fin 16) (j : Job) (ps : List Position) (q : Option Position) : State :=
  { s with
    scrub :=
      { s.scrub with
        slots := s.scrub.slots.set i (.active { j with position := q })
        fills := Vector.ofFn fun k => ((s.fillsOf ps).lookup k).or (s.fill k)
        seq := s.scrub.seq + BitVec.ofNat 16 ps.length }
    out :=
      { s.out with
        mem := s.out.mem ++ (s.fillsOf ps).map fun x =>
          { id := x.1, seq := x.2.seq, frame := x.2.frame, block := x.2.block, pattern := s.pattern } } }

/-! ## Laws of the device -/

/-- A port is DOWN exactly while its link is not UP (R136), and FENCE_N is high exactly while the port is ADMITTED
(R134). On an UP link the partner's credits and the messages in the receive buffer make 8, each of them a message of that
link; on a link that is not UP the buffer is empty (R162, R163). -/
structure PortLaw (s : State) : Prop where
  down : ∀ a, (s.port a).state = .down ↔ s.isUp (.agent a) = false
  fence : ∀ a, s.fenceN[a] = true ↔ (s.port a).state = .admitted
  credits : ∀ l, s.isUp l = true → (s.link l).credits + (s.link l).buffer.length = 8
  empty : ∀ l, s.isUp l = false → (s.link l).buffer = []
  own : ∀ l, ∀ m ∈ (s.link l).buffer, (commandMessage m).map Prod.fst = some l

/-- A port that is not ADMITTED has every slot EMPTY with the pointer 0 and nothing recalled, no lookup in the Park
List and no lookup tag in use (R135). -/
def EmptyPortLaw (s : State) : Prop :=
  ∀ a, (s.port a).state ≠ .admitted →
    s.table a = SlotTable.initial ∧ (∀ p ∈ s.park, p.agent ≠ a) ∧ (s.port a).tags = noneOf 4

/-- NOTICE_N is low exactly while the outbox is not empty (R157); no agent has two PORT notices (R155; the SCRUB
notices stand in `ScrubLaw`); an outbox that is not empty has a credit of 0 or S is not UP (R156); the credit is 0 to
255, and 0 while S is not UP (R156, R159). -/
structure OutboxLaw (s : State) : Prop where
  line : s.noticeN = true ↔ s.outbox = []
  onePort : ∀ a, s.outbox.countP (Notice.isPortOf a) ≤ 1
  waits : s.outbox = [] ∨ s.mute
  bound : s.credit ≤ 255
  lost : s.isUp .sup = false → s.credit = 0

/-- An agent is in the holder set of a window exactly when one of its slots names the window, and no two slots of one
agent name the same window (R29). -/
structure HolderLaw (s : State) : Prop where
  agree : ∀ a w, (s.window w).holders[a] = true ↔ ∃ i h, s.held a i = some h ∧ h.window = w
  once : ∀ a i j h k, s.held a i = some h → s.held a j = some k → h.window = k.window → i = j

/-- A window's pending change names the entry in use that names the window (R6, R58). -/
structure PendingLaw (s : State) : Prop where
  named : ∀ e x, s.entry e = some x → (s.window x.window).pending = some e
  inUse : ∀ w e, (s.window w).pending = some e → ∃ x, s.entry e = some x ∧ x.window = w

/-- The Park List holds at most 16 entries, no two of the same agent and tag (R47), and an agent's tags in use are the
tags of its entries (R46). -/
structure ParkLaw (s : State) : Prop where
  bound : s.park.length ≤ 16
  once : s.park.Pairwise fun p q => ¬(p.agent = q.agent ∧ p.tag = q.tag)
  tags : ∀ a t, (s.port a).tags[t] = true ↔ ∃ p ∈ s.park, p.agent = a ∧ p.tag = t

/-- Every HELD slot names a LIVE window, holds READ or READWRITE that do not exceed the agent's entry in its record, and
carries the record's class; a BOUND window is held by the bound agent in the bound context (R21, R30). -/
def RightsLaw (s : State) : Prop :=
  ∀ a i, ∀ h ∈ s.held a i, h.window < 4096 ∧ h.rights ≠ .none ∧
    ∃ l ∈ (s.window h.window).live, h.rights.exceeds l.rights[a] = false ∧ h.cls = l.cls.name ∧
      l.cls.allows a (s.port a).context = true

/-- The limits on entries and groups, and the states that go together (R58, R60, R88, R71): an entry in use names a LIVE
window; a standalone entry is RECALLING; an entry is a member of a group exactly when the group lists it; a group lists at
most 8 members, none twice, and none while it is FREE; the members of an OPEN group are HELD, those of a RECALLING one are
not, and one of them is not READY. -/
structure GroupLaw (s : State) : Prop where
  live : ∀ e, ∀ x ∈ s.entry e, x.window < 4096 ∧ (s.window x.window).live ≠ none
  alone : ∀ e, ∀ x ∈ s.entry e, x.group = none → x.state = .recalling
  member : ∀ e g, e ∈ (s.group g).members ↔ ∃ x ∈ s.entry e, x.group = some g
  limit : ∀ g, (s.group g).members.length ≤ 8 ∧ (s.group g).members.Nodup
  free : ∀ g, (s.group g).state = .free → (s.group g).members = []
  opened : ∀ g, (s.group g).state = .opened → ∀ e ∈ (s.group g).members, ∀ x ∈ s.entry e, x.state = .held
  recalling : ∀ g t, (s.group g).state = .recalling t →
    (∀ e ∈ (s.group g).members, ∀ x ∈ s.entry e, x.state ≠ .held) ∧
      ∃ e ∈ (s.group g).members, ∃ x ∈ s.entry e, x.state ≠ .ready

/-- The recall round (R65, R70, R140, R47): an awaited agent is ADMITTED and holds the window of a RECALLING entry;
every holding that an entry in its round affects is an awaited agent's; an entry is RECALLING exactly while it is in
its round and awaits somebody; its deadline is stopped exactly while it is HELD; and every parked lookup is one that
R42 parks, for a window IN_RECALL. -/
structure RoundLaw (s : State) : Prop where
  awaited : ∀ e a, ∀ x ∈ s.entry e, x.awaited[a] = true →
    (s.port a).state = .admitted ∧ ∃ i, ∃ h ∈ s.held a i, h.window = x.window
  covered : ∀ e a i, ∀ x ∈ s.entry e, ∀ l ∈ (s.window x.window).live, ∀ h ∈ s.held a i, h.window = x.window →
    x.state ≠ .held → x.kind.hits l a h.rights → x.awaited[a] = true
  state : ∀ e, ∀ x ∈ s.entry e, (x.state = .recalling ↔ ∃ a : AgentId, x.awaited[a] = true)
  deadline : ∀ e, ∀ x ∈ s.entry e, (x.deadline = .stopped ↔ x.state = .held)
  parked : s.parkSound ∧ ∀ p ∈ s.park, s.condition p.window = .inRecall

/-- The frames (R101, R103, R111, R112): a frame is BOUND to a window exactly when it lies in the current run of the
LIVE window; it is RESERVED for a window exactly when it lies in the new run of the window's pending change and not in
the current run; it is SCRUBBING for a slot only while the slot's job is QUEUED or ACTIVE and the frame lies in one of
its runs. Every frame that is not FREE is a configured one, and every run has a frame. -/
structure FrameLaw (s : State) : Prop where
  bound : ∀ f w, s.frame f = .bound w ↔ ∃ l ∈ (s.window w).live, l.run.has f
  reserved : ∀ f w, s.frame f = .reserved w ↔
    ∃ e ∈ (s.window w).pending, ∃ x ∈ s.entry e, ∃ r ∈ x.kind.newRun, ∃ l ∈ (s.window w).live,
      r.has f ∧ ¬l.run.has f
  scrubbing : ∀ f i, s.frame f = .scrubbing i →
    ∃ j, (s.slot i = .queued j ∨ s.slot i = .active j) ∧ (j.first.has f ∨ ∃ r ∈ j.second, r.has f)
  configured : ∀ f, s.frame f ≠ .free → f < s.frameCount
  runs : ∀ w, ∀ l ∈ (s.window w).live, 1 ≤ l.run.count
  newRuns : ∀ e, ∀ x ∈ s.entry e, ∀ r ∈ x.kind.newRun, 1 ≤ r.count

/-- The Scrub Engine (R114 to R118, R124, R125, R155): a RESERVED slot belongs to the entry that records it, and an entry
records one exactly when its change releases frames while the window's flag is set; the queue lists the QUEUED slots, none
twice; one job at most is ACTIVE, one is while the engine is RUNNING, and none is, and none waits, while it is IDLE; every
fill in flight is of a frame of the ACTIVE job, none is in flight while the engine is SUSPENDED, and one is while it is
SUSPENDING; the runs of a job have frames and stand in order, and its position stands in one of them; the SCRUB notices in
the outbox are those of the ENDED slots, one for each; no slot is in use while the device is UNCONFIGURED. -/
structure ScrubLaw (s : State) : Prop where
  reserved : ∀ i e, s.slot i = .reserved e ↔ ∃ x ∈ s.entry e, x.scrubSlot = some i
  fits : ∀ e, ∀ x ∈ s.entry e, ∀ l ∈ (s.window x.window).live, x.kind.slotFits l x.scrubSlot
  queued : s.scrub.queue.Nodup ∧ ∀ i, i ∈ s.scrub.queue ↔ ∃ j, s.slot i = .queued j
  oneActive : ∀ i k j j', s.slot i = .active j → s.slot k = .active j' → i = k
  running : s.scrub.engine = .running → s.active ≠ none
  idle : s.scrub.engine = .idle → s.active = none ∧ s.scrub.queue = []
  fills : ∀ k, ∀ f ∈ s.fill k, ∃ i j, s.active = some (i, j) ∧ (j.first.has f.frame ∨ ∃ r ∈ j.second, r.has f.frame)
  suspended : s.scrub.engine = .suspended → ∀ k, s.fill k = none
  suspending : ∀ t, s.scrub.engine = .suspending t → ∃ k, s.fill k ≠ none
  jobs : ∀ i j, s.slot i = .queued j ∨ s.slot i = .active j →
    1 ≤ j.first.count ∧ (∀ r ∈ j.second, 1 ≤ r.count ∧ j.first.base + j.first.count ≤ r.base) ∧
      ∀ p ∈ j.position, j.names p
  notices : ∀ i o r q x y, .scrub i o r q x y ∈ s.outbox ↔
    ∃ j, s.slot i = .ended j ∧ o = j.origin ∧ r = j.first ∧ q = j.second ∧ x = j.freed ∧ y = j.quarantined
  once : ∀ i, s.outbox.countP (fun n => match n with | .scrub k .. => decide (k = i) | .port .. => false) ≤ 1
  unconfigured : s.device = .unconfigured → ∀ i, s.slot i = .free

/-- Every table and set the state holds as a list stands in its canonical form (the model's own, log 19). -/
structure Canonical (s : State) : Prop where
  windows : SparseWf Window.initial s.windows
  frames : SparseWf .free s.frames
  tags : NatSetWf s.tags
  recalled : ∀ a, NatSetWf (s.table a).recalled
  regranted : ∀ a, NatSetWf (s.table a).regranted
  tallies : ∀ i j, s.slot i = .queued j ∨ s.slot i = .active j ∨ s.slot i = .ended j → SparseWf (noneOf 16) j.tally

/-- The laws of the device together. -/
structure DeviceLaw (s : State) : Prop where
  ports : PortLaw s
  emptyPorts : EmptyPortLaw s
  outbox : OutboxLaw s
  holders : HolderLaw s
  pending : PendingLaw s
  park : ParkLaw s
  rights : RightsLaw s
  groups : GroupLaw s
  rounds : RoundLaw s
  frames : FrameLaw s
  scrub : ScrubLaw s
  canonical : Canonical s

end Sys2Proof.Machine
end

