-- ==== Sys2Proof/Certificates/Slice0/Obligations.lean ====
section
/-!
DEFINITION. The statements for the provers. A result is stated as the whole next state: what a record update does not
name is unchanged. What an action sends is read from `out`, the model's own record of it (log 3). A message is stated where
it is received and taken at once; MessagesWait says what a message does that waits in its receive buffer (log 1).
-/

open Sys2Proof Sys2Proof.Machine

/-! ## The machine -/

/-- The command at the front of the queue is executed with the queue's rest. With an empty queue and no message waiting in
a receive buffer the block idles. The queue is the model's own (log 2). -/
def Obligations.StepTakesTheFront : Prop :=
  (∀ (c : Instr) (rest : List Instr) (s : State), s.pending = c :: rest → step s = exec c { s with pending := rest }) ∧
    ∀ s : State, s.pending = [] → (∀ l, (s.link l).buffer = []) → step s = .next s

/-- Every command has a next state from every state, and leaves the queue of commands to come as it was. That RESET_N
leaves it too is the model's choice (log 2). -/
def Obligations.EveryCommandCompletes : Prop :=
  ∀ (c : Instr) (s : State), ∃ t, exec c s = .next t ∧ t.pending = s.pending

/-- A message command m of link l. Taken at once, it has its effect (`act`) on a state that differs only by the
credit-return word. While the block above is behind on the link, by the model's own measure (log 1), it joins the tail
of the receive buffer, using one credit, and nothing else happens; once more messages wait than that, the oldest is
taken, and the credit used is returned. On a link that is not UP nothing is received. With no command to come, the
oldest message of the first link that holds one is taken (the order of the links is the model's choice, log 2). -/
def Obligations.MessagesWait : Prop :=
  ∀ (m : Instr) (l : LinkId) (s : State), (commandMessage m).map Prod.fst = some l →
    (s.receives l → exec m s = .next (act m { s with out := { Outputs.nothing with creditReturns := [l] } })) ∧
    (s.isUp l = true → (s.link l).credits ≠ 0 → (s.link l).buffer.length < s.behind.count l →
      exec m s = .next
        { s.setLink l
            { state := .up, credits := (s.link l).credits - 1, buffer := (s.link l).buffer ++ [m] } with
          out := .nothing }) ∧
    (∀ o rest, s.isUp l = true → (s.link l).credits ≠ 0 → s.behind.count l ≤ (s.link l).buffer.length →
      (s.link l).buffer = o :: rest →
      exec m s = .next (act o
        { s.setLink l { s.link l with buffer := rest ++ [m] } with
          out := { Outputs.nothing with creditReturns := [l] } })) ∧
    (s.isUp l = false → exec m s = .next { s with out := .nothing }) ∧
    ∀ o rest, s.pending = [] → (s.link l).buffer = o :: rest →
      (∀ k, (∃ a b, linkOrder = a ++ k :: b ∧ l ∈ b) → (s.link k).buffer = []) →
      step s = .next (act o
        { s.setLink l { s.link l with credits := (s.link l).credits + 1, buffer := rest } with
          out := { Outputs.nothing with creditReturns := [l] } })

/-- Reading the frame of a well-formed message command on an UP link gives the command back (spec/10, section 10.5). -/
def Obligations.FramesDecodeToTheirCommands : Prop :=
  ∀ (c : Instr) (l : LinkId) (ws : List Word), c.wellFormed = true → commandFrame c = some (l, ws) →
    frameCommand l .up 8 ws = some c

/-! ## Reset and restart -/

/-- RESET_N gives the reset state, and what is the world's own stays, which is the model's choice (log 1, log 2): the
commands to come, and how far the blocks are behind. In the reset state every window is FREE at generation 0
with no pending change and no holder, every slot is EMPTY and every pointer 0 with the recalled and regranted sets empty,
the Park List, the Change Table, the groups, the Frame Map and the tags are empty, every port is DOWN (LINK_LOST) in
context 0 with no tag, every FENCE_N line low, the Scrub Engine IDLE with nothing in it, the device UNCONFIGURED, the
outbox empty, the credit 0, NOTICE_N high and every link DOWN with its receive buffer empty and no credit outstanding. The
release of RESET_N makes the controller drive carrier and changes nothing else. -/
def Obligations.ResetGivesTheResetState : Prop :=
  (∀ s : State, exec .resetN s = .next { State.reset with behind := s.behind, pending := s.pending } ∧
      exec .resetNRelease s = .next { s with resetN := true, carrier := true, out := .nothing }) ∧
    (∀ w, State.reset.window w = { generation := 0, live := none, pending := none, holders := noneOf 8 }) ∧
    (∀ a, State.reset.table a =
      { slots := Vector.replicate 64 none, pointer := 0, recalled := [], regranted := [] }) ∧
    (∀ a, State.reset.port a = { state := .down, reason := .linkLost, context := 0, tags := noneOf 4 }) ∧
    State.reset.fenceN = noneOf 8 ∧ State.reset.park = [] ∧ (∀ e, State.reset.entry e = none) ∧
    (∀ g, State.reset.group g = { state := .free, members := [] }) ∧ State.reset.frames = [] ∧
    State.reset.scrub =
      { slots := Vector.replicate 16 .free, queue := [], engine := .idle, fills := Vector.replicate 4 none, seq := 0 } ∧
    State.reset.device = .unconfigured ∧ State.reset.tags = [] ∧ State.reset.outbox = [] ∧ State.reset.credit = 0 ∧
    State.reset.noticeN = true ∧ ∀ l, State.reset.link l = { state := .down, credits := 0, buffer := [] }

/-- RESTART taken on S in any device state: every block takes its reset state; each port that is not DOWN becomes
OUTSIDE (RESTART) and its agent gets FENCED (RESTART), a DOWN port keeps its state and reason; every context is 0 and
every tag set empty; every FENCE_N line is low; the notice credit, the fill sequence counter and the links with their
receive buffers and credits are kept; DONE is sent on S. -/
def Obligations.RestartResets : Prop :=
  ∀ (tag : BitVec 8) (s : State), s.receives .sup →
    (∀ a, (s.port a).state ≠ .down → s.isUp (.agent a) = true) →
    exec (.restart tag) s = .next
      { State.reset with
        ports := Vector.ofFn fun a =>
          if (s.port a).state = .down then
            { state := .down, reason := (s.port a).reason, context := 0, tags := noneOf 4 }
          else { state := .outside, reason := .restart, context := 0, tags := noneOf 4 }
        scrub := { Scrub.initial with seq := s.scrub.seq }
        credit := s.credit
        links := s.links
        resetN := s.resetN
        carrier := s.carrier
        behind := s.behind
        pending := s.pending
        out :=
          { Outputs.nothing with
            agents := Vector.ofFn fun a => if (s.port a).state = .down then [] else [.fenced .restart]
            sup := [.plainDone tag]
            creditReturns := [.sup] } }

/-! ## Links -/

/-- The training of a link. The partner's carrier detected on a DOWN link takes it to TRAINING and sends the parameter
word, once RESET_N is released; in every other case nothing changes. A parameter word in TRAINING with a correct CRC
and the partner's role brings the link UP with 8 credits and an empty receive buffer: port a becomes OUTSIDE (LINK_UP)
on link Aa; nothing further happens on S; on M nothing further while the engine is not RUNNING and has no ACTIVE job,
and a RUNNING engine sends the fills of the blocks its job has to send. Any other parameter word leaves the link in
TRAINING and sends the controller's own word again. The link number and the credit count are not read. -/
def Obligations.ParameterWordTrains : Prop :=
  ∀ (n : BitVec 4) (k : BitVec 8) (s : State),
    (∀ l : LinkId,
      (s.resetN = true → (s.link l).state = .down →
        exec (.carrierDetected l) s = .next
          { s.setLink l { s.link l with state := .training } with out := .trains l }) ∧
      (s.resetN = false ∨ (s.link l).state ≠ .down →
        exec (.carrierDetected l) s = .next { s with out := .nothing })) ∧
    (∀ (l : LinkId) (ok : Bool) (r : BitVec 4), (s.link l).state = .training → ok = false ∨ r ≠ roleOf l →
      exec (.parameterWord l ok r n k) s = .next { s with out := .trains l }) ∧
    (∀ a : AgentId, (s.link (.agent a)).state = .training →
      exec (.parameterWord (.agent a) true 0 n k) s = .next
        { (s.setLink (.agent a) { state := .up, credits := 8, buffer := [] }).setPort a
            { s.port a with state := .outside, reason := .linkUp } with out := .nothing }) ∧
    (s.links.sup.state = .training →
      exec (.parameterWord .sup true 1 n k) s = .next
        { s.setLink .sup { state := .up, credits := 8, buffer := [] } with out := .nothing }) ∧
    (s.links.mem.state = .training →
      (s.scrub.engine ≠ .running → s.active = none →
        exec (.parameterWord .mem true 2 n k) s = .next
          { s.setLink .mem { state := .up, credits := 8, buffer := [] } with out := .nothing }) ∧
      ∀ i j ps q, s.scrub.engine = .running → s.active = some (i, j) → s.Sends i j ps q →
        exec (.parameterWord .mem true 2 n k) s = .next
          ({ s.setLink .mem { state := .up, credits := 8, buffer := [] } with out := .nothing }.filling i j ps q))

/-- Every link error is alike: each cause, a parameter word on an UP link, and a message received on an UP link whose
partner has no credit in hand, have the effect of a CRC mismatch (log 18, log 20). -/
def Obligations.LinkErrorsAreAlike : Prop :=
  ∀ (l : LinkId) (s : State), s.isUp l = true →
    (∀ c, exec (.linkError l c) s = exec (.linkError l .crcMismatch) s) ∧
    (∀ ok r n k, exec (.parameterWord l ok r n k) s = exec (.linkError l .crcMismatch) s) ∧
    ∀ m, (commandMessage m).map Prod.fst = some l → (s.link l).credits = 0 →
      exec m s = exec (.linkError l .crcMismatch) s

/-- The loss of S, and of the link of an agent whose port is OUTSIDE or WAITING while the outbox delivers nothing: by a
link error to TRAINING with the parameter word sent, by loss of carrier to DOWN. Every message not yet taken is
discarded, and the count for the next exchange is 8 (the model's choice of when it is set, log 11). The loss of S makes
the notice credit 0; that of the agent's link makes the port DOWN (LINK_LOST), its context and tags kept, and a PORT
notice is posted. Nothing else changes. -/
def Obligations.LossOfALinkWithoutHoldings : Prop :=
  ∀ (c : LinkFault) (s : State),
    (s.isUp .sup = true →
      exec (.linkError .sup c) s = .next
        { s.setLink .sup { state := .training, credits := 8, buffer := [] } with credit := 0, out := .trains .sup } ∧
      exec (.carrierLost .sup) s = .next
        { s.setLink .sup { state := .down, credits := 8, buffer := [] } with credit := 0, out := .nothing }) ∧
    ∀ a : AgentId, s.isUp (.agent a) = true → ((s.port a).state = .outside ∨ (s.port a).state = .waiting) → s.mute →
      exec (.linkError (.agent a) c) s = .next
        { (s.setLink (.agent a) { state := .training, credits := 8, buffer := [] }).setPort a
            { s.port a with state := .down, reason := .linkLost } with
          outbox := portPosting s.outbox a .down .linkLost
          noticeN := false
          out := .trains (.agent a) } ∧
      exec (.carrierLost (.agent a)) s = .next
        { (s.setLink (.agent a) { state := .down, credits := 8, buffer := [] }).setPort a
            { s.port a with state := .down, reason := .linkLost } with
          outbox := portPosting s.outbox a .down .linkLost
          noticeN := false
          out := .nothing }

/-- M leaving UP, by a link error to TRAINING with the parameter word sent or by loss of carrier to DOWN, with the
engine not SUSPENDING and the ACTIVE job still holding a SCRUBBING frame: every completion not yet taken is discarded
and every fill in flight is forgotten, and the job's position goes back to the earliest of them in issue order; no
frame moves, and the tally, the engine state and the sequence counter are kept. The link's count is 8 from then on (the
model's choice, log 11). -/
def Obligations.LossOfTheMemoryLink : Prop :=
  ∀ (c : LinkFault) (s : State) (i : Fin 16) (j : Job), s.isUp .mem = true → s.active = some (i, j) →
    s.hasScrubbing i j = true → (∀ t, s.scrub.engine ≠ .suspending t) →
    ∀ rewound : Scrub,
      rewound =
        { s.scrub with
          slots := s.scrub.slots.set i (.active
            { j with
              position :=
                match s.earliestFill with
                | none => j.position
                | some f => some { second := !j.first.covers f.frame, frame := f.frame, block := f.block } })
          fills := Vector.replicate 4 none } →
      exec (.linkError .mem c) s = .next
        { s.setLink .mem { state := .training, credits := 8, buffer := [] } with
          scrub := rewound, out := .trains .mem } ∧
      exec (.carrierLost .mem) s = .next
        { s.setLink .mem { state := .down, credits := 8, buffer := [] } with scrub := rewound, out := .nothing }

/-- What is received without effect: a credit-return word in every link state; a message in TRAINING and a control word
of another code, stated in every link state and for any words (the model's choice, log 15); a link error on a link that
is not UP; a parameter word on a DOWN link (the model's choice, log 20) and a loss of carrier there. A loss of carrier
in TRAINING takes the link to DOWN. A completion with no fill in flight under its id, of another sequence, or of a
status that is neither OK nor ERROR is discarded; the expiry of a fill deadline with no fill in flight under its id has
no effect (the model's choice, log 5). -/
def Obligations.DisregardedWords : Prop :=
  ∀ (l : LinkId) (s : State),
    (∀ k, exec (.creditReturnWord l k) s = .next { s with out := .nothing }) ∧
    (∀ ws, exec (.messageInTraining l ws) s = .next { s with out := .nothing }) ∧
    (∀ w, exec (.otherControlCodeWord l w) s = .next { s with out := .nothing }) ∧
    (∀ c, s.isUp l = false → exec (.linkError l c) s = .next { s with out := .nothing }) ∧
    ((s.link l).state = .training →
      exec (.carrierLost l) s = .next { s.setLink l { s.link l with state := .down } with out := .nothing }) ∧
    ((s.link l).state = .down → exec (.carrierLost l) s = .next { s with out := .nothing }) ∧
    (∀ ok r n k, (s.link l).state = .down → exec (.parameterWord l ok r n k) s = .next { s with out := .nothing }) ∧
    ∀ (k : Fin 4) (status : BitVec 8) (seq : BitVec 16),
      (s.receives .mem → ((∀ f ∈ s.fill k, f.seq ≠ seq) ∨ status ≠ 1 ∧ status ≠ 2) →
        exec (.filled status (BitVec.ofNat 2 k) seq) s = .next { s with out := .onMem [] }) ∧
      (s.fill k = none → exec (.fillDeadlineExpiry k) s = .next { s with out := .nothing })

/-! ## Ports -/

/-- A PORT posting. While nothing can be delivered, a posting for an agent whose notice is not in the outbox joins the
tail with count 1, and one for an agent whose notice waits updates it in place, its count raised and stopping at 255;
NOTICE_N is low. With credit and S UP, a posting into an empty outbox leaves on S at once, the credit goes down by one
and NOTICE_N is high. -/
def Obligations.PortPostings : Prop :=
  ∀ (a : AgentId) (s : State),
    (s.mute → s.outbox.any (Notice.isPortOf a) = false →
      s.postPort a =
        { s with outbox := s.outbox ++ [.port a (s.port a).state (s.port a).reason 1], noticeN := false }) ∧
    (∀ (pre post : List Notice) (st : PortState) (r : PortReason) (n : Nat),
      s.mute → s.outbox = pre ++ .port a st r n :: post → (pre ++ post).any (Notice.isPortOf a) = false →
      s.postPort a =
        { s with
          outbox := pre ++ .port a (s.port a).state (s.port a).reason (min (n + 1) 255) :: post
          noticeN := false }) ∧
    (s.isUp .sup = true → 0 < s.credit → s.outbox = [] →
      s.postPort a =
        { s with
          credit := s.credit - 1
          noticeN := true
          out :=
            { s.out with sup := s.out.sup ++ [.notice (.port a (s.port a).state (s.port a).reason 1)] } })

/-- ADMIT of a WAITING port opens the gate, and FENCE of a port that is not ADMITTED: a WAITING port becomes OUTSIDE
(SUPERVISOR) with FENCED sent, an OUTSIDE or DOWN port is left as it is. Every one is answered DONE. ADMIT of a port
that is not WAITING is PORT_STATE, and an agent number over 7 is BAD_AGENT. -/
def Obligations.AdmitAndFence : Prop :=
  ∀ (tag : BitVec 8) (a : AgentId) (s : State), s.serves tag →
    (∀ n : BitVec 9, 8 ≤ n.toNat →
      exec (.admitAgent tag n) s = .next { s with out := .onSup [.refused 0x29 tag .badAgent] } ∧
      exec (.fence tag n) s = .next { s with out := .onSup [.refused 0x2A tag .badAgent] }) ∧
    ((s.port a).state = .waiting → s.isUp (.agent a) = true →
      exec (.admitAgent tag (BitVec.ofNat 9 a)) s = .next
        { s.setPort a { s.port a with state := .admitted, context := 0 } with
          fenceN := s.fenceN.set a true
          out :=
            { Outputs.onSup [.plainDone tag] with agents := Outputs.nothing.agents.set a [.admitted a 0] } } ∧
      exec (.fence tag (BitVec.ofNat 9 a)) s = .next
        { s.setPort a { s.port a with state := .outside, reason := .supervisor } with
          out :=
            { Outputs.onSup [.plainDone tag] with agents := Outputs.nothing.agents.set a [.fenced .supervisor] } }) ∧
    ((s.port a).state ≠ .waiting →
      exec (.admitAgent tag (BitVec.ofNat 9 a)) s = .next
        { s with out := .onSup [.refused 0x29 tag .portState] }) ∧
    ((s.port a).state = .outside ∨ (s.port a).state = .down →
      exec (.fence tag (BitVec.ofNat 9 a)) s = .next { s with out := .onSup [.plainDone tag] })

/-- JOIN while ADMITTED departs to WAITING (REJOIN), FENCE to OUTSIDE (SUPERVISOR), the loss of the link to DOWN
(LINK_LOST): each empties the port and spares every other, whatever changes it brings to their end. While every change
that awaits the agent awaits another one too, each such change has the agent in its lost set and out of its awaited
set, and every other change is as it was. (RESTART and the recall deadline, the other causes of R142, have statements
of their own.) -/
def Obligations.DeparturesEmptyThePort : Prop :=
  ∀ (a : AgentId) (s : State), (s.port a).state = .admitted →
    (∀ (c : Instr) (st : PortState) (r : PortReason),
      (c = .join a ∧ s.receives (.agent a) ∧ st = .waiting ∧ r = .rejoin ∨
        (∃ tag, c = .fence tag (BitVec.ofNat 9 a) ∧ s.serves tag) ∧ st = .outside ∧ r = .supervisor ∨
        (c = .carrierLost (.agent a) ∨ ∃ f, c = .linkError (.agent a) f) ∧ s.isUp (.agent a) = true ∧ st = .down ∧
          r = .linkLost) →
      ∃ t, exec c s = .next t ∧ Departed s t a st r ∧
        (s.outwaited a → s.ReleasesOnly t a true fun _ => True))

/-- The requests of an agent whose port is not ADMITTED. LOOKUP, RETURN, FLUSH and SWITCH are refused NOT_ADMITTED
whatever their fields hold, RELEASED is discarded, and nothing changes. JOIN in OUTSIDE makes the port WAITING with its
reason kept and posts a PORT notice; in WAITING it is disregarded. Nothing is sent to the agent for it. -/
def Obligations.NotAdmittedRequests : Prop :=
  ∀ (a : AgentId) (tag : BitVec 8) (w g : BitVec 16) (r : BitVec 2) (n : BitVec 9) (s : State),
    s.receives (.agent a) → (s.port a).state ≠ .admitted →
    exec (.lookup a tag w r) s = .next { s with out := .onAgent a [.refuse 0x01 tag .notAdmitted w] } ∧
    exec (.returnSlot a tag n) s = .next { s with out := .onAgent a [.refuse 0x03 tag .notAdmitted 0] } ∧
    exec (.flush a tag) s = .next { s with out := .onAgent a [.refuse 0x04 tag .notAdmitted 0] } ∧
    exec (.switch a tag n) s = .next { s with out := .onAgent a [.refuse 0x05 tag .notAdmitted 0] } ∧
    exec (.released a w g) s = .next { s with out := .onAgent a [] } ∧
    ((s.port a).state = .outside →
      exec (.join a) s = .next
        ({ s.setPort a { s.port a with state := .waiting } with out := .onAgent a [] }.postPort a)) ∧
    ((s.port a).state = .waiting → exec (.join a) s = .next { s with out := .onAgent a [] })

/-! ## Lookups -/

/-- A well-formed LOOKUP for a LIVE window IN_RECALL: while the Park List holds fewer than 16 entries it joins the tail
and its tag is in use, and nothing is sent; with 16 entries it is answered REFUSE (BUSY), and the list, the tags and the
slot table are left as they were. -/
def Obligations.LookupsPark : Prop :=
  ∀ (a : AgentId) (t : Fin 4) (w : BitVec 16) (r : Rights) (s : State), s.hears a → w.toNat < 4096 → r ≠ .none →
    (s.port a).tags[t] = false → (s.window w.toNat).live ≠ none → s.condition w.toNat = .inRecall →
    (s.park.length < 16 →
      exec (.lookup a (BitVec.ofNat 8 t) w r.code) s = .next
        { s.setPort a { s.port a with tags := (s.port a).tags.set t true } with
          park := s.park ++ [{ agent := a, tag := t, window := w.toNat, rights := r }]
          out := .onAgent a [] }) ∧
    (16 ≤ s.park.length →
      exec (.lookup a (BitVec.ofNat 8 t) w r.code) s = .next
        { s with out := .onAgent a [.refuse 0x01 (BitVec.ofNat 8 t) .busy w] })

/-- The refusals of a LOOKUP on an ADMITTED port, in the order of its checks; each leaves everything as it was. -/
def Obligations.LookupRefusals : Prop :=
  ∀ (a : AgentId) (tag : BitVec 8) (w : BitVec 16) (c : BitVec 2) (s : State), s.hears a →
    (∀ t : Fin 4, tag = BitVec.ofNat 8 t → (s.port a).tags[t] = true →
      exec (.lookup a tag w c) s = .next { s with out := .onAgent a [.refuse 0x01 tag .tagInUse w] }) ∧
    ((∀ t : Fin 4, tag = BitVec.ofNat 8 t → (s.port a).tags[t] = false) →
      (4 ≤ tag.toNat ∨ 4096 ≤ w.toNat ∨ c = 0 ∨ c = 3 →
        exec (.lookup a tag w c) s = .next { s with out := .onAgent a [.refuse 0x01 tag .malformed w] }) ∧
      (tag.toNat < 4 → w.toNat < 4096 → c = 1 ∨ c = 2 →
        ((s.window w.toNat).live = none →
          exec (.lookup a tag w c) s = .next { s with out := .onAgent a [.refuse 0x01 tag .noWindow w] }) ∧
        ∀ l ∈ (s.window w.toNat).live, s.condition w.toNat ≠ .inRecall →
          (l.cls.allows a (s.port a).context = false ∨ c = 2 ∧ l.rights[a] ≠ .readWrite ∨ l.rights[a] = .none) →
          exec (.lookup a tag w c) s = .next { s with out := .onAgent a [.refuse 0x01 tag .denied w] }))

/-- A granted LOOKUP of an agent that holds nothing for the window: the slot taken is the first EMPTY one from the pointer
upward, wrapping past 63; it becomes HELD with the rights asked, the pointer moves past it, the agent enters the holder
set, and the answer is a GRANT with the record's values and no evicted window. -/
def Obligations.LookupsInstall : Prop :=
  ∀ (a : AgentId) (t : Fin 4) (w : BitVec 16) (r : Rights) (l : LiveFields) (k i : Fin 64) (s : State),
    s.hears a → w.toNat < 4096 → r ≠ .none → (s.port a).tags[t] = false → s.grants a w.toNat r l →
    (∀ j, ∀ h ∈ s.held a j, h.window ≠ w.toNat) →
    i = (s.table a).pointer + k → s.held a i = none → (∀ n < k, s.held a ((s.table a).pointer + n) ≠ none) →
    exec (.lookup a (BitVec.ofNat 8 t) w r.code) s = .next
      { (s.setTable a
          { s.table a with
            slots := (s.table a).slots.set i (some { window := w.toNat, rights := r, cls := l.cls.name })
            pointer := i + 1
            regranted := (s.table a).regrantedBy w.toNat }).setWindow w.toNat
          { s.window w.toNat with holders := (s.window w.toNat).holders.set a true } with
        out := .onAgent a
          [.grant t i w.toNat (s.window w.toNat).generation l.cls.name l.run r none] }

/-- A granted LOOKUP of an agent that holds the window: the holding stays in its slot and is refreshed, or upgraded
when it holds READ and READWRITE is asked; the pointer moves past the slot only if it stands on it; the holder set is
unchanged, and the GRANT carries the rights held. -/
def Obligations.LookupsRefresh : Prop :=
  ∀ (a : AgentId) (t : Fin 4) (w : BitVec 16) (r : Rights) (l : LiveFields) (i : Fin 64) (h : Holding) (s : State),
    s.hears a → w.toNat < 4096 → r ≠ .none → (s.port a).tags[t] = false → s.grants a w.toNat r l →
    s.held a i = some h → h.window = w.toNat → (∀ j, ∀ k ∈ s.held a j, k.window = w.toNat → j = i) →
    h.rights ≠ .none →
    exec (.lookup a (BitVec.ofNat 8 t) w r.code) s = .next
      { s.setTable a
          { s.table a with
            slots := (s.table a).slots.set i
              (some { h with rights := if r = .readWrite then .readWrite else h.rights })
            pointer := if (s.table a).pointer = i then i + 1 else (s.table a).pointer
            regranted := (s.table a).regrantedBy w.toNat } with
        out := .onAgent a
          [.grant t i w.toNat (s.window w.toNat).generation l.cls.name l.run
            (if r = .readWrite then .readWrite else h.rights) none] }

/-- A granted LOOKUP of an agent with 64 HELD slots, none for the window: the holding at the pointer is evicted, the agent
leaves its window's holder set and enters the new one's, and the GRANT names the evicted window. No change awaits the
agent. -/
def Obligations.LookupsEvict : Prop :=
  ∀ (a : AgentId) (t : Fin 4) (w : BitVec 16) (r : Rights) (l : LiveFields) (h : Holding) (s : State),
    s.hears a → w.toNat < 4096 → r ≠ .none → (s.port a).tags[t] = false → s.grants a w.toNat r l →
    (∀ i, s.held a i ≠ none) → (∀ i, ∀ k ∈ s.held a i, k.window ≠ w.toNat) →
    s.held a (s.table a).pointer = some h → s.unawaited a →
    exec (.lookup a (BitVec.ofNat 8 t) w r.code) s = .next
      { ((s.setTable a
          { s.table a with
            slots := (s.table a).slots.set (s.table a).pointer
              (some { window := w.toNat, rights := r, cls := l.cls.name })
            pointer := (s.table a).pointer + 1
            regranted := (s.table a).regrantedBy w.toNat }).setWindow h.window
          { s.window h.window with holders := (s.window h.window).holders.set a false }).setWindow w.toNat
          { s.window w.toNat with holders := (s.window w.toNat).holders.set a true } with
        out := .onAgent a
          [.grant t (s.table a).pointer w.toNat (s.window w.toNat).generation l.cls.name l.run r
            (some h.window)] }

/-! ## Slots -/

/-- RETURN of an ADMITTED agent that no change awaits: a HELD slot becomes EMPTY with the pointer kept and the agent
leaves the holder set; an EMPTY one stays; RETURNED says whether the slot was HELD. A slot over 63 is refused
MALFORMED. -/
def Obligations.ReturnEmptiesASlot : Prop :=
  ∀ (a : AgentId) (tag : BitVec 8) (s : State), s.hears a →
    (∀ i : Fin 64, ∀ h ∈ s.held a i, s.unawaited a →
      exec (.returnSlot a tag (BitVec.ofNat 9 i)) s = .next
        { (s.setTable a { s.table a with slots := (s.table a).slots.set i none }).setWindow h.window
            { s.window h.window with holders := (s.window h.window).holders.set a false } with
          out := .onAgent a [.returned i true] }) ∧
    (∀ i : Fin 64, s.held a i = none →
      exec (.returnSlot a tag (BitVec.ofNat 9 i)) s = .next { s with out := .onAgent a [.returned i false] }) ∧
    ∀ n : BitVec 9, 64 ≤ n.toNat →
      exec (.returnSlot a tag n) s = .next { s with out := .onAgent a [.refuse 0x03 tag .malformed 0] }

/-- FLUSH of an ADMITTED agent that no change awaits: every slot EMPTY, the pointer 0, the agent in no holder set of a
window it held, and FLUSHED sent; its parked lookups, its context and the recalled and regranted sets stay. -/
def Obligations.FlushEmptiesTheTable : Prop :=
  ∀ (a : AgentId) (tag : BitVec 8) (s : State), s.hears a → s.unawaited a →
    ∃ t, exec (.flush a tag) s = .next t ∧
      t = { s.setTable a { s.table a with slots := Vector.replicate 64 none, pointer := 0 } with
            windows := t.windows
            out := .onAgent a [.flushed] } ∧
      ∀ w, t.window w =
        if ∃ i, ∃ h ∈ s.held a i, h.window = w then
          { s.window w with holders := (s.window w).holders.set a false }
        else s.window w

/-- SWITCH of an ADMITTED agent that no change awaits: every BOUND holding is dropped and counted in SWITCHED, every
SHARED one and the pointer stay, and the context is stored. A context over 15 is refused MALFORMED. -/
def Obligations.SwitchDropsBound : Prop :=
  ∀ (a : AgentId) (tag : BitVec 8) (s : State), s.hears a →
    (∀ c : Fin 16, s.unawaited a →
      ∃ t, exec (.switch a tag (BitVec.ofNat 9 c)) s = .next t ∧
        t = { (s.setTable a
                { s.table a with
                  slots := Vector.ofFn fun i => (s.held a i).filter fun h => h.cls == .shared }).setPort a
                { s.port a with context := c } with
              windows := t.windows
              out := .onAgent a
                [.switched c ((List.finRange 64).countP fun i => (s.held a i).any fun h => h.cls == .bound)] } ∧
        ∀ w, t.window w =
          if ∃ i, ∃ h ∈ s.held a i, h.window = w ∧ h.cls = .bound then
            { s.window w with holders := (s.window w).holders.set a false }
          else s.window w) ∧
    ∀ n : BitVec 9, 16 ≤ n.toNat →
      exec (.switch a tag n) s = .next { s with out := .onAgent a [.refuse 0x05 tag .malformed 0] }

/-- RELEASED on an ADMITTED port. It is counted when a slot names the window, the generation is the record's and the
window is not in the regranted set: the slot becomes EMPTY, and, no change awaiting the agent, that is all. Otherwise
it is stale. In both cases the window leaves the recalled and regranted sets, and nothing is answered. -/
def Obligations.ReleasedIsCountedOrStale : Prop :=
  ∀ (a : AgentId) (w g : BitVec 16) (s : State), s.hears a →
    (∀ (i : Fin 64), ∀ h ∈ s.held a i, h.window = w.toNat → (∀ j, ∀ k ∈ s.held a j, k.window = w.toNat → j = i) →
      w.toNat < 4096 → g = (s.window w.toNat).generation → w.toNat ∉ (s.table a).regranted → s.unawaited a →
      exec (.released a w g) s = .next
        { (s.setTable a
            { s.table a with
              slots := (s.table a).slots.set i none
              recalled := natErase (s.table a).recalled w.toNat
              regranted := natErase (s.table a).regranted w.toNat }).setWindow w.toNat
            { s.window w.toNat with holders := (s.window w.toNat).holders.set a false } with
          out := .onAgent a [] }) ∧
    ((∀ i, ∀ h ∈ s.held a i, h.window ≠ w.toNat) ∨ 4096 ≤ w.toNat ∨ g ≠ (s.window w.toNat).generation ∨
        w.toNat ∈ (s.table a).regranted →
      exec (.released a w g) s = .next
        { s.setTable a
            { s.table a with
              recalled := natErase (s.table a).recalled w.toNat
              regranted := natErase (s.table a).regranted w.toNat } with
          out := .onAgent a [] })

/-- A request of agent a removes one holding, whose window's change awaits a and another agent: by RETURN, a counted
RELEASED, FLUSH, SWITCH or an eviction. The agent leaves the awaited set, the lost set stays, and the change goes on
waiting. FLUSH and SWITCH of any number of holdings release every change that waited for one of them and leave every other
as it was, while each of those awaits another agent too. -/
def Obligations.ARemovalIsARelease : Prop :=
  (∀ (a b : AgentId) (i : Fin 64) (h : Holding) (e : Fin 16) (x : Entry) (c : Instr) (s u : State),
    s.hears a → s.held a i = some h → (s.window h.window).pending = some e → s.entry e = some x → x.state ≠ .held →
    x.awaited[a] = true → b ≠ a → x.awaited[b] = true → s.GivesBack a i h e x c u → exec c s = .next u) ∧
  ∀ (a : AgentId) (tag : BitVec 8) (n : Fin 16) (s : State), s.hears a → s.outwaited a →
    (∃ t, exec (.flush a tag) s = .next t ∧ s.ReleasesOnly t a false fun _ => True) ∧
    ∃ t, exec (.switch a tag (BitVec.ofNat 9 n)) s = .next t ∧ s.ReleasesOnly t a false fun h => h.cls = .bound

/-- A request of agent a removes the last holding that a change awaits, by RETURN, a counted RELEASED, FLUSH, SWITCH or
an eviction, no other change awaiting a. A standalone change applies in that action: its record and frames, its job,
its entry and tag, its DONE with the lost set, and then the re-take of its window's parked lookups. A group member
becomes READY while another member is not; when every other member is READY, the group applies: its members in member
order, each with its re-take, then the DONE of the commit with the union of the lost sets, and the group is FREE. That
a GRANT which evicts leaves before the answers of the re-take on the same agent's link is the model's choice, DEDUCED
and no rule of the spec (log 6); for the replies to RETURN, FLUSH and SWITCH the spec gives that order (R35). An
application that starts a job on an IDLE Scrub Engine is left out here: an entry that queues one finds the engine not
IDLE. -/
def Obligations.TheLastReleaseApplies : Prop :=
  ∀ (a : AgentId) (i : Fin 64) (h : Holding) (e : Fin 16) (x : Entry) (c : Instr) (s u : State),
    s.hears a → s.parkSound → s.held a i = some h → (s.window h.window).pending = some e → s.entry e = some x →
    x.window = h.window → x.state = .recalling → (∀ b, x.awaited[b] = decide (b = a)) →
    (∀ d, d ≠ e → ∀ y ∈ s.entry d, y.awaited[a] = false) → s.GivesBack a i h e x c u →
    (x.group = none → ∀ l, u.Applicable e (x.released a false) l →
      ∃ v, exec c s = .next (v.retaken x.window) ∧ u.Applies v e (x.released a false) l) ∧
    ∀ g, x.group = some g → e ∈ (s.group g).members →
      ((∃ d ∈ (s.group g).members, d ≠ e ∧ ∀ y ∈ s.entry d, y.state ≠ .ready) →
        exec c s = .next (u.setEntry e (some { x.released a false with state := .ready }))) ∧
      ∀ t, (s.group g).state = .recalling t → GroupLaw s → PendingLaw s → (s.group g).members.Nodup →
        (∀ d ∈ (s.group g).members, ∃ y ∈ s.entry d, (d = e ∨ y.state = .ready ∧ y.awaited = noneOf 8) ∧
          ∃ l, u.Applicable d (if d = e then x.released a false else y) l) →
        ∃ v : State,
          State.AppliesAll (s.group g).members
            (u.setEntry e (some { x.released a false with state := .ready })) v ∧
          exec c s = .next
            { v.setGroup g { state := .free, members := [] } with
              tags := natErase v.tags t.toNat
              out :=
                { v.out with
                  sup := v.out.sup ++
                    [.done t .applied none
                      (Vector.ofFn fun b => (s.group g).members.any fun d => (s.entry d).any fun y => y.lost[b])
                      none none] } }

/-! ## The supervisor's requests -/

/-- An accepted CREATE of a FREE window number over FREE frames: the record is LIVE with its generation raised and its
rights entries in the form its class stores them, its pending change and holder set as they stand (log 16), the frames
of the run are BOUND to it, and DONE carries the new generation. The binding is read only for a BOUND window. The first
check that fails decides the refusal: BAD_VALUE for the window, the class or a rights entry; BAD_AGENT, then BAD_VALUE,
for the binding of a BOUND window; BAD_VALUE for the base frame; BAD_RANGE for the run; WINDOW_IN_USE; FRAMES_BUSY. -/
def Obligations.CreateMakesAWindow : Prop :=
  (∀ (tag : BitVec 8) (w bits : BitVec 16) (scrub : Bool) (base count : Word) (r : RightsSet) (s : State),
    s.serves tag → w.toNat < 4096 → rightsNamed bits r → base.toNat < 65536 → 1 ≤ count.toNat → count.toNat ≤ 4096 →
    base.toNat + count.toNat ≤ s.frameCount → (s.window w.toNat).live = none →
    (∀ f, Run.has ⟨base.toNat, count.toNat⟩ f → s.frame f = .free) →
    ∀ (c : WindowClass) (code agent context : BitVec 8),
      (c = .shared ∧ code = 0 ∨
        ∃ (b : AgentId) (d : Fin 16),
          c = .bound b d ∧ code = 1 ∧ agent = BitVec.ofNat 8 b ∧ context = BitVec.ofNat 8 d) →
      ∃ t, exec (.create tag w code scrub agent context bits base count) s = .next t ∧
        t = { s.setWindow w.toNat
                { s.window w.toNat with
                  generation := (s.window w.toNat).generation + 1
                  live := some
                    { cls := c, run := ⟨base.toNat, count.toNat⟩, rights := c.entries r, scrub := scrub } } with
              frames := t.frames
              out := .onSup
                [.done tag .applied (some ((s.window w.toNat).generation + 1)) (noneOf 8) none none] } ∧
        s.framesSet t ⟨base.toNat, count.toNat⟩ (.bound w.toNat)) ∧
  ∀ (tag : BitVec 8) (w bits : BitVec 16) (scrub : Bool) (base count : Word) (code agent context : BitVec 8)
    (s : State), s.serves tag →
    let refused (r : Reason) : Prop :=
      exec (.create tag w code scrub agent context bits base count) s = .next
        { s with out := .onSup [.refused 0x22 tag r] }
    let fields : Prop := w.toNat < 4096 ∧ code.toNat ≤ 1 ∧ ∃ r, rightsNamed bits r
    let binding : Prop := code = 1 → agent.toNat < 8 ∧ context.toNat < 16
    let range : Prop := 1 ≤ count.toNat ∧ count.toNat ≤ 4096 ∧ base.toNat + count.toNat ≤ s.frameCount
    (¬fields → refused .badValue) ∧
    (fields → code = 1 → 8 ≤ agent.toNat → refused .badAgent) ∧
    (fields → code = 1 → agent.toNat < 8 → 16 ≤ context.toNat → refused .badValue) ∧
    (fields → binding → 65536 ≤ base.toNat → refused .badValue) ∧
    (fields → binding → base.toNat < 65536 → ¬range → refused .badRange) ∧
    (fields → binding → base.toNat < 65536 → range →
      ((s.window w.toNat).live ≠ none → refused .windowInUse) ∧
      ((s.window w.toNat).live = none → (∃ f, Run.has ⟨base.toNat, count.toNat⟩ f ∧ s.frame f ≠ .free) →
        refused .framesBusy))

/-- The four queries change nothing and report the state as it stands: a window's record with its condition and, for a
window with a pending change, the entry's fields, the awaited set present unless the entry is HELD; an agent's port,
HELD slots and parked lookups, in either device state; 1 to 64 frames; the Scrub Engine in two parts, with each slot's
record as table 7-7 gives it. A window over 4095 is BAD_VALUE, an agent over 7 BAD_AGENT, a base frame over 65535
BAD_VALUE, and a frame count of 0 or over 64 or a run beyond the configured frames BAD_RANGE. -/
def Obligations.QueriesReport : Prop :=
  ∀ (tag : BitVec 8) (s : State),
    (s.serves tag → ∀ w : BitVec 16, w.toNat < 4096 →
      ∃ p, exec (.queryWindow tag w) s = .next
          { s with
            out := .onSup
              [.report tag 0 true (.window
                { window := w.toNat, generation := (s.window w.toNat).generation
                  live := (s.window w.toNat).live, condition := s.condition w.toNat
                  holders := (s.window w.toNat).holders, pending := p })] } ∧
        ((s.window w.toNat).pending = none → p = none) ∧
        ∀ e x, (s.window w.toNat).pending = some e → s.entry e = some x →
          p = some
            { entry := e, retire := decide (x.kind = .retire), tag := x.tag, group := x.group
              awaited := if x.state = .held then none else some x.awaited }) ∧
    (s.receives .sup → s.tagInUse tag = false → ∀ a : AgentId,
      exec (.queryAgent tag (BitVec.ofNat 9 a)) s = .next
        { s with
          out := .onSup
            [.report tag 0 true (.agent
              { agent := a, state := (s.port a).state, reason := (s.port a).reason, context := (s.port a).context
                pointer := (s.table a).pointer
                held := (List.finRange 64).filterMap fun i => (s.held a i).map fun h => (i, h)
                parked := (s.park.filter fun p => decide (p.agent = a)).map fun p => (p.tag, p.window, p.rights) })] }) ∧
    (s.serves tag → ∀ base count : Word, base.toNat < 65536 → 1 ≤ count.toNat → count.toNat ≤ 64 →
      base.toNat + count.toNat ≤ s.frameCount →
      exec (.queryFrames tag base count) s = .next
        { s with
          out := .onSup
            [.report tag 0 true (.frames
              { base := base.toNat, count := count.toNat, configured := s.frameCount
                frames := (List.range count.toNat).map fun i => s.frame (base.toNat + i) })] }) ∧
    (∀ w : BitVec 16, s.serves tag → 4096 ≤ w.toNat →
      exec (.queryWindow tag w) s = .next { s with out := .onSup [.refused 0x2E tag .badValue] }) ∧
    (∀ n : BitVec 9, s.receives .sup → s.tagInUse tag = false → 8 ≤ n.toNat →
      exec (.queryAgent tag n) s = .next { s with out := .onSup [.refused 0x2F tag .badAgent] }) ∧
    (∀ base count : Word, s.serves tag →
      (65536 ≤ base.toNat →
        exec (.queryFrames tag base count) s = .next { s with out := .onSup [.refused 0x30 tag .badValue] }) ∧
      (base.toNat < 65536 →
        count.toNat < 1 ∨ 64 < count.toNat ∨ s.frameCount < base.toNat + count.toNat →
        exec (.queryFrames tag base count) s = .next { s with out := .onSup [.refused 0x30 tag .badRange] })) ∧
    (s.serves tag → ∀ record : ScrubSlot → SlotReport,
      (record .free = .free ∧ (∀ e, record (.reserved e) = .reserved e) ∧
        ∀ j,
          record (.queued j) = .queued j.origin j.first j.second j.freed j.quarantined ∧
          record (.active j) = .active j.origin j.first j.second j.freed j.quarantined j.position ∧
          record (.ended j) = .ended j.origin j.first j.second j.freed j.quarantined) →
      exec (.queryScrub tag) s = .next
        { s with
          out := .onSup
            [.report tag 0 false (.scrubLow
                { engine := s.scrub.engine, queue := s.scrub.queue
                  fills := (List.finRange 4).filterMap fun k => (s.fill k).map fun f => (k, f.frame, f.block) }
                ([s.slot 0, s.slot 1, s.slot 2, s.slot 3, s.slot 4, s.slot 5, s.slot 6, s.slot 7].map record)),
              .report tag 1 true (.scrubHigh
                ([s.slot 8, s.slot 9, s.slot 10, s.slot 11, s.slot 12, s.slot 13, s.slot 14, s.slot 15].map record))] })

/-- A command answered REFUSED leaves everything as it was, sends nothing else, and its REFUSED carries the kind and the
tag of the request: for every message of S, and for every command while each receive buffer holds messages of its own
link only, as the law of ports and links has it. -/
def Obligations.RefusalsChangeNothing : Prop :=
  ∀ (c : Instr) (k tag : BitVec 8) (r : Reason) (s t : State), s.receives .sup →
    PortLaw s ∨ (commandMessage c).map Prod.fst = some .sup → exec c s = .next t →
    .refused k tag r ∈ t.out.sup →
    t = { s with out := .onSup [.refused k tag r] } ∧
      ∃ subject body, commandMessage c = some (.sup, k, tag, subject, body)

/-- The checks before a block's own. A message that fails the format check changes no state: on an agent link it is
refused REFUSE (MALFORMED) with its kind and tag, and with the window of a LOOKUP whose body holds one; on S it is
refused REFUSED (MALFORMED); on M it is discarded. Of a supervisor request of a known kind and length: while the device
is UNCONFIGURED a kind other than CONFIGURE, QUERY_AGENT, NOTICE_CREDIT and RESTART is refused NOT_CONFIGURED; then,
but for RESTART, a tag in use is refused TAG_IN_USE. -/
def Obligations.CommonChecks : Prop :=
  (∀ (kind tag : BitVec 8) (body : List Word) (s : State),
    (∀ a : AgentId, s.receives (.agent a) →
      exec (.unknownKindMessage (.agent a) kind tag body) s = .next
        { s with
          out := .onAgent a
            [.refuse kind tag .malformed
              (match body with
                | w :: _ => if kind = 0x01#8 then w.extractLsb' 16 16 else 0
                | [] => 0)] }) ∧
    (s.receives .sup →
      exec (.unknownKindMessage .sup kind tag body) s = .next { s with out := .onSup [.refused kind tag .malformed] }) ∧
    (s.receives .mem → exec (.unknownKindMessage .mem kind tag body) s = .next { s with out := .onMem [] })) ∧
  ∀ (c : Instr) (kind tag : BitVec 8) (subject : BitVec 9) (body : List Word) (s : State),
    commandMessage c = some (.sup, kind, tag, subject, body) → c.wellFormed = true →
    bodyWords .sup kind = some body.length → s.receives .sup →
    (s.device = .unconfigured → kind ∉ [0x21#8, 0x2F#8, 0x32#8, 0x33#8] →
      exec c s = .next { s with out := .onSup [.refused kind tag .notConfigured] }) ∧
    (s.device ≠ .unconfigured ∨ kind ∈ [0x21#8, 0x2F#8, 0x32#8] → kind ≠ 0x33#8 → s.tagInUse tag = true →
      exec c s = .next { s with out := .onSup [.refused kind tag .tagInUse] })

/-! ## Changes -/

/-- A standalone CHANGE, with or without a new run, that affects no holding applies in the action of its acceptance,
while the Scrub Engine is not IDLE or no frame is scrubbed: the FREE frames of a new run are RESERVED and at once
BOUND, the frames it leaves are FREE, or SCRUBBING in the lowest FREE slot with their one or two runs as its job; the
record takes the values that the request carries, its generation goes up, and the one reply is DONE; then the window's
lookups are re-taken. -/
def Obligations.ChangeAppliesAtOnce : Prop :=
  ∀ (c : Instr) (tag : BitVec 8) (w : BitVec 16) (r : Option RightsSet) (n : Option Run) (scrub : Option Bool)
    (l : LiveFields) (e : Fin 16) (slot : Option (Fin 16)) (s : State),
    s.serves tag → s.parkSound → SparseWf .free s.frames → w.toNat < 4096 → s.asks c tag w none (.change r n scrub) →
    s.Admits w.toNat (.change r n scrub) l e slot → (s.scrub.engine ≠ .idle ∨ slot = none) →
    (∀ a i, ∀ h ∈ s.held a i, h.window = w.toNat → ¬ChangeKind.hits (.change r n scrub) l a h.rights) →
    ∃ u t, { s with out := .onSup [] }.Accepts u e (.fresh tag w.toNat (.change r n scrub) none slot) ∧
      u.Applies t e (.fresh tag w.toNat (.change r n scrub) none slot) l ∧ exec c s = .next (t.retaken w.toNat)

/-- A standalone CHANGE or RETIRE that affects holdings starts its recall in the action of its acceptance, the FREE
frames of a new run RESERVED and a scrub slot RESERVED where it will release frames of a window with its flag set. The
first check that fails decides a refusal: BAD_VALUE for the window, the group or a rights entry; BAD_VALUE for the new
base, BAD_RANGE for the new run; NO_WINDOW; WINDOW_BUSY; and, with no group named or one that is OPEN and has room,
CHANGE_FULL, FRAMES_BUSY, SCRUB_FULL. -/
def Obligations.RecallStarts : Prop :=
  (∀ (c : Instr) (tag : BitVec 8) (w : BitVec 16) (k : ChangeKind) (l : LiveFields) (e : Fin 16)
    (slot : Option (Fin 16)) (agents : FinSet 8) (held : AgentId → Fin 64) (s : State),
    s.serves tag → w.toNat < 4096 → s.asks c tag w none k → s.Admits w.toNat k l e slot →
    (∃ a : AgentId, agents[a] = true) → (∀ a : AgentId, agents[a] = true → s.isUp (.agent a) = true) →
    s.Affected w.toNat agents held (k.hits l) →
    ∃ u, { s with out := .onSup [] }.Accepts u e (.fresh tag w.toNat k none slot) ∧
      exec c s = .next (u.recalls e (.fresh tag w.toNat k none slot) agents held)) ∧
  ∀ (tag : BitVec 8) (w : BitVec 16) (group : Option (BitVec 8)) (s : State), s.serves tag →
    let refused (c : Instr) (k : BitVec 8) (r : Reason) : Prop :=
      exec c s = .next { s with out := .onSup [.refused k tag r] }
    (∀ (bits : Option (BitVec 16)) (run : Option (Word × Word)) (scrub : Option Bool),
      let fields : Prop := w.toNat < 4096 ∧ (∀ g ∈ group, g.toNat < 4) ∧ ∀ b ∈ bits, ∃ r, rightsNamed b r
      (¬fields → refused (.change tag w group bits run scrub) 0x23 .badValue) ∧
      (fields → ∀ base count, run = some (base, count) →
        (65536 ≤ base.toNat → refused (.change tag w group bits run scrub) 0x23 .badValue) ∧
        (base.toNat < 65536 →
          (count.toNat < 1 ∨ 4096 < count.toNat ∨ s.frameCount < base.toNat + count.toNat) →
          refused (.change tag w group bits run scrub) 0x23 .badRange))) ∧
    (4096 ≤ w.toNat ∨ (∃ g ∈ group, 4 ≤ g.toNat) → refused (.retire tag w group) 0x24 .badValue) ∧
    ∀ (c : Instr) (k : ChangeKind), w.toNat < 4096 → (∀ g ∈ group, g.toNat < 4) → s.asks c tag w group k →
      ((s.window w.toNat).live = none → refused c k.code .noWindow) ∧
      ∀ l ∈ (s.window w.toNat).live,
        ((s.window w.toNat).pending ≠ none → refused c k.code .windowBusy) ∧
        ((s.window w.toNat).pending = none →
          (∀ g : Fin 4, group = some (BitVec.ofNat 8 g) →
            (s.group g).state = .opened ∧ (s.group g).members.length < 8) →
          ((∀ e, s.entry e ≠ none) → refused c k.code .changeFull) ∧
          ((∃ e, s.entry e = none) →
            ((∃ r ∈ k.newRun, ∃ f, r.has f ∧ s.frame f ≠ .free ∧ s.frame f ≠ .bound w.toNat) →
              refused c k.code .framesBusy) ∧
            ((∀ r ∈ k.newRun, ∀ f, r.has f → s.frame f = .free ∨ s.frame f = .bound w.toNat) →
              l.scrub = true → k.leaves l ≠ [] → (∀ i, s.slot i ≠ .free) → refused c k.code .scrubFull)))

/-- A RETIRE of a window that no agent holds applies at once: the record is FREE with its generation raised, DONE is
sent, and the window's lookups are re-taken. With the scrub flag clear the frames of its run are FREE. With the flag
set they are SCRUBBING in the lowest FREE scrub slot, and DONE names the slot: with the engine not IDLE the slot's job
joins the tail of the queue; with the engine IDLE it is ACTIVE, the engine is RUNNING, and its first fills are sent
while M is UP. -/
def Obligations.RetireAppliesAtOnce : Prop :=
  ∀ (tag : BitVec 8) (w : BitVec 16) (l : LiveFields) (e : Fin 16) (s : State),
    s.serves tag → s.parkSound → w.toNat < 4096 → (s.window w.toNat).live = some l →
    (s.window w.toNat).pending = none → s.nextEntry e → (∀ a i, ∀ h ∈ s.held a i, h.window ≠ w.toNat) →
    (l.scrub = false →
      ∃ t, exec (.retire tag w none) s = .next (t.retaken w.toNat) ∧
        t = { s.setWindow w.toNat
                { s.window w.toNat with generation := (s.window w.toNat).generation + 1, live := none } with
              frames := t.frames
              out := .onSup
                [.done tag .applied (some ((s.window w.toNat).generation + 1)) (noneOf 8) none none] } ∧
        s.framesSet t l.run .free) ∧
    (l.scrub = true → ∀ i, s.nextSlot i →
      ∃ t : State, s.framesSet t l.run (.scrubbing i) ∧
        t = { s.setWindow w.toNat
                { s.window w.toNat with generation := (s.window w.toNat).generation + 1, live := none } with
              frames := t.frames
              scrub := t.scrub
              out := .onSup
                [.done tag .applied (some ((s.window w.toNat).generation + 1)) (noneOf 8) (some i) none] } ∧
        (s.scrub.engine ≠ .idle →
          t.scrub =
            { s.scrub with
              slots := s.scrub.slots.set i (.queued (Job.start (.window w.toNat) l.run))
              queue := s.scrub.queue ++ [i] } ∧
          exec (.retire tag w none) s = .next (t.retaken w.toNat)) ∧
        (s.scrub.engine = .idle → s.active = none → s.scrub.queue = [] → 1 ≤ l.run.count →
          t.scrub =
            { s.scrub with
              slots := s.scrub.slots.set i (.active (Job.start (.window w.toNat) l.run)), engine := .running } ∧
          (s.isUp .mem = false → exec (.retire tag w none) s = .next (t.retaken w.toNat)) ∧
          (s.isUp .mem = true → ∀ ps q, t.Sends i (Job.start (.window w.toNat) l.run) ps q →
            exec (.retire tag w none) s = .next
              ((t.filling i (Job.start (.window w.toNat) l.run) ps q).retaken w.toNat))))

/-- A CHANGE or RETIRE that names a group: an OPEN group with fewer than 8 members takes it as its last member, HELD
with its deadline stopped, the window CLAIMED, the FREE frames of a new run RESERVED and a scrub slot RESERVED where it
will release frames of a window with its flag set, and ACCEPTED is sent; a group that is not OPEN is NO_GROUP, and one
with 8 members is GROUP_FULL. -/
def Obligations.MembersJoin : Prop :=
  ∀ (c : Instr) (tag : BitVec 8) (w : BitVec 16) (g : Fin 4) (k : ChangeKind) (s : State),
    s.serves tag → w.toNat < 4096 → s.asks c tag w (some (BitVec.ofNat 8 g)) k →
    ((s.group g).state = .opened → (s.group g).members.length < 8 → ∀ l e slot, s.Admits w.toNat k l e slot →
      ∃ u, { s with out := .onSup [] }.Accepts u e (.fresh tag w.toNat k (some g) slot) ∧
        exec c s = .next
          { u.setGroup g { state := .opened, members := (s.group g).members ++ [e] } with
            tags := natInsert s.tags tag.toNat
            out := .onSup [.accepted tag] }) ∧
    ((s.window w.toNat).live ≠ none → (s.window w.toNat).pending = none →
      ((s.group g).state ≠ .opened → exec c s = .next { s with out := .onSup [.refused k.code tag .noGroup] }) ∧
      ((s.group g).state = .opened → 8 ≤ (s.group g).members.length →
        exec c s = .next { s with out := .onSup [.refused k.code tag .groupFull] }))

/-- ABANDON of the standalone entry whose tag it names: the window keeps its values and loses its pending change, the
frames RESERVED for it and its scrub slot are FREE, the entry and its tag are free, and two DONEs are sent, the
target's with its lost set; then the window's parked lookups are answered in list order against the old record, each
one's tag leaving its agent's set, and those that the record does not allow are DENIED. A target tag of a group member
or of a commit is GROUP_MEMBER; one of no entry and no commit is NO_CHANGE. -/
def Obligations.AbandonDropsTheChange : Prop :=
  ∀ (tag target : BitVec 8) (s : State), s.serves tag →
    (∀ (e : Fin 16) (x : Entry), s.entry e = some x → x.tag = target →
      (∀ d, ∀ y ∈ s.entry d, y.tag = target → d = e) →
      (x.group = none → s.parkSound → SparseWf .free s.frames →
        ∃ t : State, exec (.abandon tag target) s = .next (t.retaken x.window) ∧
          t = { (s.setWindow x.window { s.window x.window with pending := none }).setEntry e none with
                frames := t.frames
                scrub :=
                  match x.scrubSlot with
                  | some i => { s.scrub with slots := s.scrub.slots.set i .free }
                  | none => s.scrub
                tags := natErase s.tags target.toNat
                out := .onSup
                  [.done target .abandoned (some (s.window x.window).generation) x.lost none none,
                    .done tag .applied (some (s.window x.window).generation) (noneOf 8) none none] } ∧
          (∀ f, t.frame f = if s.frame f = .reserved x.window then .free else s.frame f) ∧
          ∀ l ∈ (s.window x.window).live,
            (∀ p ∈ s.park, p.window = x.window → s.isUp (.agent p.agent) = true ∧
              (l.cls.allows p.agent (s.port p.agent).context = false ∨ p.rights.exceeds l.rights[p.agent] = true)) →
            t.retaken x.window =
              { t with
                park := s.park.filter fun p => decide (p.window ≠ x.window)
                ports := Vector.ofFn fun a =>
                  { s.port a with
                    tags := Vector.ofFn fun n => (s.port a).tags[n] && !s.park.any fun p : Parked =>
                      decide (p.window = x.window ∧ p.agent = a ∧ p.tag = n) }
                out :=
                  { t.out with
                    agents := Vector.ofFn fun a =>
                      (s.park.filter fun p : Parked => decide (p.window = x.window ∧ p.agent = a)).map fun p =>
                        .refuse 0x01 (BitVec.ofNat 8 p.tag) .denied (BitVec.ofNat 16 x.window) } }) ∧
      (x.group ≠ none →
        exec (.abandon tag target) s = .next { s with out := .onSup [.refused 0x25 tag .groupMember] })) ∧
    ((∀ d, ∀ y ∈ s.entry d, y.tag ≠ target) →
      ((∃ g, (s.group g).state = .recalling target) →
        exec (.abandon tag target) s = .next { s with out := .onSup [.refused 0x25 tag .groupMember] }) ∧
      ((∀ g, (s.group g).state ≠ .recalling target) →
        exec (.abandon tag target) s = .next { s with out := .onSup [.refused 0x25 tag .noChange] }))

/-- The expiry of a recall deadline. That a deadline that is not running has no effect is the model's choice (log 5); with
nobody awaited it only ends. Every awaited agent is put OUTSIDE (TIMEOUT) with FENCED sent to it, whatever changes this
brings to their end, and every agent not awaited keeps its port. Where the entry is a standalone change that alone awaits
these agents, and the outbox delivers nothing, one PORT notice for each of them is posted in ascending order, every agent
enters the lost set, and the change applies with that lost set in its DONE, and its window's lookups are re-taken. -/
def Obligations.DeadlinePutsOutside : Prop :=
  ∀ (e : Fin 16) (s : State),
    ((∀ x ∈ s.entry e, x.deadline ≠ .running) →
      exec (.recallDeadlineExpiry e) s = .next { s with out := .nothing }) ∧
    ∀ x ∈ s.entry e, x.deadline = .running →
      ((∀ a : AgentId, x.awaited[a] = false) →
        exec (.recallDeadlineExpiry e) s = .next
          { s.setEntry e (some { x with deadline := .expired }) with out := .nothing }) ∧
      ((∀ a : AgentId, x.awaited[a] = true → (s.port a).state = .admitted ∧ s.isUp (.agent a) = true) →
        ∃ t, exec (.recallDeadlineExpiry e) s = .next t ∧ Bystanders s t ∧
          (∀ a : AgentId,
            (x.awaited[a] = true → Emptied s t a .outside .timeout ∧ .fenced .timeout ∈ t.out.agents[a]) ∧
            (x.awaited[a] = false → PortKept s t a)) ∧
          (s.mute → ∀ l, s.Applicable e x l → s.parkSound → x.group = none → x.state ≠ .held →
            (s.window x.window).pending = some e → (∃ a : AgentId, x.awaited[a] = true) →
            (∀ a : AgentId, x.awaited[a] = true →
              (∃ i, ∃ h ∈ s.held a i, h.window = x.window) ∧ ∀ d, d ≠ e → ∀ y ∈ s.entry d, y.awaited[a] = false) →
            ∃ u v : State, t = v.retaken x.window ∧
              u.Applies v e
                { x with
                  deadline := .expired, awaited := noneOf 8
                  lost := Vector.ofFn fun a => x.lost[a] || x.awaited[a] } l ∧
              u = { s with
                    windows := u.windows
                    tables := Vector.ofFn fun a => if x.awaited[a] then SlotTable.initial else s.table a
                    ports := Vector.ofFn fun a =>
                      if x.awaited[a] then
                        { state := .outside, reason := .timeout, context := (s.port a).context, tags := noneOf 4 }
                      else s.port a
                    fenceN := Vector.ofFn fun a => s.fenceN[a] && !x.awaited[a]
                    park := s.park.filter fun p => !x.awaited[p.agent]
                    entries := s.entries.set e (some
                      { x with
                        deadline := .expired, awaited := noneOf 8
                        lost := Vector.ofFn fun a => x.lost[a] || x.awaited[a] })
                    outbox := ((List.finRange 8).filter fun a => x.awaited[a]).foldl
                      (fun o a => portPosting o a .outside .timeout) s.outbox
                    noticeN := false
                    out :=
                      { Outputs.nothing with
                        agents := Vector.ofFn fun a => if x.awaited[a] then [.fenced .timeout] else [] } } ∧
              ∀ w, u.window w =
                { s.window w with
                  holders := Vector.ofFn fun a => (s.window w).holders[a] &&
                    !(x.awaited[a] && (List.finRange 64).any fun i => (s.held a i).any fun h => h.window == w) }))

/-! ## Groups -/

/-- GROUP_OPEN: a group number over 3 is BAD_VALUE, a FREE group becomes OPEN with no member and DONE is sent, and a group
in use is NO_GROUP and stays as it was; the checks common to every request come first. -/
def Obligations.GroupOpens : Prop :=
  ∀ (tag : BitVec 8) (s : State),
    (s.serves tag →
      (∀ n : BitVec 9, 4 ≤ n.toNat →
        exec (.groupOpen tag n) s = .next { s with out := .onSup [.refused 0x26 tag .badValue] }) ∧
      ∀ g : Fin 4,
        ((s.group g).state = .free →
          exec (.groupOpen tag (BitVec.ofNat 9 g)) s = .next
            { s.setGroup g { state := .opened, members := [] } with out := .onSup [.plainDone tag] }) ∧
        ((s.group g).state ≠ .free →
          exec (.groupOpen tag (BitVec.ofNat 9 g)) s = .next { s with out := .onSup [.refused 0x26 tag .noGroup] })) ∧
    (s.receives .sup → ∀ n : BitVec 9,
      (s.isServing = false →
        exec (.groupOpen tag n) s = .next { s with out := .onSup [.refused 0x26 tag .notConfigured] }) ∧
      (s.isServing = true → s.tagInUse tag = true →
        exec (.groupOpen tag n) s = .next { s with out := .onSup [.refused 0x26 tag .tagInUse] }))

/-- GROUP_COMMIT. A group number over 3 is BAD_VALUE and a group that is not OPEN is NO_GROUP. An OPEN group with no
member is FREE again and DONE is sent. With members of which one awaits an agent, every member's recall starts,
RECALLING or READY with its deadline running; each awaited agent gets one RECALL for each member that awaits it, in
member order, and those windows enter its recalled set and leave its regranted set; the group is RECALLING with the
commit tag in use, and ACCEPTED is sent. A group whose members affect no holding applies: its members in member order,
each whole with its re-take, then the commit's DONE with the union of their lost sets, and the group is FREE. -/
def Obligations.GroupCommits : Prop :=
  ∀ (tag : BitVec 8) (g : Fin 4) (s : State), s.serves tag →
    (∀ n : BitVec 9, 4 ≤ n.toNat →
      exec (.groupCommit tag n) s = .next { s with out := .onSup [.refused 0x27 tag .badValue] }) ∧
    ((s.group g).state ≠ .opened →
      exec (.groupCommit tag (BitVec.ofNat 9 g)) s = .next { s with out := .onSup [.refused 0x27 tag .noGroup] }) ∧
    ((s.group g).state = .opened → (s.group g).members = [] →
      exec (.groupCommit tag (BitVec.ofNat 9 g)) s = .next
        { s.setGroup g { state := .free, members := [] } with out := .onSup [.plainDone tag] }) ∧
    ((s.group g).state = .opened → (∀ d ∈ (s.group g).members, s.entry d ≠ none) →
      (∃ d ∈ (s.group g).members, ∃ x ∈ s.entry d, ∃ a : AgentId, (s.affectedAgents x.kind x.window)[a] = true) →
      ∀ slot : AgentId → Nat → Fin 64, (∀ a i, ∀ h ∈ s.held a i, slot a h.window = i) →
        (∀ d ∈ (s.group g).members, ∀ x ∈ s.entry d, ∀ a : AgentId,
          (s.affectedAgents x.kind x.window)[a] = true → s.isUp (.agent a) = true) →
        ∃ t, exec (.groupCommit tag (BitVec.ofNat 9 g)) s = .next t ∧
          t = { s.setGroup g { state := .recalling tag, members := (s.group g).members } with
                entries := t.entries
                tables := t.tables
                tags := natInsert s.tags tag.toNat
                out :=
                  { Outputs.onSup [.accepted tag] with
                    agents := Vector.ofFn fun a => (s.group g).members.filterMap fun d =>
                      (s.entry d).bind fun x =>
                        if (s.affectedAgents x.kind x.window)[a] then
                          some (.recall (slot a x.window) x.window (s.window x.window).generation)
                        else none } } ∧
          (∀ a, t.table a =
            { s.table a with recalled := (t.table a).recalled, regranted := (t.table a).regranted }) ∧
          (∀ (a : AgentId) (w : Nat), ∀ named : Prop,
            (named ↔ ∃ d ∈ (s.group g).members, ∃ x ∈ s.entry d,
              x.window = w ∧ (s.affectedAgents x.kind x.window)[a] = true) →
            (w ∈ (t.table a).recalled ↔ w ∈ (s.table a).recalled ∨ named) ∧
            (w ∈ (t.table a).regranted ↔ w ∈ (s.table a).regranted ∧ ¬named)) ∧
          (∀ d ∉ (s.group g).members, t.entry d = s.entry d) ∧
          ∀ d ∈ (s.group g).members, ∀ x ∈ s.entry d,
            t.entry d = some
              { x with
                awaited := s.affectedAgents x.kind x.window
                state := if (s.affectedAgents x.kind x.window).empty then .ready else .recalling
                deadline := .running }) ∧
    ((s.group g).state = .opened → (s.group g).members ≠ [] → (s.group g).members.Nodup → GroupLaw s →
      PendingLaw s → s.parkSound →
      (∀ d ∈ (s.group g).members, ∃ x l, s.Applicable d x l ∧ x.state = .held ∧
        ∀ a i, ∀ h ∈ s.held a i, h.window = x.window → ¬x.kind.hits l a h.rights) →
      ∃ v : State, State.AppliesAll (s.group g).members
        { s.setGroup g { state := .recalling tag, members := (s.group g).members } with
          entries := Vector.ofFn fun d =>
            if d ∈ (s.group g).members then
              (s.entry d).map fun x => { x with awaited := noneOf 8, state := .ready, deadline := .running }
            else s.entry d
          out := .onSup [] } v ∧
        exec (.groupCommit tag (BitVec.ofNat 9 g)) s = .next
          { v.setGroup g { state := .free, members := [] } with
            tags := natErase v.tags tag.toNat
            out :=
              { v.out with
                sup := v.out.sup ++
                  [.done tag .applied none
                    (Vector.ofFn fun a => (s.group g).members.any fun d => (s.entry d).any fun x => x.lost[a])
                    none none] } })

/-- GROUP_ABANDON. A group number over 3 is BAD_VALUE and a FREE group is NO_GROUP. Otherwise every member is abandoned:
its entry, its scrub slot and the frames RESERVED for its window are FREE, its window loses its pending change and keeps
its values, and its tag is free; the group is FREE. The members' DONEs come in member order, then the commit's with the
union of their lost sets when the group was RECALLING, then the GROUP_ABANDON's own. That is the whole of it while no
lookup is parked. With parked lookups each member is abandoned whole before the next, the lookups parked for its window
answered in list order against the old record. A GRANT there may evict a holding: for a member still to be taken that
is no release, so the group does not apply and the member is abandoned in its turn; for any other change it is one, and
a change whose last awaited holding it was ends its waiting within that answer. -/
def Obligations.GroupAbandons : Prop :=
  ∀ (tag : BitVec 8) (g : Fin 4) (s : State), s.serves tag →
    (∀ n : BitVec 9, 4 ≤ n.toNat →
      exec (.groupAbandon tag n) s = .next { s with out := .onSup [.refused 0x28 tag .badValue] }) ∧
    ((s.group g).state = .free →
      exec (.groupAbandon tag (BitVec.ofNat 9 g)) s = .next { s with out := .onSup [.refused 0x28 tag .noGroup] }) ∧
    ((s.group g).state ≠ .free → s.park = [] → SparseWf .free s.frames → (s.group g).members.Nodup →
      (∀ d ∈ (s.group g).members, s.entry d ≠ none) →
      ∃ t, exec (.groupAbandon tag (BitVec.ofNat 9 g)) s = .next t ∧
        t = { s.setGroup g { state := .free, members := [] } with
              windows := t.windows
              entries := t.entries
              frames := t.frames
              scrub := { s.scrub with slots := t.scrub.slots }
              tags := t.tags
              out := .onSup
                (((s.group g).members.filterMap fun d => (s.entry d).map fun x =>
                    .done x.tag .abandoned (some (s.window x.window).generation) x.lost none none) ++
                  (match (s.group g).state with
                    | .recalling c =>
                      [.done c .abandoned none
                        (Vector.ofFn fun a => (s.group g).members.any fun d => (s.entry d).any fun x => x.lost[a])
                        none none]
                    | _ => []) ++
                  [.plainDone tag]) } ∧
        (∀ d, t.entry d = if d ∈ (s.group g).members then none else s.entry d) ∧
        (∀ i, t.slot i =
          if ∃ d ∈ (s.group g).members, ∃ x ∈ s.entry d, x.scrubSlot = some i then .free else s.slot i) ∧
        (∀ w, t.window w =
          if ∃ d ∈ (s.group g).members, ∃ x ∈ s.entry d, x.window = w then { s.window w with pending := none }
          else s.window w) ∧
        (∀ f, t.frame f =
          if ∃ d ∈ (s.group g).members, ∃ x ∈ s.entry d, s.frame f = .reserved x.window then .free else s.frame f) ∧
        ∀ n, n ∈ t.tags ↔ n ∈ s.tags ∧ (∀ c, (s.group g).state = .recalling c → n ≠ c.toNat) ∧
          ∀ d ∈ (s.group g).members, ∀ x ∈ s.entry d, n ≠ x.tag.toNat) ∧
    ((s.group g).state ≠ .free → GroupLaw s → PendingLaw s → s.parkSound → SparseWf .free s.frames →
      ∃ v : State, { s with out := .onSup [] }.AbandonsAll g (s.group g).members v ∧
        exec (.groupAbandon tag (BitVec.ofNat 9 g)) s = .next
          { v.setGroup g { state := .free, members := [] } with
            tags :=
              match (s.group g).state with
              | .recalling c => natErase v.tags c.toNat
              | _ => v.tags
            out :=
              { v.out with
                sup := v.out.sup ++
                  (match (s.group g).state with
                    | .recalling c =>
                      [.done c .abandoned none
                        (Vector.ofFn fun a => (s.group g).members.any fun d => (s.entry d).any fun x => x.lost[a])
                        none none]
                    | _ => []) ++
                  [.plainDone tag] } })

/-! ## Scrubbing -/

/-- RESCRUB of QUARANTINED frames with a FREE scrub slot: every frame of the run is SCRUBBING in the lowest FREE slot,
and DONE names the slot. A busy engine keeps its state and the job waits at the tail of the queue. An IDLE engine
becomes RUNNING with the job ACTIVE; while M is UP the job's first fills are sent. The first check that fails decides a
refusal: BAD_VALUE for the base frame, BAD_RANGE for the run, FRAMES_BUSY, SCRUB_FULL. -/
def Obligations.RescrubQueues : Prop :=
  ∀ (tag : BitVec 8) (base count : Word) (s : State), s.serves tag →
    let refused (r : Reason) : Prop :=
      exec (.rescrub tag base count) s = .next { s with out := .onSup [.refused 0x2D tag r] }
    (65536 ≤ base.toNat → refused .badValue) ∧
    (base.toNat < 65536 → (count.toNat < 1 ∨ 4096 < count.toNat ∨ s.frameCount < base.toNat + count.toNat) →
      refused .badRange) ∧
    ∀ run, runNamed s.frameCount base count run →
      ((∃ f, run.has f ∧ s.frame f ≠ .quarantined) → refused .framesBusy) ∧
      ((∀ f, run.has f → s.frame f = .quarantined) →
        ((∀ i, s.slot i ≠ .free) → refused .scrubFull) ∧
        ∀ i, s.nextSlot i →
          ∃ t : State, s.framesSet t run (.scrubbing i) ∧
            t = { s with
                  frames := t.frames, scrub := t.scrub, out := .onSup [.done tag .applied none (noneOf 8) (some i) none] } ∧
            (s.scrub.engine ≠ .idle →
              t.scrub =
                { s.scrub with
                  slots := s.scrub.slots.set i (.queued (Job.start .rescrub run)), queue := s.scrub.queue ++ [i] } ∧
              exec (.rescrub tag base count) s = .next t) ∧
            (s.scrub.engine = .idle → s.active = none → s.scrub.queue = [] →
              t.scrub =
                { s.scrub with slots := s.scrub.slots.set i (.active (Job.start .rescrub run)), engine := .running } ∧
              (s.isUp .mem = false → exec (.rescrub tag base count) s = .next t) ∧
              (s.isUp .mem = true → ∀ ps q, t.Sends i (Job.start .rescrub run) ps q →
                exec (.rescrub tag base count) s = .next (t.filling i (Job.start .rescrub run) ps q))))

/-- SUSPEND_SCRUB in each engine state: IDLE, or RUNNING with no fill in flight, becomes SUSPENDED with DONE; RUNNING with
a fill in flight becomes SUSPENDING, the tag in use and nothing sent; SUSPENDING is BUSY; SUSPENDED stays, with DONE. When
the last fill in flight of a SUSPENDING engine ends, by a matched completion, by its deadline or by the loss of M, the
engine becomes SUSPENDED and the waiting SUSPEND is answered DONE (APPLIED) with its tag free. -/
def Obligations.SuspendScrub : Prop :=
  ∀ (tag : BitVec 8) (s : State), s.serves tag →
    (s.scrub.engine = .idle ∨ s.scrub.engine = .running ∧ (∀ k, s.fill k = none) →
      exec (.suspendScrub tag) s = .next
        { s with scrub := { s.scrub with engine := .suspended }, out := .onSup [.plainDone tag] }) ∧
    (s.scrub.engine = .running → (∃ k, s.fill k ≠ none) →
      exec (.suspendScrub tag) s = .next
        { s with
          scrub := { s.scrub with engine := .suspending tag }
          tags := natInsert s.tags tag.toNat
          out := .onSup [] }) ∧
    (∀ c, s.scrub.engine = .suspending c →
      exec (.suspendScrub tag) s = .next { s with out := .onSup [.refused 0x2B tag .busy] }) ∧
    (s.scrub.engine = .suspended →
      exec (.suspendScrub tag) s = .next { s with out := .onSup [.plainDone tag] }) ∧
    ∀ (c status : BitVec 8) (k : Fin 4) (f : Fill) (e : Instr), s.scrub.engine = .suspending c → s.fill k = some f →
      (∀ k', k' ≠ k → s.fill k' = none) → status = 1 ∨ status = 2 →
      (s.receives .mem ∧ (e = .filled status (BitVec.ofNat 2 k) f.seq ∨ e = .carrierLost .mem) ∨
        e = .fillDeadlineExpiry k) →
      ∃ t, exec e s = .next t ∧ t.scrub.engine = .suspended ∧ t.tags = natErase s.tags c.toNat ∧
        .plainDone c ∈ t.out.sup

/-- RESUME_SCRUB in each engine state: IDLE and RUNNING stay; SUSPENDED with no job ACTIVE or waiting becomes IDLE.
SUSPENDED and SUSPENDING with an ACTIVE job become RUNNING, and the waiting SUSPEND is answered DONE (ABANDONED) and
its tag is free: with M UP and a fill id free the job's next fills are sent, and with neither, while it still has
frames to scrub, none is. SUSPENDED with no ACTIVE job and jobs waiting makes the head of the queue ACTIVE, which sends
its fills while M is UP. DONE is sent in every case. -/
def Obligations.ResumeScrub : Prop :=
  ∀ (tag : BitVec 8) (s : State), s.serves tag →
    (s.scrub.engine = .idle ∨ s.scrub.engine = .running →
      exec (.resumeScrub tag) s = .next { s with out := .onSup [.plainDone tag] }) ∧
    (s.scrub.engine = .suspended → s.active = none → s.scrub.queue = [] →
      exec (.resumeScrub tag) s = .next
        { s with scrub := { s.scrub with engine := .idle }, out := .onSup [.plainDone tag] }) ∧
    (∀ i j, s.active = some (i, j) → ∀ t : State,
      (s.scrub.engine = .suspended ∧
          t = { s with scrub := { s.scrub with engine := .running }, out := .onSup [.plainDone tag] } ∨
        ∃ c, s.scrub.engine = .suspending c ∧
          t = { s with
                scrub := { s.scrub with engine := .running }
                tags := natErase s.tags c.toNat
                out := .onSup [.done c .abandoned none (noneOf 8) none none, .plainDone tag] }) →
      (s.hasScrubbing i j = true → (s.isUp .mem = false ∨ ∀ k, s.fill k ≠ none) →
        exec (.resumeScrub tag) s = .next t) ∧
      (s.isUp .mem = true → ∀ ps q, s.Sends i j ps q → exec (.resumeScrub tag) s = .next (t.filling i j ps q))) ∧
    ∀ i rest j, s.scrub.engine = .suspended → s.active = none → s.scrub.queue = i :: rest → s.slot i = .queued j →
      ∀ t : State,
        t = { s with
              scrub :=
                { s.scrub with slots := s.scrub.slots.set i (.active j), queue := rest, engine := .running }
              out := .onSup [.plainDone tag] } →
        (s.hasScrubbing i j = true → s.isUp .mem = false → exec (.resumeScrub tag) s = .next t) ∧
        (s.isUp .mem = true → ∀ ps q, t.Sends i j ps q → exec (.resumeScrub tag) s = .next (t.filling i j ps q))

/-- What the end of a fill does to the Frame Map, in every engine state. A matched OK completion of the last block of a
frame SCRUBBING for the ACTIVE job makes that frame FREE; a matched ERROR and an expired fill deadline make a frame
SCRUBBING for the ACTIVE job QUARANTINED; every other frame stays as it was. -/
def Obligations.FillsMoveFrames : Prop :=
  ∀ (k : Fin 4) (f : Fill) (s : State), s.fill k = some f →
    (s.receives .mem →
      (∃ t, exec (.filled 1 (BitVec.ofNat 2 k) f.seq) s = .next t ∧
        s.FrameEnds t f .free fun j => j.lastBlock f) ∧
      ∃ t, exec (.filled 2 (BitVec.ofNat 2 k) f.seq) s = .next t ∧
        s.FrameEnds t f .quarantined fun _ => True) ∧
    ∃ t, exec (.fillDeadlineExpiry k) s = .next t ∧ s.FrameEnds t f .quarantined fun _ => True

/-- What the end of a fill counts, while another fill is in flight: the fill id is free; an OK block joins its frame's
tally, or with the last block the frame leaves the tally and the FREE count goes up; a failed fill takes its frame out
of the tally and raises the QUARANTINED count, here with the position in no such frame. While the engine is not RUNNING
nothing is sent; while it is RUNNING, the job's next fills are sent on M where it is UP (after a failed fill too). -/
def Obligations.FillsCount : Prop :=
  ∀ (k k' : Fin 4) (f : Fill) (i : Fin 16) (j : Job) (s : State), s.fill k = some f → k' ≠ k → s.fill k' ≠ none →
    s.scrubs f i j →
    ∀ (c : Instr) (o : Outputs) (j' : Job) (x : Sparse FrameState),
      (c = .filled 1 (BitVec.ofNat 2 k) f.seq ∧ s.receives .mem ∧ o = .onMem [] ∧
          (¬j.lastBlock f ∧ x = s.frames ∧
              j' = { j with tally := sparseSet (noneOf 16) j.tally f.frame ((j.filled f.frame).set f.block true) } ∨
            j.lastBlock f ∧ x = sparseSet .free s.frames f.frame .free ∧
              j' = { j with tally := sparseSet (noneOf 16) j.tally f.frame (noneOf 16), freed := j.freed + 1 }) ∨
        (c = .filled 2 (BitVec.ofNat 2 k) f.seq ∧ s.receives .mem ∧ o = .onMem [] ∨
            c = .fillDeadlineExpiry k ∧ o = .nothing) ∧
          (∀ p ∈ j.position, p.frame ≠ f.frame) ∧ x = sparseSet .free s.frames f.frame .quarantined ∧
          j' =
            { j with tally := sparseSet (noneOf 16) j.tally f.frame (noneOf 16), quarantined := j.quarantined + 1 }) →
      ∀ t : State,
        t = { s with
              frames := x
              scrub := { s.scrub with slots := s.scrub.slots.set i (.active j'), fills := s.scrub.fills.set k none }
              out := o } →
        (s.scrub.engine ≠ .running ∨ s.isUp .mem = false → exec c s = .next t) ∧
        (s.scrub.engine = .running → s.isUp .mem = true → ∀ ps q, t.Sends i j' ps q →
          exec c s = .next (t.filling i j' ps q))

/-- The OK completion of the last block of a job's last SCRUBBING frame, with no other fill in flight and the outbox
delivering nothing: the frame is FREE, the slot is ENDED with the count raised, and the job's SCRUB notice joins the
tail of the outbox with NOTICE_N low. With no job waiting the engine is IDLE; else the job at the head of the queue is
ACTIVE and sends its first fills. -/
def Obligations.LastFillEndsTheJob : Prop :=
  ∀ (k : Fin 4) (f : Fill) (i : Fin 16) (j : Job) (s : State), s.receives .mem → s.mute → s.fill k = some f →
    (∀ k', k' ≠ k → s.fill k' = none) → s.scrub.engine = .running → s.scrubs f i j →
    (∀ i' j', s.slot i' = .active j' → i' = i) → j.position = none → j.lastBlock f → SparseWf .free s.frames →
    (∀ g, g ≠ f.frame → s.frame g = .scrubbing i → j.covers g = false) →
    ∀ t : State,
      t = { s with
            frames := sparseSet .free s.frames f.frame .free
            scrub :=
              { s.scrub with
                slots := s.scrub.slots.set i (.ended
                  { j with tally := sparseSet (noneOf 16) j.tally f.frame (noneOf 16), freed := j.freed + 1 })
                fills := Vector.replicate 4 none }
            outbox := s.outbox ++ [.scrub i j.origin j.first j.second (j.freed + 1) j.quarantined]
            noticeN := false
            out := .onMem [] } →
      (s.scrub.queue = [] →
        exec (.filled 1 (BitVec.ofNat 2 k) f.seq) s = .next { t with scrub := { t.scrub with engine := .idle } }) ∧
      ∀ i' rest j', s.scrub.queue = i' :: rest → s.slot i' = .queued j' → ∀ u : State,
        u = { t with scrub := { t.scrub with slots := t.scrub.slots.set i' (.active j'), queue := rest } } →
        ∀ ps q, u.Sends i' j' ps q →
          exec (.filled 1 (BitVec.ofNat 2 k) f.seq) s = .next (u.filling i' j' ps q)

/-! ## The supervisor interface -/

/-- CONFIGURE. In SERVING it is CONFIGURED; with a value out of its range it is BAD_VALUE. Otherwise the device is
SERVING with the five values. With the option clear every frame is FREE. With the option set and the Scrub Engine in
its reset state every frame is SCRUBBING in slot 0 with the initial job ACTIVE; with M UP and 16 blocks or more, the
first four blocks are sent as fills with consecutive sequence numbers, and with M not UP none is sent; DONE names slot
0. -/
def Obligations.ConfigureServes : Prop :=
  ∀ (tag : BitVec 8) (n d : Word) (u : BitVec 8) (pattern : Word) (s : State), s.receives .sup →
    s.tagInUse tag = false →
    (s.device ≠ .unconfigured → ∀ o,
      exec (.configure tag n d o u pattern) s = .next { s with out := .onSup [.refused 0x21 tag .configured] }) ∧
    (s.device = .unconfigured →
      (n.toNat < 1 ∨ 65536 < n.toNat ∨ d.toNat < 1 ∨ 10000 < d.toNat ∨ u.toNat < 1 ∨ 100 < u.toNat → ∀ o,
        exec (.configure tag n d o u pattern) s = .next { s with out := .onSup [.refused 0x21 tag .badValue] }) ∧
      (1 ≤ n.toNat → n.toNat ≤ 65536 → 1 ≤ d.toNat → d.toNat ≤ 10000 → 1 ≤ u.toNat → u.toNat ≤ 100 →
        exec (.configure tag n d false u pattern) s = .next
          { s with
            device := .serving
              { frameCount := n.toNat, recallDeadline := d.toNat, fillDeadline := u.toNat, pattern := pattern
                initialScrub := false }
            frames := []
            out := .onSup [.plainDone tag] } ∧
        ∀ q, s.scrub = { Scrub.initial with seq := q } →
          (s.isUp .mem = true →
            exec (.configure tag n d true u pattern) s = .next
              { s with
                device := .serving
                  { frameCount := n.toNat, recallDeadline := d.toNat, fillDeadline := u.toNat, pattern := pattern
                    initialScrub := true }
                frames := (List.range n.toNat).map fun f => (f, .scrubbing 0)
                scrub :=
                  { slots := (Vector.replicate 16 .free).set 0 (.active
                      { Job.start .initial ⟨0, n.toNat⟩ with
                        position := some { second := false, frame := 0, block := 4 } })
                    queue := []
                    engine := .running
                    fills := Vector.ofFn fun k =>
                      some { seq := q + BitVec.ofNat 16 k, frame := 0, block := Fin.ofNat 16 k }
                    seq := q + 4 }
                out :=
                  { Outputs.onSup [.done tag .applied none (noneOf 8) (some 0) none] with
                    mem := (List.finRange 4).map fun k =>
                      { id := k, seq := q + BitVec.ofNat 16 k, frame := 0, block := Fin.ofNat 16 k
                        pattern := pattern } } }) ∧
          (s.isUp .mem = false →
            exec (.configure tag n d true u pattern) s = .next
              { s with
                device := .serving
                  { frameCount := n.toNat, recallDeadline := d.toNat, fillDeadline := u.toNat, pattern := pattern
                    initialScrub := true }
                frames := (List.range n.toNat).map fun f => (f, .scrubbing 0)
                scrub :=
                  { slots := (Vector.replicate 16 .free).set 0 (.active (Job.start .initial ⟨0, n.toNat⟩))
                    queue := []
                    engine := .running
                    fills := Vector.replicate 4 none
                    seq := q }
                out := .onSup [.done tag .applied none (noneOf 8) (some 0) none] })))

/-- NOTICE_CREDIT. Over 255 it is BAD_VALUE. Otherwise the credit goes up, stopping at 255, and DONE carries it; then as
many of the oldest notices as the credit allows leave the outbox in order, one credit each, NOTICE_N is high exactly when
none is left, and the slot of each SCRUB notice that left goes from ENDED to FREE. -/
def Obligations.NoticeCreditDelivers : Prop :=
  ∀ (tag : BitVec 8) (n : Word) (s : State), s.receives .sup → s.tagInUse tag = false →
    (255 < n.toNat →
      exec (.noticeCredit tag n) s = .next { s with out := .onSup [.refused 0x32 tag .badValue] }) ∧
    (n.toNat ≤ 255 → (s.noticeN = true ↔ s.outbox = []) → ∀ c m,
      c = min (s.credit + n.toNat) 255 → m = min c s.outbox.length →
      ∃ t, exec (.noticeCredit tag n) s = .next t ∧
        t = { s with
              credit := c - m
              outbox := s.outbox.drop m
              noticeN := decide (s.outbox.length ≤ m)
              scrub := { s.scrub with slots := t.scrub.slots }
              out := .onSup
                (.done tag .applied none (noneOf 8) none (some c) :: (s.outbox.take m).map .notice) } ∧
        ∀ i,
          (∀ o r q x y j, .scrub i o r q x y ∈ s.outbox.take m → s.slot i = .ended j → t.slot i = .free) ∧
          ((∀ o r q x y, .scrub i o r q x y ∉ s.outbox.take m) ∨ (∀ j, s.slot i ≠ .ended j) →
            t.slot i = s.slot i))

/-! ## The machine as a whole -/

/-- The nesting of the ends of changes never runs out of depth: for an entry that awaits nobody, in a group abandonment
and outside one, any greater depth than the 16 entries of the Change Table gives the same state (log 14). -/
def Obligations.CascadeDepthSuffices : Prop :=
  ∀ (n : Nat) (g : Option (Fin 4)) (e : Fin 16) (s : State), s.awaits e = false →
    cascadeDepth g (16 + n) e s = cascadeDepth g 16 e s

/-- The reset state meets the laws of the device: those of ports, links and receive buffers, of ports that are not
ADMITTED, of the outbox, of holder sets, held rights, pending changes, groups, recall rounds, parked lookups, frames
and the Scrub Engine, and the canonical form of tables and sets, which is the model's own (log 19). -/
def Obligations.ResetMeetsTheLaws : Prop := DeviceLaw .reset

/-- Every step keeps the law of ports, links, receive buffers and FENCE_N lines. -/
def Obligations.PortLawKept : Prop := ∀ s t : State, PortLaw s → step s = .next t → PortLaw t

/-- Every step keeps the law that a port that is not ADMITTED is empty: its table with pointer 0, no parked lookup, no
lookup tag in use. The law of ports and links is a premise, since a port's own messages reach it only while its link is
UP. -/
def Obligations.EmptyPortLawKept : Prop :=
  ∀ s t : State, PortLaw s ∧ EmptyPortLaw s → step s = .next t → PortLaw t ∧ EmptyPortLaw t

/-- Every step keeps the law of the outbox, its PORT notices, its line and its credit. The law of ports and links is a
premise, since the supervisor's NOTICE_CREDIT reaches the outbox only while S is UP. -/
def Obligations.OutboxLawKept : Prop :=
  ∀ s t : State, PortLaw s ∧ OutboxLaw s → step s = .next t → PortLaw t ∧ OutboxLaw t

/-- Every step keeps the agreement of holder sets and slot tables. -/
def Obligations.HolderLawKept : Prop := ∀ s t : State, HolderLaw s → step s = .next t → HolderLaw t

/-- Every step keeps the agreement of pending changes and Change Table entries. -/
def Obligations.PendingLawKept : Prop := ∀ s t : State, PendingLaw s → step s = .next t → PendingLaw t

/-- Every step keeps the law of the Park List's length and of the lookup tags. That each parked lookup names a window
IN_RECALL stands in RoundLawKept, that it is of an ADMITTED agent in EmptyPortLawKept. -/
def Obligations.ParkLawKept : Prop := ∀ s t : State, ParkLaw s → step s = .next t → ParkLaw t

/-- Every step from a state that meets the laws of the device keeps the agreement of held rights, class and binding
with the record (R30). -/
def Obligations.RightsLawKept : Prop := ∀ s t : State, DeviceLaw s → step s = .next t → RightsLaw t

/-- Every step from a state that meets the laws of the device keeps the limits of entries and groups, and the law of the
recall round: awaited agents hold the window, every affected holding is awaited, and each parked lookup names a window
IN_RECALL (R47, R58, R60, R65, R70, R88). -/
def Obligations.RoundLawKept : Prop := ∀ s t : State, DeviceLaw s → step s = .next t → GroupLaw t ∧ RoundLaw t

/-- Every step from a state that meets the laws of the device keeps the binding, the reservation and the scrubbing
state of frames (R111, R112). -/
def Obligations.FrameLawKept : Prop := ∀ s t : State, DeviceLaw s → step s = .next t → FrameLaw t

/-- Every step from a state that meets the laws of the device keeps the law of the Scrub Engine: reserved slots, the
queue, the ACTIVE job, the fills in flight and the SCRUB notices (R114 to R118, R124, R155). -/
def Obligations.ScrubLawKept : Prop := ∀ s t : State, DeviceLaw s → step s = .next t → ScrubLaw t

/-- Every step keeps every table and set in its canonical form: windows, frames, tags, recalled and regranted sets, and
the tallies of jobs. The form is the model's choice (log 19). -/
def Obligations.CanonicalKept : Prop := ∀ s t : State, Canonical s → step s = .next t → Canonical t
end

