-- ==== Sys2Proof/Laws/State.lean ====
section
/-!
SUPPORT. One lemma for each field, and each reading of a field, after each update of one record of the state. All hold
by unfolding, so that no later proof unfolds a record update.
-/

namespace Sys2Proof.Machine

variable (s : State)

/-! ### setWindow -/

@[simp] theorem State.setWindow_windows (w : Nat) (r : Window) :
    (s.setWindow w r).windows = sparseSet Window.initial s.windows w r := rfl
@[simp] theorem State.setWindow_tables (w : Nat) (r : Window) : (s.setWindow w r).tables = s.tables := rfl
@[simp] theorem State.setWindow_ports (w : Nat) (r : Window) : (s.setWindow w r).ports = s.ports := rfl
@[simp] theorem State.setWindow_fenceN (w : Nat) (r : Window) : (s.setWindow w r).fenceN = s.fenceN := rfl
@[simp] theorem State.setWindow_park (w : Nat) (r : Window) : (s.setWindow w r).park = s.park := rfl
@[simp] theorem State.setWindow_entries (w : Nat) (r : Window) : (s.setWindow w r).entries = s.entries := rfl
@[simp] theorem State.setWindow_groups (w : Nat) (r : Window) : (s.setWindow w r).groups = s.groups := rfl
@[simp] theorem State.setWindow_frames (w : Nat) (r : Window) : (s.setWindow w r).frames = s.frames := rfl
@[simp] theorem State.setWindow_scrub (w : Nat) (r : Window) : (s.setWindow w r).scrub = s.scrub := rfl
@[simp] theorem State.setWindow_device (w : Nat) (r : Window) : (s.setWindow w r).device = s.device := rfl
@[simp] theorem State.setWindow_tags (w : Nat) (r : Window) : (s.setWindow w r).tags = s.tags := rfl
@[simp] theorem State.setWindow_outbox (w : Nat) (r : Window) : (s.setWindow w r).outbox = s.outbox := rfl
@[simp] theorem State.setWindow_credit (w : Nat) (r : Window) : (s.setWindow w r).credit = s.credit := rfl
@[simp] theorem State.setWindow_noticeN (w : Nat) (r : Window) : (s.setWindow w r).noticeN = s.noticeN := rfl
@[simp] theorem State.setWindow_links (w : Nat) (r : Window) : (s.setWindow w r).links = s.links := rfl
@[simp] theorem State.setWindow_resetN (w : Nat) (r : Window) : (s.setWindow w r).resetN = s.resetN := rfl
@[simp] theorem State.setWindow_carrier (w : Nat) (r : Window) : (s.setWindow w r).carrier = s.carrier := rfl
@[simp] theorem State.setWindow_out (w : Nat) (r : Window) : (s.setWindow w r).out = s.out := rfl
@[simp] theorem State.setWindow_pending (w : Nat) (r : Window) : (s.setWindow w r).pending = s.pending := rfl
@[simp] theorem State.setWindow_behind (w : Nat) (r : Window) : (s.setWindow w r).behind = s.behind := rfl
@[simp] theorem State.setWindow_frame (w : Nat) (r : Window) (f : Nat) : (s.setWindow w r).frame f = s.frame f := rfl
@[simp] theorem State.setWindow_table (w : Nat) (r : Window) (c : AgentId) :
    (s.setWindow w r).table c = s.table c := rfl
@[simp] theorem State.setWindow_port (w : Nat) (r : Window) (c : AgentId) : (s.setWindow w r).port c = s.port c := rfl
@[simp] theorem State.setWindow_entry (w : Nat) (r : Window) (j : Fin 16) : (s.setWindow w r).entry j = s.entry j := rfl
@[simp] theorem State.setWindow_group (w : Nat) (r : Window) (c : Fin 4) : (s.setWindow w r).group c = s.group c := rfl
@[simp] theorem State.setWindow_slot (w : Nat) (r : Window) (j : Fin 16) : (s.setWindow w r).slot j = s.slot j := rfl
@[simp] theorem State.setWindow_fill (w : Nat) (r : Window) (c : Fin 4) : (s.setWindow w r).fill c = s.fill c := rfl
@[simp] theorem State.setWindow_link (w : Nat) (r : Window) (c : LinkId) : (s.setWindow w r).link c = s.link c := rfl
@[simp] theorem State.setWindow_isUp (w : Nat) (r : Window) (c : LinkId) : (s.setWindow w r).isUp c = s.isUp c := rfl
@[simp] theorem State.setWindow_isAdmitted (w : Nat) (r : Window) (c : AgentId) :
    (s.setWindow w r).isAdmitted c = s.isAdmitted c := rfl
@[simp] theorem State.setWindow_frameCount (w : Nat) (r : Window) : (s.setWindow w r).frameCount = s.frameCount := rfl
@[simp] theorem State.setWindow_isServing (w : Nat) (r : Window) : (s.setWindow w r).isServing = s.isServing := rfl
@[simp] theorem State.setWindow_tagInUse (w : Nat) (r : Window) (u : BitVec 8) :
    (s.setWindow w r).tagInUse u = s.tagInUse u := rfl
@[simp] theorem State.setWindow_active (w : Nat) (r : Window) : (s.setWindow w r).active = s.active := rfl
@[simp] theorem State.setWindow_quiet (w : Nat) (r : Window) : (s.setWindow w r).quiet = s.quiet := rfl
@[simp] theorem State.setWindow_pattern (w : Nat) (r : Window) : (s.setWindow w r).pattern = s.pattern := rfl

/-! ### setFrames -/

@[simp] theorem State.setFrames_windows (m : Sparse FrameState) : (s.setFrames m).windows = s.windows := rfl
@[simp] theorem State.setFrames_tables (m : Sparse FrameState) : (s.setFrames m).tables = s.tables := rfl
@[simp] theorem State.setFrames_ports (m : Sparse FrameState) : (s.setFrames m).ports = s.ports := rfl
@[simp] theorem State.setFrames_fenceN (m : Sparse FrameState) : (s.setFrames m).fenceN = s.fenceN := rfl
@[simp] theorem State.setFrames_park (m : Sparse FrameState) : (s.setFrames m).park = s.park := rfl
@[simp] theorem State.setFrames_entries (m : Sparse FrameState) : (s.setFrames m).entries = s.entries := rfl
@[simp] theorem State.setFrames_groups (m : Sparse FrameState) : (s.setFrames m).groups = s.groups := rfl
@[simp] theorem State.setFrames_frames (m : Sparse FrameState) : (s.setFrames m).frames = m := rfl
@[simp] theorem State.setFrames_scrub (m : Sparse FrameState) : (s.setFrames m).scrub = s.scrub := rfl
@[simp] theorem State.setFrames_device (m : Sparse FrameState) : (s.setFrames m).device = s.device := rfl
@[simp] theorem State.setFrames_tags (m : Sparse FrameState) : (s.setFrames m).tags = s.tags := rfl
@[simp] theorem State.setFrames_outbox (m : Sparse FrameState) : (s.setFrames m).outbox = s.outbox := rfl
@[simp] theorem State.setFrames_credit (m : Sparse FrameState) : (s.setFrames m).credit = s.credit := rfl
@[simp] theorem State.setFrames_noticeN (m : Sparse FrameState) : (s.setFrames m).noticeN = s.noticeN := rfl
@[simp] theorem State.setFrames_links (m : Sparse FrameState) : (s.setFrames m).links = s.links := rfl
@[simp] theorem State.setFrames_resetN (m : Sparse FrameState) : (s.setFrames m).resetN = s.resetN := rfl
@[simp] theorem State.setFrames_carrier (m : Sparse FrameState) : (s.setFrames m).carrier = s.carrier := rfl
@[simp] theorem State.setFrames_out (m : Sparse FrameState) : (s.setFrames m).out = s.out := rfl
@[simp] theorem State.setFrames_pending (m : Sparse FrameState) : (s.setFrames m).pending = s.pending := rfl
@[simp] theorem State.setFrames_behind (m : Sparse FrameState) : (s.setFrames m).behind = s.behind := rfl
@[simp] theorem State.setFrames_window (m : Sparse FrameState) (v : Nat) : (s.setFrames m).window v = s.window v := rfl
@[simp] theorem State.setFrames_table (m : Sparse FrameState) (c : AgentId) : (s.setFrames m).table c = s.table c := rfl
@[simp] theorem State.setFrames_port (m : Sparse FrameState) (c : AgentId) : (s.setFrames m).port c = s.port c := rfl
@[simp] theorem State.setFrames_entry (m : Sparse FrameState) (j : Fin 16) : (s.setFrames m).entry j = s.entry j := rfl
@[simp] theorem State.setFrames_group (m : Sparse FrameState) (c : Fin 4) : (s.setFrames m).group c = s.group c := rfl
@[simp] theorem State.setFrames_slot (m : Sparse FrameState) (j : Fin 16) : (s.setFrames m).slot j = s.slot j := rfl
@[simp] theorem State.setFrames_fill (m : Sparse FrameState) (c : Fin 4) : (s.setFrames m).fill c = s.fill c := rfl
@[simp] theorem State.setFrames_link (m : Sparse FrameState) (c : LinkId) : (s.setFrames m).link c = s.link c := rfl
@[simp] theorem State.setFrames_isUp (m : Sparse FrameState) (c : LinkId) : (s.setFrames m).isUp c = s.isUp c := rfl
@[simp] theorem State.setFrames_isAdmitted (m : Sparse FrameState) (c : AgentId) :
    (s.setFrames m).isAdmitted c = s.isAdmitted c := rfl
@[simp] theorem State.setFrames_condition (m : Sparse FrameState) (v : Nat) :
    (s.setFrames m).condition v = s.condition v := rfl
@[simp] theorem State.setFrames_frameCount (m : Sparse FrameState) : (s.setFrames m).frameCount = s.frameCount := rfl
@[simp] theorem State.setFrames_isServing (m : Sparse FrameState) : (s.setFrames m).isServing = s.isServing := rfl
@[simp] theorem State.setFrames_tagInUse (m : Sparse FrameState) (u : BitVec 8) :
    (s.setFrames m).tagInUse u = s.tagInUse u := rfl
@[simp] theorem State.setFrames_active (m : Sparse FrameState) : (s.setFrames m).active = s.active := rfl
@[simp] theorem State.setFrames_quiet (m : Sparse FrameState) : (s.setFrames m).quiet = s.quiet := rfl
@[simp] theorem State.setFrames_pattern (m : Sparse FrameState) : (s.setFrames m).pattern = s.pattern := rfl

/-! ### setTable -/

@[simp] theorem State.setTable_windows (a : AgentId) (t : SlotTable) : (s.setTable a t).windows = s.windows := rfl
@[simp] theorem State.setTable_tables (a : AgentId) (t : SlotTable) : (s.setTable a t).tables = s.tables.set a t := rfl
@[simp] theorem State.setTable_ports (a : AgentId) (t : SlotTable) : (s.setTable a t).ports = s.ports := rfl
@[simp] theorem State.setTable_fenceN (a : AgentId) (t : SlotTable) : (s.setTable a t).fenceN = s.fenceN := rfl
@[simp] theorem State.setTable_park (a : AgentId) (t : SlotTable) : (s.setTable a t).park = s.park := rfl
@[simp] theorem State.setTable_entries (a : AgentId) (t : SlotTable) : (s.setTable a t).entries = s.entries := rfl
@[simp] theorem State.setTable_groups (a : AgentId) (t : SlotTable) : (s.setTable a t).groups = s.groups := rfl
@[simp] theorem State.setTable_frames (a : AgentId) (t : SlotTable) : (s.setTable a t).frames = s.frames := rfl
@[simp] theorem State.setTable_scrub (a : AgentId) (t : SlotTable) : (s.setTable a t).scrub = s.scrub := rfl
@[simp] theorem State.setTable_device (a : AgentId) (t : SlotTable) : (s.setTable a t).device = s.device := rfl
@[simp] theorem State.setTable_tags (a : AgentId) (t : SlotTable) : (s.setTable a t).tags = s.tags := rfl
@[simp] theorem State.setTable_outbox (a : AgentId) (t : SlotTable) : (s.setTable a t).outbox = s.outbox := rfl
@[simp] theorem State.setTable_credit (a : AgentId) (t : SlotTable) : (s.setTable a t).credit = s.credit := rfl
@[simp] theorem State.setTable_noticeN (a : AgentId) (t : SlotTable) : (s.setTable a t).noticeN = s.noticeN := rfl
@[simp] theorem State.setTable_links (a : AgentId) (t : SlotTable) : (s.setTable a t).links = s.links := rfl
@[simp] theorem State.setTable_resetN (a : AgentId) (t : SlotTable) : (s.setTable a t).resetN = s.resetN := rfl
@[simp] theorem State.setTable_carrier (a : AgentId) (t : SlotTable) : (s.setTable a t).carrier = s.carrier := rfl
@[simp] theorem State.setTable_out (a : AgentId) (t : SlotTable) : (s.setTable a t).out = s.out := rfl
@[simp] theorem State.setTable_pending (a : AgentId) (t : SlotTable) : (s.setTable a t).pending = s.pending := rfl
@[simp] theorem State.setTable_behind (a : AgentId) (t : SlotTable) : (s.setTable a t).behind = s.behind := rfl
@[simp] theorem State.setTable_window (a : AgentId) (t : SlotTable) (v : Nat) :
    (s.setTable a t).window v = s.window v := rfl
@[simp] theorem State.setTable_frame (a : AgentId) (t : SlotTable) (f : Nat) :
    (s.setTable a t).frame f = s.frame f := rfl
@[simp] theorem State.setTable_port (a : AgentId) (t : SlotTable) (c : AgentId) :
    (s.setTable a t).port c = s.port c := rfl
@[simp] theorem State.setTable_entry (a : AgentId) (t : SlotTable) (j : Fin 16) :
    (s.setTable a t).entry j = s.entry j := rfl
@[simp] theorem State.setTable_group (a : AgentId) (t : SlotTable) (c : Fin 4) :
    (s.setTable a t).group c = s.group c := rfl
@[simp] theorem State.setTable_slot (a : AgentId) (t : SlotTable) (j : Fin 16) :
    (s.setTable a t).slot j = s.slot j := rfl
@[simp] theorem State.setTable_fill (a : AgentId) (t : SlotTable) (c : Fin 4) :
    (s.setTable a t).fill c = s.fill c := rfl
@[simp] theorem State.setTable_link (a : AgentId) (t : SlotTable) (c : LinkId) :
    (s.setTable a t).link c = s.link c := rfl
@[simp] theorem State.setTable_isUp (a : AgentId) (t : SlotTable) (c : LinkId) :
    (s.setTable a t).isUp c = s.isUp c := rfl
@[simp] theorem State.setTable_isAdmitted (a : AgentId) (t : SlotTable) (c : AgentId) :
    (s.setTable a t).isAdmitted c = s.isAdmitted c := rfl
@[simp] theorem State.setTable_condition (a : AgentId) (t : SlotTable) (v : Nat) :
    (s.setTable a t).condition v = s.condition v := rfl
@[simp] theorem State.setTable_frameCount (a : AgentId) (t : SlotTable) :
    (s.setTable a t).frameCount = s.frameCount := rfl
@[simp] theorem State.setTable_isServing (a : AgentId) (t : SlotTable) : (s.setTable a t).isServing = s.isServing := rfl
@[simp] theorem State.setTable_tagInUse (a : AgentId) (t : SlotTable) (u : BitVec 8) :
    (s.setTable a t).tagInUse u = s.tagInUse u := rfl
@[simp] theorem State.setTable_active (a : AgentId) (t : SlotTable) : (s.setTable a t).active = s.active := rfl
@[simp] theorem State.setTable_quiet (a : AgentId) (t : SlotTable) : (s.setTable a t).quiet = s.quiet := rfl
@[simp] theorem State.setTable_pattern (a : AgentId) (t : SlotTable) : (s.setTable a t).pattern = s.pattern := rfl

/-! ### setPort -/

@[simp] theorem State.setPort_windows (a : AgentId) (p : Port) : (s.setPort a p).windows = s.windows := rfl
@[simp] theorem State.setPort_tables (a : AgentId) (p : Port) : (s.setPort a p).tables = s.tables := rfl
@[simp] theorem State.setPort_ports (a : AgentId) (p : Port) : (s.setPort a p).ports = s.ports.set a p := rfl
@[simp] theorem State.setPort_fenceN (a : AgentId) (p : Port) : (s.setPort a p).fenceN = s.fenceN := rfl
@[simp] theorem State.setPort_park (a : AgentId) (p : Port) : (s.setPort a p).park = s.park := rfl
@[simp] theorem State.setPort_entries (a : AgentId) (p : Port) : (s.setPort a p).entries = s.entries := rfl
@[simp] theorem State.setPort_groups (a : AgentId) (p : Port) : (s.setPort a p).groups = s.groups := rfl
@[simp] theorem State.setPort_frames (a : AgentId) (p : Port) : (s.setPort a p).frames = s.frames := rfl
@[simp] theorem State.setPort_scrub (a : AgentId) (p : Port) : (s.setPort a p).scrub = s.scrub := rfl
@[simp] theorem State.setPort_device (a : AgentId) (p : Port) : (s.setPort a p).device = s.device := rfl
@[simp] theorem State.setPort_tags (a : AgentId) (p : Port) : (s.setPort a p).tags = s.tags := rfl
@[simp] theorem State.setPort_outbox (a : AgentId) (p : Port) : (s.setPort a p).outbox = s.outbox := rfl
@[simp] theorem State.setPort_credit (a : AgentId) (p : Port) : (s.setPort a p).credit = s.credit := rfl
@[simp] theorem State.setPort_noticeN (a : AgentId) (p : Port) : (s.setPort a p).noticeN = s.noticeN := rfl
@[simp] theorem State.setPort_links (a : AgentId) (p : Port) : (s.setPort a p).links = s.links := rfl
@[simp] theorem State.setPort_resetN (a : AgentId) (p : Port) : (s.setPort a p).resetN = s.resetN := rfl
@[simp] theorem State.setPort_carrier (a : AgentId) (p : Port) : (s.setPort a p).carrier = s.carrier := rfl
@[simp] theorem State.setPort_out (a : AgentId) (p : Port) : (s.setPort a p).out = s.out := rfl
@[simp] theorem State.setPort_pending (a : AgentId) (p : Port) : (s.setPort a p).pending = s.pending := rfl
@[simp] theorem State.setPort_behind (a : AgentId) (p : Port) : (s.setPort a p).behind = s.behind := rfl
@[simp] theorem State.setPort_window (a : AgentId) (p : Port) (v : Nat) : (s.setPort a p).window v = s.window v := rfl
@[simp] theorem State.setPort_frame (a : AgentId) (p : Port) (f : Nat) : (s.setPort a p).frame f = s.frame f := rfl
@[simp] theorem State.setPort_table (a : AgentId) (p : Port) (c : AgentId) : (s.setPort a p).table c = s.table c := rfl
@[simp] theorem State.setPort_entry (a : AgentId) (p : Port) (j : Fin 16) : (s.setPort a p).entry j = s.entry j := rfl
@[simp] theorem State.setPort_group (a : AgentId) (p : Port) (c : Fin 4) : (s.setPort a p).group c = s.group c := rfl
@[simp] theorem State.setPort_slot (a : AgentId) (p : Port) (j : Fin 16) : (s.setPort a p).slot j = s.slot j := rfl
@[simp] theorem State.setPort_fill (a : AgentId) (p : Port) (c : Fin 4) : (s.setPort a p).fill c = s.fill c := rfl
@[simp] theorem State.setPort_link (a : AgentId) (p : Port) (c : LinkId) : (s.setPort a p).link c = s.link c := rfl
@[simp] theorem State.setPort_isUp (a : AgentId) (p : Port) (c : LinkId) : (s.setPort a p).isUp c = s.isUp c := rfl
@[simp] theorem State.setPort_condition (a : AgentId) (p : Port) (v : Nat) :
    (s.setPort a p).condition v = s.condition v := rfl
@[simp] theorem State.setPort_frameCount (a : AgentId) (p : Port) : (s.setPort a p).frameCount = s.frameCount := rfl
@[simp] theorem State.setPort_isServing (a : AgentId) (p : Port) : (s.setPort a p).isServing = s.isServing := rfl
@[simp] theorem State.setPort_tagInUse (a : AgentId) (p : Port) (u : BitVec 8) :
    (s.setPort a p).tagInUse u = s.tagInUse u := rfl
@[simp] theorem State.setPort_active (a : AgentId) (p : Port) : (s.setPort a p).active = s.active := rfl
@[simp] theorem State.setPort_quiet (a : AgentId) (p : Port) : (s.setPort a p).quiet = s.quiet := rfl
@[simp] theorem State.setPort_pattern (a : AgentId) (p : Port) : (s.setPort a p).pattern = s.pattern := rfl

/-! ### setFence -/

@[simp] theorem State.setFence_windows (a : AgentId) (b : Bool) : (s.setFence a b).windows = s.windows := rfl
@[simp] theorem State.setFence_tables (a : AgentId) (b : Bool) : (s.setFence a b).tables = s.tables := rfl
@[simp] theorem State.setFence_ports (a : AgentId) (b : Bool) : (s.setFence a b).ports = s.ports := rfl
@[simp] theorem State.setFence_fenceN (a : AgentId) (b : Bool) : (s.setFence a b).fenceN = s.fenceN.set a b := rfl
@[simp] theorem State.setFence_park (a : AgentId) (b : Bool) : (s.setFence a b).park = s.park := rfl
@[simp] theorem State.setFence_entries (a : AgentId) (b : Bool) : (s.setFence a b).entries = s.entries := rfl
@[simp] theorem State.setFence_groups (a : AgentId) (b : Bool) : (s.setFence a b).groups = s.groups := rfl
@[simp] theorem State.setFence_frames (a : AgentId) (b : Bool) : (s.setFence a b).frames = s.frames := rfl
@[simp] theorem State.setFence_scrub (a : AgentId) (b : Bool) : (s.setFence a b).scrub = s.scrub := rfl
@[simp] theorem State.setFence_device (a : AgentId) (b : Bool) : (s.setFence a b).device = s.device := rfl
@[simp] theorem State.setFence_tags (a : AgentId) (b : Bool) : (s.setFence a b).tags = s.tags := rfl
@[simp] theorem State.setFence_outbox (a : AgentId) (b : Bool) : (s.setFence a b).outbox = s.outbox := rfl
@[simp] theorem State.setFence_credit (a : AgentId) (b : Bool) : (s.setFence a b).credit = s.credit := rfl
@[simp] theorem State.setFence_noticeN (a : AgentId) (b : Bool) : (s.setFence a b).noticeN = s.noticeN := rfl
@[simp] theorem State.setFence_links (a : AgentId) (b : Bool) : (s.setFence a b).links = s.links := rfl
@[simp] theorem State.setFence_resetN (a : AgentId) (b : Bool) : (s.setFence a b).resetN = s.resetN := rfl
@[simp] theorem State.setFence_carrier (a : AgentId) (b : Bool) : (s.setFence a b).carrier = s.carrier := rfl
@[simp] theorem State.setFence_out (a : AgentId) (b : Bool) : (s.setFence a b).out = s.out := rfl
@[simp] theorem State.setFence_pending (a : AgentId) (b : Bool) : (s.setFence a b).pending = s.pending := rfl
@[simp] theorem State.setFence_behind (a : AgentId) (b : Bool) : (s.setFence a b).behind = s.behind := rfl
@[simp] theorem State.setFence_window (a : AgentId) (b : Bool) (v : Nat) : (s.setFence a b).window v = s.window v := rfl
@[simp] theorem State.setFence_frame (a : AgentId) (b : Bool) (f : Nat) : (s.setFence a b).frame f = s.frame f := rfl
@[simp] theorem State.setFence_table (a : AgentId) (b : Bool) (c : AgentId) :
    (s.setFence a b).table c = s.table c := rfl
@[simp] theorem State.setFence_port (a : AgentId) (b : Bool) (c : AgentId) : (s.setFence a b).port c = s.port c := rfl
@[simp] theorem State.setFence_entry (a : AgentId) (b : Bool) (j : Fin 16) : (s.setFence a b).entry j = s.entry j := rfl
@[simp] theorem State.setFence_group (a : AgentId) (b : Bool) (c : Fin 4) : (s.setFence a b).group c = s.group c := rfl
@[simp] theorem State.setFence_slot (a : AgentId) (b : Bool) (j : Fin 16) : (s.setFence a b).slot j = s.slot j := rfl
@[simp] theorem State.setFence_fill (a : AgentId) (b : Bool) (c : Fin 4) : (s.setFence a b).fill c = s.fill c := rfl
@[simp] theorem State.setFence_link (a : AgentId) (b : Bool) (c : LinkId) : (s.setFence a b).link c = s.link c := rfl
@[simp] theorem State.setFence_isUp (a : AgentId) (b : Bool) (c : LinkId) : (s.setFence a b).isUp c = s.isUp c := rfl
@[simp] theorem State.setFence_isAdmitted (a : AgentId) (b : Bool) (c : AgentId) :
    (s.setFence a b).isAdmitted c = s.isAdmitted c := rfl
@[simp] theorem State.setFence_condition (a : AgentId) (b : Bool) (v : Nat) :
    (s.setFence a b).condition v = s.condition v := rfl
@[simp] theorem State.setFence_frameCount (a : AgentId) (b : Bool) : (s.setFence a b).frameCount = s.frameCount := rfl
@[simp] theorem State.setFence_isServing (a : AgentId) (b : Bool) : (s.setFence a b).isServing = s.isServing := rfl
@[simp] theorem State.setFence_tagInUse (a : AgentId) (b : Bool) (u : BitVec 8) :
    (s.setFence a b).tagInUse u = s.tagInUse u := rfl
@[simp] theorem State.setFence_active (a : AgentId) (b : Bool) : (s.setFence a b).active = s.active := rfl
@[simp] theorem State.setFence_quiet (a : AgentId) (b : Bool) : (s.setFence a b).quiet = s.quiet := rfl
@[simp] theorem State.setFence_pattern (a : AgentId) (b : Bool) : (s.setFence a b).pattern = s.pattern := rfl

/-! ### setPark -/

@[simp] theorem State.setPark_windows (l : List Parked) : (s.setPark l).windows = s.windows := rfl
@[simp] theorem State.setPark_tables (l : List Parked) : (s.setPark l).tables = s.tables := rfl
@[simp] theorem State.setPark_ports (l : List Parked) : (s.setPark l).ports = s.ports := rfl
@[simp] theorem State.setPark_fenceN (l : List Parked) : (s.setPark l).fenceN = s.fenceN := rfl
@[simp] theorem State.setPark_park (l : List Parked) : (s.setPark l).park = l := rfl
@[simp] theorem State.setPark_entries (l : List Parked) : (s.setPark l).entries = s.entries := rfl
@[simp] theorem State.setPark_groups (l : List Parked) : (s.setPark l).groups = s.groups := rfl
@[simp] theorem State.setPark_frames (l : List Parked) : (s.setPark l).frames = s.frames := rfl
@[simp] theorem State.setPark_scrub (l : List Parked) : (s.setPark l).scrub = s.scrub := rfl
@[simp] theorem State.setPark_device (l : List Parked) : (s.setPark l).device = s.device := rfl
@[simp] theorem State.setPark_tags (l : List Parked) : (s.setPark l).tags = s.tags := rfl
@[simp] theorem State.setPark_outbox (l : List Parked) : (s.setPark l).outbox = s.outbox := rfl
@[simp] theorem State.setPark_credit (l : List Parked) : (s.setPark l).credit = s.credit := rfl
@[simp] theorem State.setPark_noticeN (l : List Parked) : (s.setPark l).noticeN = s.noticeN := rfl
@[simp] theorem State.setPark_links (l : List Parked) : (s.setPark l).links = s.links := rfl
@[simp] theorem State.setPark_resetN (l : List Parked) : (s.setPark l).resetN = s.resetN := rfl
@[simp] theorem State.setPark_carrier (l : List Parked) : (s.setPark l).carrier = s.carrier := rfl
@[simp] theorem State.setPark_out (l : List Parked) : (s.setPark l).out = s.out := rfl
@[simp] theorem State.setPark_pending (l : List Parked) : (s.setPark l).pending = s.pending := rfl
@[simp] theorem State.setPark_behind (l : List Parked) : (s.setPark l).behind = s.behind := rfl
@[simp] theorem State.setPark_window (l : List Parked) (v : Nat) : (s.setPark l).window v = s.window v := rfl
@[simp] theorem State.setPark_frame (l : List Parked) (f : Nat) : (s.setPark l).frame f = s.frame f := rfl
@[simp] theorem State.setPark_table (l : List Parked) (c : AgentId) : (s.setPark l).table c = s.table c := rfl
@[simp] theorem State.setPark_port (l : List Parked) (c : AgentId) : (s.setPark l).port c = s.port c := rfl
@[simp] theorem State.setPark_entry (l : List Parked) (j : Fin 16) : (s.setPark l).entry j = s.entry j := rfl
@[simp] theorem State.setPark_group (l : List Parked) (c : Fin 4) : (s.setPark l).group c = s.group c := rfl
@[simp] theorem State.setPark_slot (l : List Parked) (j : Fin 16) : (s.setPark l).slot j = s.slot j := rfl
@[simp] theorem State.setPark_fill (l : List Parked) (c : Fin 4) : (s.setPark l).fill c = s.fill c := rfl
@[simp] theorem State.setPark_link (l : List Parked) (c : LinkId) : (s.setPark l).link c = s.link c := rfl
@[simp] theorem State.setPark_isUp (l : List Parked) (c : LinkId) : (s.setPark l).isUp c = s.isUp c := rfl
@[simp] theorem State.setPark_isAdmitted (l : List Parked) (c : AgentId) :
    (s.setPark l).isAdmitted c = s.isAdmitted c := rfl
@[simp] theorem State.setPark_condition (l : List Parked) (v : Nat) : (s.setPark l).condition v = s.condition v := rfl
@[simp] theorem State.setPark_frameCount (l : List Parked) : (s.setPark l).frameCount = s.frameCount := rfl
@[simp] theorem State.setPark_isServing (l : List Parked) : (s.setPark l).isServing = s.isServing := rfl
@[simp] theorem State.setPark_tagInUse (l : List Parked) (u : BitVec 8) : (s.setPark l).tagInUse u = s.tagInUse u := rfl
@[simp] theorem State.setPark_active (l : List Parked) : (s.setPark l).active = s.active := rfl
@[simp] theorem State.setPark_quiet (l : List Parked) : (s.setPark l).quiet = s.quiet := rfl
@[simp] theorem State.setPark_pattern (l : List Parked) : (s.setPark l).pattern = s.pattern := rfl

/-! ### setEntry -/

@[simp] theorem State.setEntry_windows (e : Fin 16) (x : Option Entry) : (s.setEntry e x).windows = s.windows := rfl
@[simp] theorem State.setEntry_tables (e : Fin 16) (x : Option Entry) : (s.setEntry e x).tables = s.tables := rfl
@[simp] theorem State.setEntry_ports (e : Fin 16) (x : Option Entry) : (s.setEntry e x).ports = s.ports := rfl
@[simp] theorem State.setEntry_fenceN (e : Fin 16) (x : Option Entry) : (s.setEntry e x).fenceN = s.fenceN := rfl
@[simp] theorem State.setEntry_park (e : Fin 16) (x : Option Entry) : (s.setEntry e x).park = s.park := rfl
@[simp] theorem State.setEntry_entries (e : Fin 16) (x : Option Entry) :
    (s.setEntry e x).entries = s.entries.set e x := rfl
@[simp] theorem State.setEntry_groups (e : Fin 16) (x : Option Entry) : (s.setEntry e x).groups = s.groups := rfl
@[simp] theorem State.setEntry_frames (e : Fin 16) (x : Option Entry) : (s.setEntry e x).frames = s.frames := rfl
@[simp] theorem State.setEntry_scrub (e : Fin 16) (x : Option Entry) : (s.setEntry e x).scrub = s.scrub := rfl
@[simp] theorem State.setEntry_device (e : Fin 16) (x : Option Entry) : (s.setEntry e x).device = s.device := rfl
@[simp] theorem State.setEntry_tags (e : Fin 16) (x : Option Entry) : (s.setEntry e x).tags = s.tags := rfl
@[simp] theorem State.setEntry_outbox (e : Fin 16) (x : Option Entry) : (s.setEntry e x).outbox = s.outbox := rfl
@[simp] theorem State.setEntry_credit (e : Fin 16) (x : Option Entry) : (s.setEntry e x).credit = s.credit := rfl
@[simp] theorem State.setEntry_noticeN (e : Fin 16) (x : Option Entry) : (s.setEntry e x).noticeN = s.noticeN := rfl
@[simp] theorem State.setEntry_links (e : Fin 16) (x : Option Entry) : (s.setEntry e x).links = s.links := rfl
@[simp] theorem State.setEntry_resetN (e : Fin 16) (x : Option Entry) : (s.setEntry e x).resetN = s.resetN := rfl
@[simp] theorem State.setEntry_carrier (e : Fin 16) (x : Option Entry) : (s.setEntry e x).carrier = s.carrier := rfl
@[simp] theorem State.setEntry_out (e : Fin 16) (x : Option Entry) : (s.setEntry e x).out = s.out := rfl
@[simp] theorem State.setEntry_pending (e : Fin 16) (x : Option Entry) : (s.setEntry e x).pending = s.pending := rfl
@[simp] theorem State.setEntry_behind (e : Fin 16) (x : Option Entry) : (s.setEntry e x).behind = s.behind := rfl
@[simp] theorem State.setEntry_window (e : Fin 16) (x : Option Entry) (v : Nat) :
    (s.setEntry e x).window v = s.window v := rfl
@[simp] theorem State.setEntry_frame (e : Fin 16) (x : Option Entry) (f : Nat) :
    (s.setEntry e x).frame f = s.frame f := rfl
@[simp] theorem State.setEntry_table (e : Fin 16) (x : Option Entry) (c : AgentId) :
    (s.setEntry e x).table c = s.table c := rfl
@[simp] theorem State.setEntry_port (e : Fin 16) (x : Option Entry) (c : AgentId) :
    (s.setEntry e x).port c = s.port c := rfl
@[simp] theorem State.setEntry_group (e : Fin 16) (x : Option Entry) (c : Fin 4) :
    (s.setEntry e x).group c = s.group c := rfl
@[simp] theorem State.setEntry_slot (e : Fin 16) (x : Option Entry) (j : Fin 16) :
    (s.setEntry e x).slot j = s.slot j := rfl
@[simp] theorem State.setEntry_fill (e : Fin 16) (x : Option Entry) (c : Fin 4) :
    (s.setEntry e x).fill c = s.fill c := rfl
@[simp] theorem State.setEntry_link (e : Fin 16) (x : Option Entry) (c : LinkId) :
    (s.setEntry e x).link c = s.link c := rfl
@[simp] theorem State.setEntry_isUp (e : Fin 16) (x : Option Entry) (c : LinkId) :
    (s.setEntry e x).isUp c = s.isUp c := rfl
@[simp] theorem State.setEntry_isAdmitted (e : Fin 16) (x : Option Entry) (c : AgentId) :
    (s.setEntry e x).isAdmitted c = s.isAdmitted c := rfl
@[simp] theorem State.setEntry_frameCount (e : Fin 16) (x : Option Entry) :
    (s.setEntry e x).frameCount = s.frameCount := rfl
@[simp] theorem State.setEntry_isServing (e : Fin 16) (x : Option Entry) :
    (s.setEntry e x).isServing = s.isServing := rfl
@[simp] theorem State.setEntry_tagInUse (e : Fin 16) (x : Option Entry) (u : BitVec 8) :
    (s.setEntry e x).tagInUse u = s.tagInUse u := rfl
@[simp] theorem State.setEntry_active (e : Fin 16) (x : Option Entry) : (s.setEntry e x).active = s.active := rfl
@[simp] theorem State.setEntry_quiet (e : Fin 16) (x : Option Entry) : (s.setEntry e x).quiet = s.quiet := rfl
@[simp] theorem State.setEntry_pattern (e : Fin 16) (x : Option Entry) : (s.setEntry e x).pattern = s.pattern := rfl

/-! ### setGroup -/

@[simp] theorem State.setGroup_windows (g : Fin 4) (x : Group) : (s.setGroup g x).windows = s.windows := rfl
@[simp] theorem State.setGroup_tables (g : Fin 4) (x : Group) : (s.setGroup g x).tables = s.tables := rfl
@[simp] theorem State.setGroup_ports (g : Fin 4) (x : Group) : (s.setGroup g x).ports = s.ports := rfl
@[simp] theorem State.setGroup_fenceN (g : Fin 4) (x : Group) : (s.setGroup g x).fenceN = s.fenceN := rfl
@[simp] theorem State.setGroup_park (g : Fin 4) (x : Group) : (s.setGroup g x).park = s.park := rfl
@[simp] theorem State.setGroup_entries (g : Fin 4) (x : Group) : (s.setGroup g x).entries = s.entries := rfl
@[simp] theorem State.setGroup_groups (g : Fin 4) (x : Group) : (s.setGroup g x).groups = s.groups.set g x := rfl
@[simp] theorem State.setGroup_frames (g : Fin 4) (x : Group) : (s.setGroup g x).frames = s.frames := rfl
@[simp] theorem State.setGroup_scrub (g : Fin 4) (x : Group) : (s.setGroup g x).scrub = s.scrub := rfl
@[simp] theorem State.setGroup_device (g : Fin 4) (x : Group) : (s.setGroup g x).device = s.device := rfl
@[simp] theorem State.setGroup_tags (g : Fin 4) (x : Group) : (s.setGroup g x).tags = s.tags := rfl
@[simp] theorem State.setGroup_outbox (g : Fin 4) (x : Group) : (s.setGroup g x).outbox = s.outbox := rfl
@[simp] theorem State.setGroup_credit (g : Fin 4) (x : Group) : (s.setGroup g x).credit = s.credit := rfl
@[simp] theorem State.setGroup_noticeN (g : Fin 4) (x : Group) : (s.setGroup g x).noticeN = s.noticeN := rfl
@[simp] theorem State.setGroup_links (g : Fin 4) (x : Group) : (s.setGroup g x).links = s.links := rfl
@[simp] theorem State.setGroup_resetN (g : Fin 4) (x : Group) : (s.setGroup g x).resetN = s.resetN := rfl
@[simp] theorem State.setGroup_carrier (g : Fin 4) (x : Group) : (s.setGroup g x).carrier = s.carrier := rfl
@[simp] theorem State.setGroup_out (g : Fin 4) (x : Group) : (s.setGroup g x).out = s.out := rfl
@[simp] theorem State.setGroup_pending (g : Fin 4) (x : Group) : (s.setGroup g x).pending = s.pending := rfl
@[simp] theorem State.setGroup_behind (g : Fin 4) (x : Group) : (s.setGroup g x).behind = s.behind := rfl
@[simp] theorem State.setGroup_window (g : Fin 4) (x : Group) (v : Nat) : (s.setGroup g x).window v = s.window v := rfl
@[simp] theorem State.setGroup_frame (g : Fin 4) (x : Group) (f : Nat) : (s.setGroup g x).frame f = s.frame f := rfl
@[simp] theorem State.setGroup_table (g : Fin 4) (x : Group) (c : AgentId) : (s.setGroup g x).table c = s.table c := rfl
@[simp] theorem State.setGroup_port (g : Fin 4) (x : Group) (c : AgentId) : (s.setGroup g x).port c = s.port c := rfl
@[simp] theorem State.setGroup_entry (g : Fin 4) (x : Group) (j : Fin 16) : (s.setGroup g x).entry j = s.entry j := rfl
@[simp] theorem State.setGroup_slot (g : Fin 4) (x : Group) (j : Fin 16) : (s.setGroup g x).slot j = s.slot j := rfl
@[simp] theorem State.setGroup_fill (g : Fin 4) (x : Group) (c : Fin 4) : (s.setGroup g x).fill c = s.fill c := rfl
@[simp] theorem State.setGroup_link (g : Fin 4) (x : Group) (c : LinkId) : (s.setGroup g x).link c = s.link c := rfl
@[simp] theorem State.setGroup_isUp (g : Fin 4) (x : Group) (c : LinkId) : (s.setGroup g x).isUp c = s.isUp c := rfl
@[simp] theorem State.setGroup_isAdmitted (g : Fin 4) (x : Group) (c : AgentId) :
    (s.setGroup g x).isAdmitted c = s.isAdmitted c := rfl
@[simp] theorem State.setGroup_condition (g : Fin 4) (x : Group) (v : Nat) :
    (s.setGroup g x).condition v = s.condition v := rfl
@[simp] theorem State.setGroup_frameCount (g : Fin 4) (x : Group) : (s.setGroup g x).frameCount = s.frameCount := rfl
@[simp] theorem State.setGroup_isServing (g : Fin 4) (x : Group) : (s.setGroup g x).isServing = s.isServing := rfl
@[simp] theorem State.setGroup_tagInUse (g : Fin 4) (x : Group) (u : BitVec 8) :
    (s.setGroup g x).tagInUse u = s.tagInUse u := rfl
@[simp] theorem State.setGroup_active (g : Fin 4) (x : Group) : (s.setGroup g x).active = s.active := rfl
@[simp] theorem State.setGroup_quiet (g : Fin 4) (x : Group) : (s.setGroup g x).quiet = s.quiet := rfl
@[simp] theorem State.setGroup_pattern (g : Fin 4) (x : Group) : (s.setGroup g x).pattern = s.pattern := rfl

/-! ### setScrub -/

@[simp] theorem State.setScrub_windows (x : Scrub) : (s.setScrub x).windows = s.windows := rfl
@[simp] theorem State.setScrub_tables (x : Scrub) : (s.setScrub x).tables = s.tables := rfl
@[simp] theorem State.setScrub_ports (x : Scrub) : (s.setScrub x).ports = s.ports := rfl
@[simp] theorem State.setScrub_fenceN (x : Scrub) : (s.setScrub x).fenceN = s.fenceN := rfl
@[simp] theorem State.setScrub_park (x : Scrub) : (s.setScrub x).park = s.park := rfl
@[simp] theorem State.setScrub_entries (x : Scrub) : (s.setScrub x).entries = s.entries := rfl
@[simp] theorem State.setScrub_groups (x : Scrub) : (s.setScrub x).groups = s.groups := rfl
@[simp] theorem State.setScrub_frames (x : Scrub) : (s.setScrub x).frames = s.frames := rfl
@[simp] theorem State.setScrub_scrub (x : Scrub) : (s.setScrub x).scrub = x := rfl
@[simp] theorem State.setScrub_device (x : Scrub) : (s.setScrub x).device = s.device := rfl
@[simp] theorem State.setScrub_tags (x : Scrub) : (s.setScrub x).tags = s.tags := rfl
@[simp] theorem State.setScrub_outbox (x : Scrub) : (s.setScrub x).outbox = s.outbox := rfl
@[simp] theorem State.setScrub_credit (x : Scrub) : (s.setScrub x).credit = s.credit := rfl
@[simp] theorem State.setScrub_noticeN (x : Scrub) : (s.setScrub x).noticeN = s.noticeN := rfl
@[simp] theorem State.setScrub_links (x : Scrub) : (s.setScrub x).links = s.links := rfl
@[simp] theorem State.setScrub_resetN (x : Scrub) : (s.setScrub x).resetN = s.resetN := rfl
@[simp] theorem State.setScrub_carrier (x : Scrub) : (s.setScrub x).carrier = s.carrier := rfl
@[simp] theorem State.setScrub_out (x : Scrub) : (s.setScrub x).out = s.out := rfl
@[simp] theorem State.setScrub_pending (x : Scrub) : (s.setScrub x).pending = s.pending := rfl
@[simp] theorem State.setScrub_behind (x : Scrub) : (s.setScrub x).behind = s.behind := rfl
@[simp] theorem State.setScrub_window (x : Scrub) (v : Nat) : (s.setScrub x).window v = s.window v := rfl
@[simp] theorem State.setScrub_frame (x : Scrub) (f : Nat) : (s.setScrub x).frame f = s.frame f := rfl
@[simp] theorem State.setScrub_table (x : Scrub) (c : AgentId) : (s.setScrub x).table c = s.table c := rfl
@[simp] theorem State.setScrub_port (x : Scrub) (c : AgentId) : (s.setScrub x).port c = s.port c := rfl
@[simp] theorem State.setScrub_entry (x : Scrub) (j : Fin 16) : (s.setScrub x).entry j = s.entry j := rfl
@[simp] theorem State.setScrub_group (x : Scrub) (c : Fin 4) : (s.setScrub x).group c = s.group c := rfl
@[simp] theorem State.setScrub_link (x : Scrub) (c : LinkId) : (s.setScrub x).link c = s.link c := rfl
@[simp] theorem State.setScrub_isUp (x : Scrub) (c : LinkId) : (s.setScrub x).isUp c = s.isUp c := rfl
@[simp] theorem State.setScrub_isAdmitted (x : Scrub) (c : AgentId) :
    (s.setScrub x).isAdmitted c = s.isAdmitted c := rfl
@[simp] theorem State.setScrub_condition (x : Scrub) (v : Nat) : (s.setScrub x).condition v = s.condition v := rfl
@[simp] theorem State.setScrub_frameCount (x : Scrub) : (s.setScrub x).frameCount = s.frameCount := rfl
@[simp] theorem State.setScrub_isServing (x : Scrub) : (s.setScrub x).isServing = s.isServing := rfl
@[simp] theorem State.setScrub_tagInUse (x : Scrub) (u : BitVec 8) : (s.setScrub x).tagInUse u = s.tagInUse u := rfl
@[simp] theorem State.setScrub_pattern (x : Scrub) : (s.setScrub x).pattern = s.pattern := rfl

/-! ### setSlot -/

@[simp] theorem State.setSlot_windows (i : Fin 16) (x : ScrubSlot) : (s.setSlot i x).windows = s.windows := rfl
@[simp] theorem State.setSlot_tables (i : Fin 16) (x : ScrubSlot) : (s.setSlot i x).tables = s.tables := rfl
@[simp] theorem State.setSlot_ports (i : Fin 16) (x : ScrubSlot) : (s.setSlot i x).ports = s.ports := rfl
@[simp] theorem State.setSlot_fenceN (i : Fin 16) (x : ScrubSlot) : (s.setSlot i x).fenceN = s.fenceN := rfl
@[simp] theorem State.setSlot_park (i : Fin 16) (x : ScrubSlot) : (s.setSlot i x).park = s.park := rfl
@[simp] theorem State.setSlot_entries (i : Fin 16) (x : ScrubSlot) : (s.setSlot i x).entries = s.entries := rfl
@[simp] theorem State.setSlot_groups (i : Fin 16) (x : ScrubSlot) : (s.setSlot i x).groups = s.groups := rfl
@[simp] theorem State.setSlot_frames (i : Fin 16) (x : ScrubSlot) : (s.setSlot i x).frames = s.frames := rfl
@[simp] theorem State.setSlot_scrub (i : Fin 16) (x : ScrubSlot) :
    (s.setSlot i x).scrub = { s.scrub with slots := s.scrub.slots.set i x } := rfl
@[simp] theorem State.setSlot_device (i : Fin 16) (x : ScrubSlot) : (s.setSlot i x).device = s.device := rfl
@[simp] theorem State.setSlot_tags (i : Fin 16) (x : ScrubSlot) : (s.setSlot i x).tags = s.tags := rfl
@[simp] theorem State.setSlot_outbox (i : Fin 16) (x : ScrubSlot) : (s.setSlot i x).outbox = s.outbox := rfl
@[simp] theorem State.setSlot_credit (i : Fin 16) (x : ScrubSlot) : (s.setSlot i x).credit = s.credit := rfl
@[simp] theorem State.setSlot_noticeN (i : Fin 16) (x : ScrubSlot) : (s.setSlot i x).noticeN = s.noticeN := rfl
@[simp] theorem State.setSlot_links (i : Fin 16) (x : ScrubSlot) : (s.setSlot i x).links = s.links := rfl
@[simp] theorem State.setSlot_resetN (i : Fin 16) (x : ScrubSlot) : (s.setSlot i x).resetN = s.resetN := rfl
@[simp] theorem State.setSlot_carrier (i : Fin 16) (x : ScrubSlot) : (s.setSlot i x).carrier = s.carrier := rfl
@[simp] theorem State.setSlot_out (i : Fin 16) (x : ScrubSlot) : (s.setSlot i x).out = s.out := rfl
@[simp] theorem State.setSlot_pending (i : Fin 16) (x : ScrubSlot) : (s.setSlot i x).pending = s.pending := rfl
@[simp] theorem State.setSlot_behind (i : Fin 16) (x : ScrubSlot) : (s.setSlot i x).behind = s.behind := rfl
@[simp] theorem State.setSlot_window (i : Fin 16) (x : ScrubSlot) (v : Nat) :
    (s.setSlot i x).window v = s.window v := rfl
@[simp] theorem State.setSlot_frame (i : Fin 16) (x : ScrubSlot) (f : Nat) : (s.setSlot i x).frame f = s.frame f := rfl
@[simp] theorem State.setSlot_table (i : Fin 16) (x : ScrubSlot) (c : AgentId) :
    (s.setSlot i x).table c = s.table c := rfl
@[simp] theorem State.setSlot_port (i : Fin 16) (x : ScrubSlot) (c : AgentId) : (s.setSlot i x).port c = s.port c := rfl
@[simp] theorem State.setSlot_entry (i : Fin 16) (x : ScrubSlot) (j : Fin 16) :
    (s.setSlot i x).entry j = s.entry j := rfl
@[simp] theorem State.setSlot_group (i : Fin 16) (x : ScrubSlot) (c : Fin 4) :
    (s.setSlot i x).group c = s.group c := rfl
@[simp] theorem State.setSlot_link (i : Fin 16) (x : ScrubSlot) (c : LinkId) : (s.setSlot i x).link c = s.link c := rfl
@[simp] theorem State.setSlot_isUp (i : Fin 16) (x : ScrubSlot) (c : LinkId) : (s.setSlot i x).isUp c = s.isUp c := rfl
@[simp] theorem State.setSlot_isAdmitted (i : Fin 16) (x : ScrubSlot) (c : AgentId) :
    (s.setSlot i x).isAdmitted c = s.isAdmitted c := rfl
@[simp] theorem State.setSlot_condition (i : Fin 16) (x : ScrubSlot) (v : Nat) :
    (s.setSlot i x).condition v = s.condition v := rfl
@[simp] theorem State.setSlot_frameCount (i : Fin 16) (x : ScrubSlot) : (s.setSlot i x).frameCount = s.frameCount := rfl
@[simp] theorem State.setSlot_isServing (i : Fin 16) (x : ScrubSlot) : (s.setSlot i x).isServing = s.isServing := rfl
@[simp] theorem State.setSlot_tagInUse (i : Fin 16) (x : ScrubSlot) (u : BitVec 8) :
    (s.setSlot i x).tagInUse u = s.tagInUse u := rfl
@[simp] theorem State.setSlot_pattern (i : Fin 16) (x : ScrubSlot) : (s.setSlot i x).pattern = s.pattern := rfl

/-! ### setFill -/

@[simp] theorem State.setFill_windows (k : Fin 4) (x : Option Fill) : (s.setFill k x).windows = s.windows := rfl
@[simp] theorem State.setFill_tables (k : Fin 4) (x : Option Fill) : (s.setFill k x).tables = s.tables := rfl
@[simp] theorem State.setFill_ports (k : Fin 4) (x : Option Fill) : (s.setFill k x).ports = s.ports := rfl
@[simp] theorem State.setFill_fenceN (k : Fin 4) (x : Option Fill) : (s.setFill k x).fenceN = s.fenceN := rfl
@[simp] theorem State.setFill_park (k : Fin 4) (x : Option Fill) : (s.setFill k x).park = s.park := rfl
@[simp] theorem State.setFill_entries (k : Fin 4) (x : Option Fill) : (s.setFill k x).entries = s.entries := rfl
@[simp] theorem State.setFill_groups (k : Fin 4) (x : Option Fill) : (s.setFill k x).groups = s.groups := rfl
@[simp] theorem State.setFill_frames (k : Fin 4) (x : Option Fill) : (s.setFill k x).frames = s.frames := rfl
@[simp] theorem State.setFill_scrub (k : Fin 4) (x : Option Fill) :
    (s.setFill k x).scrub = { s.scrub with fills := s.scrub.fills.set k x } := rfl
@[simp] theorem State.setFill_device (k : Fin 4) (x : Option Fill) : (s.setFill k x).device = s.device := rfl
@[simp] theorem State.setFill_tags (k : Fin 4) (x : Option Fill) : (s.setFill k x).tags = s.tags := rfl
@[simp] theorem State.setFill_outbox (k : Fin 4) (x : Option Fill) : (s.setFill k x).outbox = s.outbox := rfl
@[simp] theorem State.setFill_credit (k : Fin 4) (x : Option Fill) : (s.setFill k x).credit = s.credit := rfl
@[simp] theorem State.setFill_noticeN (k : Fin 4) (x : Option Fill) : (s.setFill k x).noticeN = s.noticeN := rfl
@[simp] theorem State.setFill_links (k : Fin 4) (x : Option Fill) : (s.setFill k x).links = s.links := rfl
@[simp] theorem State.setFill_resetN (k : Fin 4) (x : Option Fill) : (s.setFill k x).resetN = s.resetN := rfl
@[simp] theorem State.setFill_carrier (k : Fin 4) (x : Option Fill) : (s.setFill k x).carrier = s.carrier := rfl
@[simp] theorem State.setFill_out (k : Fin 4) (x : Option Fill) : (s.setFill k x).out = s.out := rfl
@[simp] theorem State.setFill_pending (k : Fin 4) (x : Option Fill) : (s.setFill k x).pending = s.pending := rfl
@[simp] theorem State.setFill_behind (k : Fin 4) (x : Option Fill) : (s.setFill k x).behind = s.behind := rfl
@[simp] theorem State.setFill_window (k : Fin 4) (x : Option Fill) (v : Nat) :
    (s.setFill k x).window v = s.window v := rfl
@[simp] theorem State.setFill_frame (k : Fin 4) (x : Option Fill) (f : Nat) : (s.setFill k x).frame f = s.frame f := rfl
@[simp] theorem State.setFill_table (k : Fin 4) (x : Option Fill) (c : AgentId) :
    (s.setFill k x).table c = s.table c := rfl
@[simp] theorem State.setFill_port (k : Fin 4) (x : Option Fill) (c : AgentId) :
    (s.setFill k x).port c = s.port c := rfl
@[simp] theorem State.setFill_entry (k : Fin 4) (x : Option Fill) (j : Fin 16) :
    (s.setFill k x).entry j = s.entry j := rfl
@[simp] theorem State.setFill_group (k : Fin 4) (x : Option Fill) (c : Fin 4) :
    (s.setFill k x).group c = s.group c := rfl
@[simp] theorem State.setFill_link (k : Fin 4) (x : Option Fill) (c : LinkId) : (s.setFill k x).link c = s.link c := rfl
@[simp] theorem State.setFill_isUp (k : Fin 4) (x : Option Fill) (c : LinkId) : (s.setFill k x).isUp c = s.isUp c := rfl
@[simp] theorem State.setFill_isAdmitted (k : Fin 4) (x : Option Fill) (c : AgentId) :
    (s.setFill k x).isAdmitted c = s.isAdmitted c := rfl
@[simp] theorem State.setFill_condition (k : Fin 4) (x : Option Fill) (v : Nat) :
    (s.setFill k x).condition v = s.condition v := rfl
@[simp] theorem State.setFill_frameCount (k : Fin 4) (x : Option Fill) :
    (s.setFill k x).frameCount = s.frameCount := rfl
@[simp] theorem State.setFill_isServing (k : Fin 4) (x : Option Fill) : (s.setFill k x).isServing = s.isServing := rfl
@[simp] theorem State.setFill_tagInUse (k : Fin 4) (x : Option Fill) (u : BitVec 8) :
    (s.setFill k x).tagInUse u = s.tagInUse u := rfl
@[simp] theorem State.setFill_pattern (k : Fin 4) (x : Option Fill) : (s.setFill k x).pattern = s.pattern := rfl

/-! ### setEngine -/

@[simp] theorem State.setEngine_windows (x : Engine) : (s.setEngine x).windows = s.windows := rfl
@[simp] theorem State.setEngine_tables (x : Engine) : (s.setEngine x).tables = s.tables := rfl
@[simp] theorem State.setEngine_ports (x : Engine) : (s.setEngine x).ports = s.ports := rfl
@[simp] theorem State.setEngine_fenceN (x : Engine) : (s.setEngine x).fenceN = s.fenceN := rfl
@[simp] theorem State.setEngine_park (x : Engine) : (s.setEngine x).park = s.park := rfl
@[simp] theorem State.setEngine_entries (x : Engine) : (s.setEngine x).entries = s.entries := rfl
@[simp] theorem State.setEngine_groups (x : Engine) : (s.setEngine x).groups = s.groups := rfl
@[simp] theorem State.setEngine_frames (x : Engine) : (s.setEngine x).frames = s.frames := rfl
@[simp] theorem State.setEngine_scrub (x : Engine) : (s.setEngine x).scrub = { s.scrub with engine := x } := rfl
@[simp] theorem State.setEngine_device (x : Engine) : (s.setEngine x).device = s.device := rfl
@[simp] theorem State.setEngine_tags (x : Engine) : (s.setEngine x).tags = s.tags := rfl
@[simp] theorem State.setEngine_outbox (x : Engine) : (s.setEngine x).outbox = s.outbox := rfl
@[simp] theorem State.setEngine_credit (x : Engine) : (s.setEngine x).credit = s.credit := rfl
@[simp] theorem State.setEngine_noticeN (x : Engine) : (s.setEngine x).noticeN = s.noticeN := rfl
@[simp] theorem State.setEngine_links (x : Engine) : (s.setEngine x).links = s.links := rfl
@[simp] theorem State.setEngine_resetN (x : Engine) : (s.setEngine x).resetN = s.resetN := rfl
@[simp] theorem State.setEngine_carrier (x : Engine) : (s.setEngine x).carrier = s.carrier := rfl
@[simp] theorem State.setEngine_out (x : Engine) : (s.setEngine x).out = s.out := rfl
@[simp] theorem State.setEngine_pending (x : Engine) : (s.setEngine x).pending = s.pending := rfl
@[simp] theorem State.setEngine_behind (x : Engine) : (s.setEngine x).behind = s.behind := rfl
@[simp] theorem State.setEngine_window (x : Engine) (v : Nat) : (s.setEngine x).window v = s.window v := rfl
@[simp] theorem State.setEngine_frame (x : Engine) (f : Nat) : (s.setEngine x).frame f = s.frame f := rfl
@[simp] theorem State.setEngine_table (x : Engine) (c : AgentId) : (s.setEngine x).table c = s.table c := rfl
@[simp] theorem State.setEngine_port (x : Engine) (c : AgentId) : (s.setEngine x).port c = s.port c := rfl
@[simp] theorem State.setEngine_entry (x : Engine) (j : Fin 16) : (s.setEngine x).entry j = s.entry j := rfl
@[simp] theorem State.setEngine_group (x : Engine) (c : Fin 4) : (s.setEngine x).group c = s.group c := rfl
@[simp] theorem State.setEngine_link (x : Engine) (c : LinkId) : (s.setEngine x).link c = s.link c := rfl
@[simp] theorem State.setEngine_isUp (x : Engine) (c : LinkId) : (s.setEngine x).isUp c = s.isUp c := rfl
@[simp] theorem State.setEngine_isAdmitted (x : Engine) (c : AgentId) :
    (s.setEngine x).isAdmitted c = s.isAdmitted c := rfl
@[simp] theorem State.setEngine_condition (x : Engine) (v : Nat) : (s.setEngine x).condition v = s.condition v := rfl
@[simp] theorem State.setEngine_frameCount (x : Engine) : (s.setEngine x).frameCount = s.frameCount := rfl
@[simp] theorem State.setEngine_isServing (x : Engine) : (s.setEngine x).isServing = s.isServing := rfl
@[simp] theorem State.setEngine_tagInUse (x : Engine) (u : BitVec 8) : (s.setEngine x).tagInUse u = s.tagInUse u := rfl
@[simp] theorem State.setEngine_pattern (x : Engine) : (s.setEngine x).pattern = s.pattern := rfl

/-! ### addTag -/

@[simp] theorem State.addTag_windows (t : BitVec 8) : (s.addTag t).windows = s.windows := rfl
@[simp] theorem State.addTag_tables (t : BitVec 8) : (s.addTag t).tables = s.tables := rfl
@[simp] theorem State.addTag_ports (t : BitVec 8) : (s.addTag t).ports = s.ports := rfl
@[simp] theorem State.addTag_fenceN (t : BitVec 8) : (s.addTag t).fenceN = s.fenceN := rfl
@[simp] theorem State.addTag_park (t : BitVec 8) : (s.addTag t).park = s.park := rfl
@[simp] theorem State.addTag_entries (t : BitVec 8) : (s.addTag t).entries = s.entries := rfl
@[simp] theorem State.addTag_groups (t : BitVec 8) : (s.addTag t).groups = s.groups := rfl
@[simp] theorem State.addTag_frames (t : BitVec 8) : (s.addTag t).frames = s.frames := rfl
@[simp] theorem State.addTag_scrub (t : BitVec 8) : (s.addTag t).scrub = s.scrub := rfl
@[simp] theorem State.addTag_device (t : BitVec 8) : (s.addTag t).device = s.device := rfl
@[simp] theorem State.addTag_tags (t : BitVec 8) : (s.addTag t).tags = natInsert s.tags t.toNat := rfl
@[simp] theorem State.addTag_outbox (t : BitVec 8) : (s.addTag t).outbox = s.outbox := rfl
@[simp] theorem State.addTag_credit (t : BitVec 8) : (s.addTag t).credit = s.credit := rfl
@[simp] theorem State.addTag_noticeN (t : BitVec 8) : (s.addTag t).noticeN = s.noticeN := rfl
@[simp] theorem State.addTag_links (t : BitVec 8) : (s.addTag t).links = s.links := rfl
@[simp] theorem State.addTag_resetN (t : BitVec 8) : (s.addTag t).resetN = s.resetN := rfl
@[simp] theorem State.addTag_carrier (t : BitVec 8) : (s.addTag t).carrier = s.carrier := rfl
@[simp] theorem State.addTag_out (t : BitVec 8) : (s.addTag t).out = s.out := rfl
@[simp] theorem State.addTag_pending (t : BitVec 8) : (s.addTag t).pending = s.pending := rfl
@[simp] theorem State.addTag_behind (t : BitVec 8) : (s.addTag t).behind = s.behind := rfl
@[simp] theorem State.addTag_window (t : BitVec 8) (v : Nat) : (s.addTag t).window v = s.window v := rfl
@[simp] theorem State.addTag_frame (t : BitVec 8) (f : Nat) : (s.addTag t).frame f = s.frame f := rfl
@[simp] theorem State.addTag_table (t : BitVec 8) (c : AgentId) : (s.addTag t).table c = s.table c := rfl
@[simp] theorem State.addTag_port (t : BitVec 8) (c : AgentId) : (s.addTag t).port c = s.port c := rfl
@[simp] theorem State.addTag_entry (t : BitVec 8) (j : Fin 16) : (s.addTag t).entry j = s.entry j := rfl
@[simp] theorem State.addTag_group (t : BitVec 8) (c : Fin 4) : (s.addTag t).group c = s.group c := rfl
@[simp] theorem State.addTag_slot (t : BitVec 8) (j : Fin 16) : (s.addTag t).slot j = s.slot j := rfl
@[simp] theorem State.addTag_fill (t : BitVec 8) (c : Fin 4) : (s.addTag t).fill c = s.fill c := rfl
@[simp] theorem State.addTag_link (t : BitVec 8) (c : LinkId) : (s.addTag t).link c = s.link c := rfl
@[simp] theorem State.addTag_isUp (t : BitVec 8) (c : LinkId) : (s.addTag t).isUp c = s.isUp c := rfl
@[simp] theorem State.addTag_isAdmitted (t : BitVec 8) (c : AgentId) : (s.addTag t).isAdmitted c = s.isAdmitted c := rfl
@[simp] theorem State.addTag_condition (t : BitVec 8) (v : Nat) : (s.addTag t).condition v = s.condition v := rfl
@[simp] theorem State.addTag_frameCount (t : BitVec 8) : (s.addTag t).frameCount = s.frameCount := rfl
@[simp] theorem State.addTag_isServing (t : BitVec 8) : (s.addTag t).isServing = s.isServing := rfl
@[simp] theorem State.addTag_active (t : BitVec 8) : (s.addTag t).active = s.active := rfl
@[simp] theorem State.addTag_quiet (t : BitVec 8) : (s.addTag t).quiet = s.quiet := rfl
@[simp] theorem State.addTag_pattern (t : BitVec 8) : (s.addTag t).pattern = s.pattern := rfl

/-! ### freeTag -/

@[simp] theorem State.freeTag_windows (t : BitVec 8) : (s.freeTag t).windows = s.windows := rfl
@[simp] theorem State.freeTag_tables (t : BitVec 8) : (s.freeTag t).tables = s.tables := rfl
@[simp] theorem State.freeTag_ports (t : BitVec 8) : (s.freeTag t).ports = s.ports := rfl
@[simp] theorem State.freeTag_fenceN (t : BitVec 8) : (s.freeTag t).fenceN = s.fenceN := rfl
@[simp] theorem State.freeTag_park (t : BitVec 8) : (s.freeTag t).park = s.park := rfl
@[simp] theorem State.freeTag_entries (t : BitVec 8) : (s.freeTag t).entries = s.entries := rfl
@[simp] theorem State.freeTag_groups (t : BitVec 8) : (s.freeTag t).groups = s.groups := rfl
@[simp] theorem State.freeTag_frames (t : BitVec 8) : (s.freeTag t).frames = s.frames := rfl
@[simp] theorem State.freeTag_scrub (t : BitVec 8) : (s.freeTag t).scrub = s.scrub := rfl
@[simp] theorem State.freeTag_device (t : BitVec 8) : (s.freeTag t).device = s.device := rfl
@[simp] theorem State.freeTag_tags (t : BitVec 8) : (s.freeTag t).tags = natErase s.tags t.toNat := rfl
@[simp] theorem State.freeTag_outbox (t : BitVec 8) : (s.freeTag t).outbox = s.outbox := rfl
@[simp] theorem State.freeTag_credit (t : BitVec 8) : (s.freeTag t).credit = s.credit := rfl
@[simp] theorem State.freeTag_noticeN (t : BitVec 8) : (s.freeTag t).noticeN = s.noticeN := rfl
@[simp] theorem State.freeTag_links (t : BitVec 8) : (s.freeTag t).links = s.links := rfl
@[simp] theorem State.freeTag_resetN (t : BitVec 8) : (s.freeTag t).resetN = s.resetN := rfl
@[simp] theorem State.freeTag_carrier (t : BitVec 8) : (s.freeTag t).carrier = s.carrier := rfl
@[simp] theorem State.freeTag_out (t : BitVec 8) : (s.freeTag t).out = s.out := rfl
@[simp] theorem State.freeTag_pending (t : BitVec 8) : (s.freeTag t).pending = s.pending := rfl
@[simp] theorem State.freeTag_behind (t : BitVec 8) : (s.freeTag t).behind = s.behind := rfl
@[simp] theorem State.freeTag_window (t : BitVec 8) (v : Nat) : (s.freeTag t).window v = s.window v := rfl
@[simp] theorem State.freeTag_frame (t : BitVec 8) (f : Nat) : (s.freeTag t).frame f = s.frame f := rfl
@[simp] theorem State.freeTag_table (t : BitVec 8) (c : AgentId) : (s.freeTag t).table c = s.table c := rfl
@[simp] theorem State.freeTag_port (t : BitVec 8) (c : AgentId) : (s.freeTag t).port c = s.port c := rfl
@[simp] theorem State.freeTag_entry (t : BitVec 8) (j : Fin 16) : (s.freeTag t).entry j = s.entry j := rfl
@[simp] theorem State.freeTag_group (t : BitVec 8) (c : Fin 4) : (s.freeTag t).group c = s.group c := rfl
@[simp] theorem State.freeTag_slot (t : BitVec 8) (j : Fin 16) : (s.freeTag t).slot j = s.slot j := rfl
@[simp] theorem State.freeTag_fill (t : BitVec 8) (c : Fin 4) : (s.freeTag t).fill c = s.fill c := rfl
@[simp] theorem State.freeTag_link (t : BitVec 8) (c : LinkId) : (s.freeTag t).link c = s.link c := rfl
@[simp] theorem State.freeTag_isUp (t : BitVec 8) (c : LinkId) : (s.freeTag t).isUp c = s.isUp c := rfl
@[simp] theorem State.freeTag_isAdmitted (t : BitVec 8) (c : AgentId) :
    (s.freeTag t).isAdmitted c = s.isAdmitted c := rfl
@[simp] theorem State.freeTag_condition (t : BitVec 8) (v : Nat) : (s.freeTag t).condition v = s.condition v := rfl
@[simp] theorem State.freeTag_frameCount (t : BitVec 8) : (s.freeTag t).frameCount = s.frameCount := rfl
@[simp] theorem State.freeTag_isServing (t : BitVec 8) : (s.freeTag t).isServing = s.isServing := rfl
@[simp] theorem State.freeTag_active (t : BitVec 8) : (s.freeTag t).active = s.active := rfl
@[simp] theorem State.freeTag_quiet (t : BitVec 8) : (s.freeTag t).quiet = s.quiet := rfl
@[simp] theorem State.freeTag_pattern (t : BitVec 8) : (s.freeTag t).pattern = s.pattern := rfl

/-! ### setLookupTag -/

@[simp] theorem State.setLookupTag_windows (a : AgentId) (t : Fin 4) (b : Bool) :
    (s.setLookupTag a t b).windows = s.windows := rfl
@[simp] theorem State.setLookupTag_tables (a : AgentId) (t : Fin 4) (b : Bool) :
    (s.setLookupTag a t b).tables = s.tables := rfl
@[simp] theorem State.setLookupTag_fenceN (a : AgentId) (t : Fin 4) (b : Bool) :
    (s.setLookupTag a t b).fenceN = s.fenceN := rfl
@[simp] theorem State.setLookupTag_park (a : AgentId) (t : Fin 4) (b : Bool) :
    (s.setLookupTag a t b).park = s.park := rfl
@[simp] theorem State.setLookupTag_entries (a : AgentId) (t : Fin 4) (b : Bool) :
    (s.setLookupTag a t b).entries = s.entries := rfl
@[simp] theorem State.setLookupTag_groups (a : AgentId) (t : Fin 4) (b : Bool) :
    (s.setLookupTag a t b).groups = s.groups := rfl
@[simp] theorem State.setLookupTag_frames (a : AgentId) (t : Fin 4) (b : Bool) :
    (s.setLookupTag a t b).frames = s.frames := rfl
@[simp] theorem State.setLookupTag_scrub (a : AgentId) (t : Fin 4) (b : Bool) :
    (s.setLookupTag a t b).scrub = s.scrub := rfl
@[simp] theorem State.setLookupTag_device (a : AgentId) (t : Fin 4) (b : Bool) :
    (s.setLookupTag a t b).device = s.device := rfl
@[simp] theorem State.setLookupTag_tags (a : AgentId) (t : Fin 4) (b : Bool) :
    (s.setLookupTag a t b).tags = s.tags := rfl
@[simp] theorem State.setLookupTag_outbox (a : AgentId) (t : Fin 4) (b : Bool) :
    (s.setLookupTag a t b).outbox = s.outbox := rfl
@[simp] theorem State.setLookupTag_credit (a : AgentId) (t : Fin 4) (b : Bool) :
    (s.setLookupTag a t b).credit = s.credit := rfl
@[simp] theorem State.setLookupTag_noticeN (a : AgentId) (t : Fin 4) (b : Bool) :
    (s.setLookupTag a t b).noticeN = s.noticeN := rfl
@[simp] theorem State.setLookupTag_links (a : AgentId) (t : Fin 4) (b : Bool) :
    (s.setLookupTag a t b).links = s.links := rfl
@[simp] theorem State.setLookupTag_resetN (a : AgentId) (t : Fin 4) (b : Bool) :
    (s.setLookupTag a t b).resetN = s.resetN := rfl
@[simp] theorem State.setLookupTag_carrier (a : AgentId) (t : Fin 4) (b : Bool) :
    (s.setLookupTag a t b).carrier = s.carrier := rfl
@[simp] theorem State.setLookupTag_out (a : AgentId) (t : Fin 4) (b : Bool) : (s.setLookupTag a t b).out = s.out := rfl
@[simp] theorem State.setLookupTag_pending (a : AgentId) (t : Fin 4) (b : Bool) :
    (s.setLookupTag a t b).pending = s.pending := rfl
@[simp] theorem State.setLookupTag_behind (a : AgentId) (t : Fin 4) (b : Bool) :
    (s.setLookupTag a t b).behind = s.behind := rfl
@[simp] theorem State.setLookupTag_window (a : AgentId) (t : Fin 4) (b : Bool) (v : Nat) :
    (s.setLookupTag a t b).window v = s.window v := rfl
@[simp] theorem State.setLookupTag_frame (a : AgentId) (t : Fin 4) (b : Bool) (f : Nat) :
    (s.setLookupTag a t b).frame f = s.frame f := rfl
@[simp] theorem State.setLookupTag_table (a : AgentId) (t : Fin 4) (b : Bool) (c : AgentId) :
    (s.setLookupTag a t b).table c = s.table c := rfl
@[simp] theorem State.setLookupTag_entry (a : AgentId) (t : Fin 4) (b : Bool) (j : Fin 16) :
    (s.setLookupTag a t b).entry j = s.entry j := rfl
@[simp] theorem State.setLookupTag_group (a : AgentId) (t : Fin 4) (b : Bool) (c : Fin 4) :
    (s.setLookupTag a t b).group c = s.group c := rfl
@[simp] theorem State.setLookupTag_slot (a : AgentId) (t : Fin 4) (b : Bool) (j : Fin 16) :
    (s.setLookupTag a t b).slot j = s.slot j := rfl
@[simp] theorem State.setLookupTag_fill (a : AgentId) (t : Fin 4) (b : Bool) (c : Fin 4) :
    (s.setLookupTag a t b).fill c = s.fill c := rfl
@[simp] theorem State.setLookupTag_link (a : AgentId) (t : Fin 4) (b : Bool) (c : LinkId) :
    (s.setLookupTag a t b).link c = s.link c := rfl
@[simp] theorem State.setLookupTag_isUp (a : AgentId) (t : Fin 4) (b : Bool) (c : LinkId) :
    (s.setLookupTag a t b).isUp c = s.isUp c := rfl
@[simp] theorem State.setLookupTag_condition (a : AgentId) (t : Fin 4) (b : Bool) (v : Nat) :
    (s.setLookupTag a t b).condition v = s.condition v := rfl
@[simp] theorem State.setLookupTag_frameCount (a : AgentId) (t : Fin 4) (b : Bool) :
    (s.setLookupTag a t b).frameCount = s.frameCount := rfl
@[simp] theorem State.setLookupTag_isServing (a : AgentId) (t : Fin 4) (b : Bool) :
    (s.setLookupTag a t b).isServing = s.isServing := rfl
@[simp] theorem State.setLookupTag_tagInUse (a : AgentId) (t : Fin 4) (b : Bool) (u : BitVec 8) :
    (s.setLookupTag a t b).tagInUse u = s.tagInUse u := rfl
@[simp] theorem State.setLookupTag_active (a : AgentId) (t : Fin 4) (b : Bool) :
    (s.setLookupTag a t b).active = s.active := rfl
@[simp] theorem State.setLookupTag_quiet (a : AgentId) (t : Fin 4) (b : Bool) :
    (s.setLookupTag a t b).quiet = s.quiet := rfl
@[simp] theorem State.setLookupTag_pattern (a : AgentId) (t : Fin 4) (b : Bool) :
    (s.setLookupTag a t b).pattern = s.pattern := rfl

/-! ### setPointer -/

@[simp] theorem State.setPointer_windows (a : AgentId) (p : Fin 64) : (s.setPointer a p).windows = s.windows := rfl
@[simp] theorem State.setPointer_ports (a : AgentId) (p : Fin 64) : (s.setPointer a p).ports = s.ports := rfl
@[simp] theorem State.setPointer_fenceN (a : AgentId) (p : Fin 64) : (s.setPointer a p).fenceN = s.fenceN := rfl
@[simp] theorem State.setPointer_park (a : AgentId) (p : Fin 64) : (s.setPointer a p).park = s.park := rfl
@[simp] theorem State.setPointer_entries (a : AgentId) (p : Fin 64) : (s.setPointer a p).entries = s.entries := rfl
@[simp] theorem State.setPointer_groups (a : AgentId) (p : Fin 64) : (s.setPointer a p).groups = s.groups := rfl
@[simp] theorem State.setPointer_frames (a : AgentId) (p : Fin 64) : (s.setPointer a p).frames = s.frames := rfl
@[simp] theorem State.setPointer_scrub (a : AgentId) (p : Fin 64) : (s.setPointer a p).scrub = s.scrub := rfl
@[simp] theorem State.setPointer_device (a : AgentId) (p : Fin 64) : (s.setPointer a p).device = s.device := rfl
@[simp] theorem State.setPointer_tags (a : AgentId) (p : Fin 64) : (s.setPointer a p).tags = s.tags := rfl
@[simp] theorem State.setPointer_outbox (a : AgentId) (p : Fin 64) : (s.setPointer a p).outbox = s.outbox := rfl
@[simp] theorem State.setPointer_credit (a : AgentId) (p : Fin 64) : (s.setPointer a p).credit = s.credit := rfl
@[simp] theorem State.setPointer_noticeN (a : AgentId) (p : Fin 64) : (s.setPointer a p).noticeN = s.noticeN := rfl
@[simp] theorem State.setPointer_links (a : AgentId) (p : Fin 64) : (s.setPointer a p).links = s.links := rfl
@[simp] theorem State.setPointer_resetN (a : AgentId) (p : Fin 64) : (s.setPointer a p).resetN = s.resetN := rfl
@[simp] theorem State.setPointer_carrier (a : AgentId) (p : Fin 64) : (s.setPointer a p).carrier = s.carrier := rfl
@[simp] theorem State.setPointer_out (a : AgentId) (p : Fin 64) : (s.setPointer a p).out = s.out := rfl
@[simp] theorem State.setPointer_pending (a : AgentId) (p : Fin 64) : (s.setPointer a p).pending = s.pending := rfl
@[simp] theorem State.setPointer_behind (a : AgentId) (p : Fin 64) : (s.setPointer a p).behind = s.behind := rfl
@[simp] theorem State.setPointer_window (a : AgentId) (p : Fin 64) (v : Nat) :
    (s.setPointer a p).window v = s.window v := rfl
@[simp] theorem State.setPointer_frame (a : AgentId) (p : Fin 64) (f : Nat) :
    (s.setPointer a p).frame f = s.frame f := rfl
@[simp] theorem State.setPointer_port (a : AgentId) (p : Fin 64) (c : AgentId) :
    (s.setPointer a p).port c = s.port c := rfl
@[simp] theorem State.setPointer_entry (a : AgentId) (p : Fin 64) (j : Fin 16) :
    (s.setPointer a p).entry j = s.entry j := rfl
@[simp] theorem State.setPointer_group (a : AgentId) (p : Fin 64) (c : Fin 4) :
    (s.setPointer a p).group c = s.group c := rfl
@[simp] theorem State.setPointer_slot (a : AgentId) (p : Fin 64) (j : Fin 16) :
    (s.setPointer a p).slot j = s.slot j := rfl
@[simp] theorem State.setPointer_fill (a : AgentId) (p : Fin 64) (c : Fin 4) :
    (s.setPointer a p).fill c = s.fill c := rfl
@[simp] theorem State.setPointer_link (a : AgentId) (p : Fin 64) (c : LinkId) :
    (s.setPointer a p).link c = s.link c := rfl
@[simp] theorem State.setPointer_isUp (a : AgentId) (p : Fin 64) (c : LinkId) :
    (s.setPointer a p).isUp c = s.isUp c := rfl
@[simp] theorem State.setPointer_isAdmitted (a : AgentId) (p : Fin 64) (c : AgentId) :
    (s.setPointer a p).isAdmitted c = s.isAdmitted c := rfl
@[simp] theorem State.setPointer_condition (a : AgentId) (p : Fin 64) (v : Nat) :
    (s.setPointer a p).condition v = s.condition v := rfl
@[simp] theorem State.setPointer_frameCount (a : AgentId) (p : Fin 64) :
    (s.setPointer a p).frameCount = s.frameCount := rfl
@[simp] theorem State.setPointer_isServing (a : AgentId) (p : Fin 64) :
    (s.setPointer a p).isServing = s.isServing := rfl
@[simp] theorem State.setPointer_tagInUse (a : AgentId) (p : Fin 64) (u : BitVec 8) :
    (s.setPointer a p).tagInUse u = s.tagInUse u := rfl
@[simp] theorem State.setPointer_active (a : AgentId) (p : Fin 64) : (s.setPointer a p).active = s.active := rfl
@[simp] theorem State.setPointer_quiet (a : AgentId) (p : Fin 64) : (s.setPointer a p).quiet = s.quiet := rfl
@[simp] theorem State.setPointer_pattern (a : AgentId) (p : Fin 64) : (s.setPointer a p).pattern = s.pattern := rfl

/-! ### setDevice -/

@[simp] theorem State.setDevice_windows (d : Device) : (s.setDevice d).windows = s.windows := rfl
@[simp] theorem State.setDevice_tables (d : Device) : (s.setDevice d).tables = s.tables := rfl
@[simp] theorem State.setDevice_ports (d : Device) : (s.setDevice d).ports = s.ports := rfl
@[simp] theorem State.setDevice_fenceN (d : Device) : (s.setDevice d).fenceN = s.fenceN := rfl
@[simp] theorem State.setDevice_park (d : Device) : (s.setDevice d).park = s.park := rfl
@[simp] theorem State.setDevice_entries (d : Device) : (s.setDevice d).entries = s.entries := rfl
@[simp] theorem State.setDevice_groups (d : Device) : (s.setDevice d).groups = s.groups := rfl
@[simp] theorem State.setDevice_frames (d : Device) : (s.setDevice d).frames = s.frames := rfl
@[simp] theorem State.setDevice_scrub (d : Device) : (s.setDevice d).scrub = s.scrub := rfl
@[simp] theorem State.setDevice_device (d : Device) : (s.setDevice d).device = d := rfl
@[simp] theorem State.setDevice_tags (d : Device) : (s.setDevice d).tags = s.tags := rfl
@[simp] theorem State.setDevice_outbox (d : Device) : (s.setDevice d).outbox = s.outbox := rfl
@[simp] theorem State.setDevice_credit (d : Device) : (s.setDevice d).credit = s.credit := rfl
@[simp] theorem State.setDevice_noticeN (d : Device) : (s.setDevice d).noticeN = s.noticeN := rfl
@[simp] theorem State.setDevice_links (d : Device) : (s.setDevice d).links = s.links := rfl
@[simp] theorem State.setDevice_resetN (d : Device) : (s.setDevice d).resetN = s.resetN := rfl
@[simp] theorem State.setDevice_carrier (d : Device) : (s.setDevice d).carrier = s.carrier := rfl
@[simp] theorem State.setDevice_out (d : Device) : (s.setDevice d).out = s.out := rfl
@[simp] theorem State.setDevice_pending (d : Device) : (s.setDevice d).pending = s.pending := rfl
@[simp] theorem State.setDevice_behind (d : Device) : (s.setDevice d).behind = s.behind := rfl
@[simp] theorem State.setDevice_window (d : Device) (v : Nat) : (s.setDevice d).window v = s.window v := rfl
@[simp] theorem State.setDevice_frame (d : Device) (f : Nat) : (s.setDevice d).frame f = s.frame f := rfl
@[simp] theorem State.setDevice_table (d : Device) (c : AgentId) : (s.setDevice d).table c = s.table c := rfl
@[simp] theorem State.setDevice_port (d : Device) (c : AgentId) : (s.setDevice d).port c = s.port c := rfl
@[simp] theorem State.setDevice_entry (d : Device) (j : Fin 16) : (s.setDevice d).entry j = s.entry j := rfl
@[simp] theorem State.setDevice_group (d : Device) (c : Fin 4) : (s.setDevice d).group c = s.group c := rfl
@[simp] theorem State.setDevice_slot (d : Device) (j : Fin 16) : (s.setDevice d).slot j = s.slot j := rfl
@[simp] theorem State.setDevice_fill (d : Device) (c : Fin 4) : (s.setDevice d).fill c = s.fill c := rfl
@[simp] theorem State.setDevice_link (d : Device) (c : LinkId) : (s.setDevice d).link c = s.link c := rfl
@[simp] theorem State.setDevice_isUp (d : Device) (c : LinkId) : (s.setDevice d).isUp c = s.isUp c := rfl
@[simp] theorem State.setDevice_isAdmitted (d : Device) (c : AgentId) :
    (s.setDevice d).isAdmitted c = s.isAdmitted c := rfl
@[simp] theorem State.setDevice_condition (d : Device) (v : Nat) : (s.setDevice d).condition v = s.condition v := rfl
@[simp] theorem State.setDevice_tagInUse (d : Device) (u : BitVec 8) : (s.setDevice d).tagInUse u = s.tagInUse u := rfl
@[simp] theorem State.setDevice_active (d : Device) : (s.setDevice d).active = s.active := rfl
@[simp] theorem State.setDevice_quiet (d : Device) : (s.setDevice d).quiet = s.quiet := rfl

/-! ### setCredit -/

@[simp] theorem State.setCredit_windows (n : Nat) : (s.setCredit n).windows = s.windows := rfl
@[simp] theorem State.setCredit_tables (n : Nat) : (s.setCredit n).tables = s.tables := rfl
@[simp] theorem State.setCredit_ports (n : Nat) : (s.setCredit n).ports = s.ports := rfl
@[simp] theorem State.setCredit_fenceN (n : Nat) : (s.setCredit n).fenceN = s.fenceN := rfl
@[simp] theorem State.setCredit_park (n : Nat) : (s.setCredit n).park = s.park := rfl
@[simp] theorem State.setCredit_entries (n : Nat) : (s.setCredit n).entries = s.entries := rfl
@[simp] theorem State.setCredit_groups (n : Nat) : (s.setCredit n).groups = s.groups := rfl
@[simp] theorem State.setCredit_frames (n : Nat) : (s.setCredit n).frames = s.frames := rfl
@[simp] theorem State.setCredit_scrub (n : Nat) : (s.setCredit n).scrub = s.scrub := rfl
@[simp] theorem State.setCredit_device (n : Nat) : (s.setCredit n).device = s.device := rfl
@[simp] theorem State.setCredit_tags (n : Nat) : (s.setCredit n).tags = s.tags := rfl
@[simp] theorem State.setCredit_outbox (n : Nat) : (s.setCredit n).outbox = s.outbox := rfl
@[simp] theorem State.setCredit_credit (n : Nat) : (s.setCredit n).credit = n := rfl
@[simp] theorem State.setCredit_noticeN (n : Nat) : (s.setCredit n).noticeN = s.noticeN := rfl
@[simp] theorem State.setCredit_links (n : Nat) : (s.setCredit n).links = s.links := rfl
@[simp] theorem State.setCredit_resetN (n : Nat) : (s.setCredit n).resetN = s.resetN := rfl
@[simp] theorem State.setCredit_carrier (n : Nat) : (s.setCredit n).carrier = s.carrier := rfl
@[simp] theorem State.setCredit_out (n : Nat) : (s.setCredit n).out = s.out := rfl
@[simp] theorem State.setCredit_pending (n : Nat) : (s.setCredit n).pending = s.pending := rfl
@[simp] theorem State.setCredit_behind (n : Nat) : (s.setCredit n).behind = s.behind := rfl
@[simp] theorem State.setCredit_window (n : Nat) (v : Nat) : (s.setCredit n).window v = s.window v := rfl
@[simp] theorem State.setCredit_frame (n : Nat) (f : Nat) : (s.setCredit n).frame f = s.frame f := rfl
@[simp] theorem State.setCredit_table (n : Nat) (c : AgentId) : (s.setCredit n).table c = s.table c := rfl
@[simp] theorem State.setCredit_port (n : Nat) (c : AgentId) : (s.setCredit n).port c = s.port c := rfl
@[simp] theorem State.setCredit_entry (n : Nat) (j : Fin 16) : (s.setCredit n).entry j = s.entry j := rfl
@[simp] theorem State.setCredit_group (n : Nat) (c : Fin 4) : (s.setCredit n).group c = s.group c := rfl
@[simp] theorem State.setCredit_slot (n : Nat) (j : Fin 16) : (s.setCredit n).slot j = s.slot j := rfl
@[simp] theorem State.setCredit_fill (n : Nat) (c : Fin 4) : (s.setCredit n).fill c = s.fill c := rfl
@[simp] theorem State.setCredit_link (n : Nat) (c : LinkId) : (s.setCredit n).link c = s.link c := rfl
@[simp] theorem State.setCredit_isUp (n : Nat) (c : LinkId) : (s.setCredit n).isUp c = s.isUp c := rfl
@[simp] theorem State.setCredit_isAdmitted (n : Nat) (c : AgentId) :
    (s.setCredit n).isAdmitted c = s.isAdmitted c := rfl
@[simp] theorem State.setCredit_condition (n : Nat) (v : Nat) : (s.setCredit n).condition v = s.condition v := rfl
@[simp] theorem State.setCredit_frameCount (n : Nat) : (s.setCredit n).frameCount = s.frameCount := rfl
@[simp] theorem State.setCredit_isServing (n : Nat) : (s.setCredit n).isServing = s.isServing := rfl
@[simp] theorem State.setCredit_tagInUse (n : Nat) (u : BitVec 8) : (s.setCredit n).tagInUse u = s.tagInUse u := rfl
@[simp] theorem State.setCredit_active (n : Nat) : (s.setCredit n).active = s.active := rfl
@[simp] theorem State.setCredit_quiet (n : Nat) : (s.setCredit n).quiet = s.quiet := rfl
@[simp] theorem State.setCredit_pattern (n : Nat) : (s.setCredit n).pattern = s.pattern := rfl

/-! ### setOutbox -/

@[simp] theorem State.setOutbox_windows (o : List Notice) : (s.setOutbox o).windows = s.windows := rfl
@[simp] theorem State.setOutbox_tables (o : List Notice) : (s.setOutbox o).tables = s.tables := rfl
@[simp] theorem State.setOutbox_ports (o : List Notice) : (s.setOutbox o).ports = s.ports := rfl
@[simp] theorem State.setOutbox_fenceN (o : List Notice) : (s.setOutbox o).fenceN = s.fenceN := rfl
@[simp] theorem State.setOutbox_park (o : List Notice) : (s.setOutbox o).park = s.park := rfl
@[simp] theorem State.setOutbox_entries (o : List Notice) : (s.setOutbox o).entries = s.entries := rfl
@[simp] theorem State.setOutbox_groups (o : List Notice) : (s.setOutbox o).groups = s.groups := rfl
@[simp] theorem State.setOutbox_frames (o : List Notice) : (s.setOutbox o).frames = s.frames := rfl
@[simp] theorem State.setOutbox_scrub (o : List Notice) : (s.setOutbox o).scrub = s.scrub := rfl
@[simp] theorem State.setOutbox_device (o : List Notice) : (s.setOutbox o).device = s.device := rfl
@[simp] theorem State.setOutbox_tags (o : List Notice) : (s.setOutbox o).tags = s.tags := rfl
@[simp] theorem State.setOutbox_outbox (o : List Notice) : (s.setOutbox o).outbox = o := rfl
@[simp] theorem State.setOutbox_credit (o : List Notice) : (s.setOutbox o).credit = s.credit := rfl
@[simp] theorem State.setOutbox_noticeN (o : List Notice) : (s.setOutbox o).noticeN = o.isEmpty := rfl
@[simp] theorem State.setOutbox_links (o : List Notice) : (s.setOutbox o).links = s.links := rfl
@[simp] theorem State.setOutbox_resetN (o : List Notice) : (s.setOutbox o).resetN = s.resetN := rfl
@[simp] theorem State.setOutbox_carrier (o : List Notice) : (s.setOutbox o).carrier = s.carrier := rfl
@[simp] theorem State.setOutbox_out (o : List Notice) : (s.setOutbox o).out = s.out := rfl
@[simp] theorem State.setOutbox_pending (o : List Notice) : (s.setOutbox o).pending = s.pending := rfl
@[simp] theorem State.setOutbox_behind (o : List Notice) : (s.setOutbox o).behind = s.behind := rfl
@[simp] theorem State.setOutbox_window (o : List Notice) (v : Nat) : (s.setOutbox o).window v = s.window v := rfl
@[simp] theorem State.setOutbox_frame (o : List Notice) (f : Nat) : (s.setOutbox o).frame f = s.frame f := rfl
@[simp] theorem State.setOutbox_table (o : List Notice) (c : AgentId) : (s.setOutbox o).table c = s.table c := rfl
@[simp] theorem State.setOutbox_port (o : List Notice) (c : AgentId) : (s.setOutbox o).port c = s.port c := rfl
@[simp] theorem State.setOutbox_entry (o : List Notice) (j : Fin 16) : (s.setOutbox o).entry j = s.entry j := rfl
@[simp] theorem State.setOutbox_group (o : List Notice) (c : Fin 4) : (s.setOutbox o).group c = s.group c := rfl
@[simp] theorem State.setOutbox_slot (o : List Notice) (j : Fin 16) : (s.setOutbox o).slot j = s.slot j := rfl
@[simp] theorem State.setOutbox_fill (o : List Notice) (c : Fin 4) : (s.setOutbox o).fill c = s.fill c := rfl
@[simp] theorem State.setOutbox_link (o : List Notice) (c : LinkId) : (s.setOutbox o).link c = s.link c := rfl
@[simp] theorem State.setOutbox_isUp (o : List Notice) (c : LinkId) : (s.setOutbox o).isUp c = s.isUp c := rfl
@[simp] theorem State.setOutbox_isAdmitted (o : List Notice) (c : AgentId) :
    (s.setOutbox o).isAdmitted c = s.isAdmitted c := rfl
@[simp] theorem State.setOutbox_condition (o : List Notice) (v : Nat) :
    (s.setOutbox o).condition v = s.condition v := rfl
@[simp] theorem State.setOutbox_frameCount (o : List Notice) : (s.setOutbox o).frameCount = s.frameCount := rfl
@[simp] theorem State.setOutbox_isServing (o : List Notice) : (s.setOutbox o).isServing = s.isServing := rfl
@[simp] theorem State.setOutbox_tagInUse (o : List Notice) (u : BitVec 8) :
    (s.setOutbox o).tagInUse u = s.tagInUse u := rfl
@[simp] theorem State.setOutbox_active (o : List Notice) : (s.setOutbox o).active = s.active := rfl
@[simp] theorem State.setOutbox_quiet (o : List Notice) : (s.setOutbox o).quiet = s.quiet := rfl
@[simp] theorem State.setOutbox_pattern (o : List Notice) : (s.setOutbox o).pattern = s.pattern := rfl

/-! ### setLink -/

@[simp] theorem State.setLink_windows (l : LinkId) (x : Link) : (s.setLink l x).windows = s.windows := rfl
@[simp] theorem State.setLink_tables (l : LinkId) (x : Link) : (s.setLink l x).tables = s.tables := rfl
@[simp] theorem State.setLink_ports (l : LinkId) (x : Link) : (s.setLink l x).ports = s.ports := rfl
@[simp] theorem State.setLink_fenceN (l : LinkId) (x : Link) : (s.setLink l x).fenceN = s.fenceN := rfl
@[simp] theorem State.setLink_park (l : LinkId) (x : Link) : (s.setLink l x).park = s.park := rfl
@[simp] theorem State.setLink_entries (l : LinkId) (x : Link) : (s.setLink l x).entries = s.entries := rfl
@[simp] theorem State.setLink_groups (l : LinkId) (x : Link) : (s.setLink l x).groups = s.groups := rfl
@[simp] theorem State.setLink_frames (l : LinkId) (x : Link) : (s.setLink l x).frames = s.frames := rfl
@[simp] theorem State.setLink_scrub (l : LinkId) (x : Link) : (s.setLink l x).scrub = s.scrub := rfl
@[simp] theorem State.setLink_device (l : LinkId) (x : Link) : (s.setLink l x).device = s.device := rfl
@[simp] theorem State.setLink_tags (l : LinkId) (x : Link) : (s.setLink l x).tags = s.tags := rfl
@[simp] theorem State.setLink_outbox (l : LinkId) (x : Link) : (s.setLink l x).outbox = s.outbox := rfl
@[simp] theorem State.setLink_credit (l : LinkId) (x : Link) : (s.setLink l x).credit = s.credit := rfl
@[simp] theorem State.setLink_noticeN (l : LinkId) (x : Link) : (s.setLink l x).noticeN = s.noticeN := rfl
@[simp] theorem State.setLink_resetN (l : LinkId) (x : Link) : (s.setLink l x).resetN = s.resetN := rfl
@[simp] theorem State.setLink_carrier (l : LinkId) (x : Link) : (s.setLink l x).carrier = s.carrier := rfl
@[simp] theorem State.setLink_out (l : LinkId) (x : Link) : (s.setLink l x).out = s.out := rfl
@[simp] theorem State.setLink_pending (l : LinkId) (x : Link) : (s.setLink l x).pending = s.pending := rfl
@[simp] theorem State.setLink_behind (l : LinkId) (x : Link) : (s.setLink l x).behind = s.behind := rfl
@[simp] theorem State.setLink_window (l : LinkId) (x : Link) (v : Nat) : (s.setLink l x).window v = s.window v := rfl
@[simp] theorem State.setLink_frame (l : LinkId) (x : Link) (f : Nat) : (s.setLink l x).frame f = s.frame f := rfl
@[simp] theorem State.setLink_table (l : LinkId) (x : Link) (c : AgentId) : (s.setLink l x).table c = s.table c := rfl
@[simp] theorem State.setLink_port (l : LinkId) (x : Link) (c : AgentId) : (s.setLink l x).port c = s.port c := rfl
@[simp] theorem State.setLink_entry (l : LinkId) (x : Link) (j : Fin 16) : (s.setLink l x).entry j = s.entry j := rfl
@[simp] theorem State.setLink_group (l : LinkId) (x : Link) (c : Fin 4) : (s.setLink l x).group c = s.group c := rfl
@[simp] theorem State.setLink_slot (l : LinkId) (x : Link) (j : Fin 16) : (s.setLink l x).slot j = s.slot j := rfl
@[simp] theorem State.setLink_fill (l : LinkId) (x : Link) (c : Fin 4) : (s.setLink l x).fill c = s.fill c := rfl
@[simp] theorem State.setLink_isAdmitted (l : LinkId) (x : Link) (c : AgentId) :
    (s.setLink l x).isAdmitted c = s.isAdmitted c := rfl
@[simp] theorem State.setLink_condition (l : LinkId) (x : Link) (v : Nat) :
    (s.setLink l x).condition v = s.condition v := rfl
@[simp] theorem State.setLink_frameCount (l : LinkId) (x : Link) : (s.setLink l x).frameCount = s.frameCount := rfl
@[simp] theorem State.setLink_isServing (l : LinkId) (x : Link) : (s.setLink l x).isServing = s.isServing := rfl
@[simp] theorem State.setLink_tagInUse (l : LinkId) (x : Link) (u : BitVec 8) :
    (s.setLink l x).tagInUse u = s.tagInUse u := rfl
@[simp] theorem State.setLink_active (l : LinkId) (x : Link) : (s.setLink l x).active = s.active := rfl
@[simp] theorem State.setLink_quiet (l : LinkId) (x : Link) : (s.setLink l x).quiet = s.quiet := rfl
@[simp] theorem State.setLink_pattern (l : LinkId) (x : Link) : (s.setLink l x).pattern = s.pattern := rfl

/-! ### setOut -/

@[simp] theorem State.setOut_windows (o : Outputs) : (s.setOut o).windows = s.windows := rfl
@[simp] theorem State.setOut_tables (o : Outputs) : (s.setOut o).tables = s.tables := rfl
@[simp] theorem State.setOut_ports (o : Outputs) : (s.setOut o).ports = s.ports := rfl
@[simp] theorem State.setOut_fenceN (o : Outputs) : (s.setOut o).fenceN = s.fenceN := rfl
@[simp] theorem State.setOut_park (o : Outputs) : (s.setOut o).park = s.park := rfl
@[simp] theorem State.setOut_entries (o : Outputs) : (s.setOut o).entries = s.entries := rfl
@[simp] theorem State.setOut_groups (o : Outputs) : (s.setOut o).groups = s.groups := rfl
@[simp] theorem State.setOut_frames (o : Outputs) : (s.setOut o).frames = s.frames := rfl
@[simp] theorem State.setOut_scrub (o : Outputs) : (s.setOut o).scrub = s.scrub := rfl
@[simp] theorem State.setOut_device (o : Outputs) : (s.setOut o).device = s.device := rfl
@[simp] theorem State.setOut_tags (o : Outputs) : (s.setOut o).tags = s.tags := rfl
@[simp] theorem State.setOut_outbox (o : Outputs) : (s.setOut o).outbox = s.outbox := rfl
@[simp] theorem State.setOut_credit (o : Outputs) : (s.setOut o).credit = s.credit := rfl
@[simp] theorem State.setOut_noticeN (o : Outputs) : (s.setOut o).noticeN = s.noticeN := rfl
@[simp] theorem State.setOut_links (o : Outputs) : (s.setOut o).links = s.links := rfl
@[simp] theorem State.setOut_resetN (o : Outputs) : (s.setOut o).resetN = s.resetN := rfl
@[simp] theorem State.setOut_carrier (o : Outputs) : (s.setOut o).carrier = s.carrier := rfl
@[simp] theorem State.setOut_out (o : Outputs) : (s.setOut o).out = o := rfl
@[simp] theorem State.setOut_pending (o : Outputs) : (s.setOut o).pending = s.pending := rfl
@[simp] theorem State.setOut_behind (o : Outputs) : (s.setOut o).behind = s.behind := rfl
@[simp] theorem State.setOut_window (o : Outputs) (v : Nat) : (s.setOut o).window v = s.window v := rfl
@[simp] theorem State.setOut_frame (o : Outputs) (f : Nat) : (s.setOut o).frame f = s.frame f := rfl
@[simp] theorem State.setOut_table (o : Outputs) (c : AgentId) : (s.setOut o).table c = s.table c := rfl
@[simp] theorem State.setOut_port (o : Outputs) (c : AgentId) : (s.setOut o).port c = s.port c := rfl
@[simp] theorem State.setOut_entry (o : Outputs) (j : Fin 16) : (s.setOut o).entry j = s.entry j := rfl
@[simp] theorem State.setOut_group (o : Outputs) (c : Fin 4) : (s.setOut o).group c = s.group c := rfl
@[simp] theorem State.setOut_slot (o : Outputs) (j : Fin 16) : (s.setOut o).slot j = s.slot j := rfl
@[simp] theorem State.setOut_fill (o : Outputs) (c : Fin 4) : (s.setOut o).fill c = s.fill c := rfl
@[simp] theorem State.setOut_link (o : Outputs) (c : LinkId) : (s.setOut o).link c = s.link c := rfl
@[simp] theorem State.setOut_isUp (o : Outputs) (c : LinkId) : (s.setOut o).isUp c = s.isUp c := rfl
@[simp] theorem State.setOut_isAdmitted (o : Outputs) (c : AgentId) : (s.setOut o).isAdmitted c = s.isAdmitted c := rfl
@[simp] theorem State.setOut_condition (o : Outputs) (v : Nat) : (s.setOut o).condition v = s.condition v := rfl
@[simp] theorem State.setOut_frameCount (o : Outputs) : (s.setOut o).frameCount = s.frameCount := rfl
@[simp] theorem State.setOut_isServing (o : Outputs) : (s.setOut o).isServing = s.isServing := rfl
@[simp] theorem State.setOut_tagInUse (o : Outputs) (u : BitVec 8) : (s.setOut o).tagInUse u = s.tagInUse u := rfl
@[simp] theorem State.setOut_active (o : Outputs) : (s.setOut o).active = s.active := rfl
@[simp] theorem State.setOut_quiet (o : Outputs) : (s.setOut o).quiet = s.quiet := rfl
@[simp] theorem State.setOut_pattern (o : Outputs) : (s.setOut o).pattern = s.pattern := rfl

end Sys2Proof.Machine
end

