-- ==== Sys2Proof/Laws/Tables.lean ====
section
/-!
SUPPORT. What the two containers hold after each operation, and that every operation keeps the canonical form.
-/

namespace Sys2Proof.Machine

variable {α : Type}

/-! ## Sparse tables: reading -/

@[simp] theorem sparseGet_nil (d : α) (k : Nat) : sparseGet d [] k = d := rfl

theorem sparseGet_drop (d : α) (t : Sparse α) (k j : Nat) :
    sparseGet d (sparseDrop t k) j = if j = k then d else sparseGet d t j := by
  induction t with
  | nil => simp [sparseDrop]
  | cons p t ih =>
    obtain ⟨i, v⟩ := p
    unfold sparseDrop at ih ⊢
    by_cases hik : i = k
    · by_cases hj : j = k <;> simp_all [sparseGet]
    · by_cases hj : j = i <;> simp_all [sparseGet]

theorem sparseGet_put (d : α) (t : Sparse α) (k j : Nat) (v : α) :
    sparseGet d (sparsePut t k v) j = if j = k then v else sparseGet d t j := by
  induction t with
  | nil => simp [sparsePut, sparseGet]
  | cons p t ih =>
    obtain ⟨i, u⟩ := p
    simp only [sparsePut]
    split
    · simp [sparseGet]
    · split
      · subst_vars; by_cases hj : j = i <;> simp [sparseGet, hj]
      · by_cases hj : j = i
        · subst hj; simp [sparseGet]; omega
        · simp [sparseGet, hj, ih]

/-- A write, read back. -/
theorem sparseGet_set [DecidableEq α] (d : α) (t : Sparse α) (k j : Nat) (v : α) :
    sparseGet d (sparseSet d t k v) j = if j = k then v else sparseGet d t j := by
  unfold sparseSet
  split
  · subst_vars; exact sparseGet_drop ..
  · exact sparseGet_put ..

/-- One value written at a run of keys, read back. -/
theorem sparseGet_fill [DecidableEq α] (d : α) (t : Sparse α) (lo n j : Nat) (v : α) :
    sparseGet d (sparseFill d t lo n v) j = if lo ≤ j ∧ j < lo + n then v else sparseGet d t j := by
  unfold sparseFill
  induction n with
  | zero => simp
  | succ n ih =>
    rw [List.range_succ, List.foldl_append, List.foldl_cons, List.foldl_nil, sparseGet_set, ih]
    by_cases h : j = lo + n
    · simp [h]
    · have : (lo ≤ j ∧ j < lo + n) ↔ (lo ≤ j ∧ j < lo + (n + 1)) := by omega
      simp [h, this]

/-- What a key reads as is the default value or listed under it. -/
theorem sparseGet_mem (d : α) (t : Sparse α) (k : Nat) : sparseGet d t k = d ∨ (k, sparseGet d t k) ∈ t := by
  induction t with
  | nil => exact .inl rfl
  | cons p t ih =>
    obtain ⟨j, v⟩ := p
    unfold sparseGet
    split
    · rename_i h; exact .inr (h ▸ List.mem_cons_self ..)
    · exact ih.imp id (List.mem_cons_of_mem _)

/-! ## Sparse tables: the canonical form -/

theorem sparseWf_nil (d : α) : SparseWf d [] := by simp [SparseWf]

theorem sparseWf_drop {d : α} {t : Sparse α} (h : SparseWf d t) (k : Nat) : SparseWf d (sparseDrop t k) :=
  ⟨h.1.filter _, fun p hp => h.2 p (List.mem_of_mem_filter hp)⟩

theorem mem_sparsePut {t : Sparse α} {k : Nat} {v : α} {p : Nat × α} (h : p ∈ sparsePut t k v) :
    p = (k, v) ∨ p ∈ t := by
  induction t with
  | nil => simpa [sparsePut] using h
  | cons q t ih =>
    obtain ⟨i, u⟩ := q
    simp only [sparsePut] at h
    split at h
    · simpa using h
    · split at h
      · simp only [List.mem_cons] at h ⊢; tauto
      · simp only [List.mem_cons] at h ⊢
        rcases h with h | h
        · exact .inr (.inl h)
        · rcases ih h with h | h
          · exact .inl h
          · exact .inr (.inr h)

theorem sparseWf_put {d : α} {t : Sparse α} (h : SparseWf d t) (k : Nat) {v : α} (hv : v ≠ d) :
    SparseWf d (sparsePut t k v) := by
  refine ⟨?_, fun p hp => ?_⟩
  · have h1 := h.1
    clear h hv
    induction t with
    | nil => simp [sparsePut]
    | cons q t ih =>
      obtain ⟨i, u⟩ := q
      rw [List.pairwise_cons] at h1
      simp only [sparsePut]
      split
      · rename_i hk
        refine List.pairwise_cons.2 ⟨fun p hp => ?_, List.pairwise_cons.2 h1⟩
        rcases List.mem_cons.1 hp with rfl | hp
        · exact hk
        · exact lt_trans hk (h1.1 p hp)
      · split
        · subst_vars; exact List.pairwise_cons.2 ⟨h1.1, h1.2⟩
        · refine List.pairwise_cons.2 ⟨fun p hp => ?_, ih h1.2⟩
          rcases mem_sparsePut hp with rfl | hp
          · show i < k; omega
          · exact h1.1 p hp
  · rcases mem_sparsePut hp with rfl | hp
    · exact hv
    · exact h.2 p hp

theorem sparseWf_set [DecidableEq α] {d : α} {t : Sparse α} (h : SparseWf d t) (k : Nat) (v : α) :
    SparseWf d (sparseSet d t k v) := by
  unfold sparseSet
  split
  · exact sparseWf_drop h k
  · exact sparseWf_put h k ‹_›

theorem sparseWf_fill [DecidableEq α] {d : α} {t : Sparse α} (h : SparseWf d t) (lo n : Nat) (v : α) :
    SparseWf d (sparseFill d t lo n v) := by
  unfold sparseFill
  induction List.range n generalizing t with
  | nil => exact h
  | cons i l ih => exact ih (sparseWf_set h _ _)

theorem sparseWf_map [DecidableEq α] {d : α} {t : Sparse α} (h : SparseWf d t) (f : α → α) :
    SparseWf d (sparseMap d f t) := by
  refine ⟨List.Pairwise.filter _ (List.pairwise_map.2 h.1), fun p hp => ?_⟩
  simpa using (List.mem_filter.1 hp).2

/-- A key above every listed one reads as the default. -/
theorem sparseGet_of_lt {d : α} {t : Sparse α} {k : Nat} (h : ∀ p ∈ t, k < p.1) : sparseGet d t k = d := by
  induction t with
  | nil => rfl
  | cons q t ih =>
    obtain ⟨i, u⟩ := q
    have : k ≠ i := by have := h (i, u) (by simp); simp at this; omega
    simp only [sparseGet, if_neg this]
    exact ih fun p hp => h p (List.mem_cons_of_mem _ hp)

/-- Every value rewritten, read back; the rewriting leaves the default as it is. -/
theorem sparseGet_map [DecidableEq α] {d : α} {t : Sparse α} (h : SparseWf d t) (f : α → α) (hf : f d = d) (j : Nat) :
    sparseGet d (sparseMap d f t) j = f (sparseGet d t j) := by
  induction t with
  | nil => simp [sparseMap, hf]
  | cons q t ih =>
    obtain ⟨i, u⟩ := q
    have h1 := List.pairwise_cons.1 h.1
    have ht : SparseWf d t := ⟨h1.2, fun p hp => h.2 p (List.mem_cons_of_mem _ hp)⟩
    have ih := ih ht
    unfold sparseMap at ih ⊢
    by_cases hj : j = i
    · subst hj
      by_cases hu : f u = d
      · have hlt : sparseGet d t j = d := sparseGet_of_lt h1.1
        simp only [List.map_cons, List.filter_cons, hu, ne_eq, not_true_eq_false, decide_false, Bool.false_eq_true,
          if_false, sparseGet, if_true]
        rw [ih, hlt, hf]
      · simp [hu, sparseGet]
    · by_cases hu : f u = d
      · simpa [hu, sparseGet, hj] using ih
      · simpa [hu, sparseGet, hj] using ih

/-- Equal contents are equal data. -/
theorem sparse_ext {d : α} {t u : Sparse α} (ht : SparseWf d t) (hu : SparseWf d u)
    (h : ∀ k, sparseGet d t k = sparseGet d u k) : t = u := by
  induction t generalizing u with
  | nil =>
    cases u with
    | nil => rfl
    | cons q u => exact absurd (by simpa [sparseGet] using (h q.1).symm) (hu.2 q (by simp))
  | cons p t ih =>
    cases u with
    | nil => exact absurd (by simpa [sparseGet] using h p.1) (ht.2 p (by simp))
    | cons q u =>
      obtain ⟨i, v⟩ := p
      obtain ⟨j, w⟩ := q
      have hpt := List.pairwise_cons.1 ht.1
      have hqu := List.pairwise_cons.1 hu.1
      have hij : i = j := by
        rcases lt_trichotomy i j with hlt | heq | hgt
        · have h1 := h i
          rw [sparseGet_of_lt (t := (j, w) :: u)] at h1
          · exact absurd (by simpa [sparseGet] using h1) (ht.2 (i, v) (by simp))
          · intro p hp
            rcases List.mem_cons.1 hp with rfl | hp
            · exact hlt
            · exact lt_trans hlt (hqu.1 p hp)
        · exact heq
        · have h1 := h j
          rw [sparseGet_of_lt (t := (i, v) :: t)] at h1
          · exact absurd (by simpa [sparseGet] using h1.symm) (hu.2 (j, w) (by simp))
          · intro p hp
            rcases List.mem_cons.1 hp with rfl | hp
            · exact hgt
            · exact lt_trans hgt (hpt.1 p hp)
      subst hij
      have hvw : v = w := by simpa [sparseGet] using h i
      subst hvw
      congr 1
      refine ih ⟨hpt.2, fun p hp => ht.2 p (List.mem_cons_of_mem _ hp)⟩
        ⟨hqu.2, fun p hp => hu.2 p (List.mem_cons_of_mem _ hp)⟩ fun k => ?_
      by_cases hk : k = i
      · subst hk; rw [sparseGet_of_lt hpt.1, sparseGet_of_lt hqu.1]
      · simpa [sparseGet, hk] using h k

/-! ## Sets of numbers -/

@[simp] theorem mem_natInsert (t : NatSet) (k j : Nat) : j ∈ natInsert t k ↔ j = k ∨ j ∈ t := by
  induction t with
  | nil => simp [natInsert]
  | cons i t ih =>
    simp only [natInsert]
    split
    · simp
    · split
      · subst_vars; simp
      · simp only [List.mem_cons, ih]; tauto

@[simp] theorem mem_natErase (t : NatSet) (k j : Nat) : j ∈ natErase t k ↔ j ≠ k ∧ j ∈ t := by
  simp [natErase, and_comm]

theorem natSetWf_insert {t : NatSet} (h : NatSetWf t) (k : Nat) : NatSetWf (natInsert t k) := by
  unfold NatSetWf at *
  induction t with
  | nil => simp [natInsert]
  | cons i t ih =>
    have h1 := List.pairwise_cons.1 h
    simp only [natInsert]
    split
    · refine List.pairwise_cons.2 ⟨fun j hj => ?_, h⟩
      rcases List.mem_cons.1 hj with rfl | hj
      · assumption
      · exact lt_trans ‹_› (h1.1 j hj)
    · split
      · exact h
      · refine List.pairwise_cons.2 ⟨fun j hj => ?_, ih h1.2⟩
        rcases (mem_natInsert ..).1 hj with rfl | hj
        · omega
        · exact h1.1 j hj

theorem natSetWf_erase {t : NatSet} (h : NatSetWf t) (k : Nat) : NatSetWf (natErase t k) := List.Pairwise.filter _ h

/-! ## Vectors and small sets -/

theorem vector_get_set {n : Nat} (v : Vector α n) (i j : Fin n) (x : α) :
    (v.set i x)[j] = if j = i then x else v[j] := by
  simp [Vector.getElem_set, Fin.ext_iff, eq_comm]

/-- Writing back what a place holds changes nothing. -/
@[simp] theorem vector_set_get {n : Nat} (v : Vector α n) (i : Fin n) : v.set i v[i] = v := by simp

@[simp] theorem noneOf_get {n : Nat} (i : Fin n) : (noneOf n)[i] = false := by simp [noneOf]

theorem FinSet.get_add {n : Nat} (t : FinSet n) (i j : Fin n) : (t.add i)[j] = (decide (j = i) || t[j]) := by
  simp only [FinSet.add, vector_get_set]; split <;> simp_all

theorem FinSet.get_del {n : Nat} (t : FinSet n) (i j : Fin n) : (t.del i)[j] = (!decide (j = i) && t[j]) := by
  simp only [FinSet.del, vector_get_set]; split <;> simp_all

theorem FinSet.get_join {n : Nat} (t u : FinSet n) (j : Fin n) : (t.join u)[j] = (t[j] || u[j]) := by
  simp [FinSet.join]

theorem FinSet.empty_iff {n : Nat} (t : FinSet n) : t.empty = true ↔ ∀ i : Fin n, t[i] = false := by
  simp [FinSet.empty]

@[simp] theorem FinSet.mem_elems {n : Nat} (t : FinSet n) (i : Fin n) : i ∈ t.elems ↔ t[i] = true := by
  simp [FinSet.elems]

/-- An empty set is the set without elements. -/
theorem FinSet.eq_noneOf {n : Nat} {t : FinSet n} (h : ∀ i : Fin n, t[i] = false) : t = noneOf n :=
  Vector.ext fun i hi => by simpa [noneOf] using h ⟨i, hi⟩

end Sys2Proof.Machine
end

