-- ==== Sys2Proof/Laws/Ops.lean ====
section
/-!
SUPPORT. Reading back what an update wrote; what sending, replying and the Notice Outbox leave alone; and what each of
them does.
-/

namespace Sys2Proof.Machine

variable (s : State)

/-! ### One record read after it is written -/

theorem State.window_setWindow (w v : Nat) (r : Window) :
    (s.setWindow w r).window v = if v = w then r else s.window v := sparseGet_set ..
@[simp] theorem State.window_setWindow_self (w : Nat) (r : Window) : (s.setWindow w r).window w = r := by
  simp [window_setWindow]
theorem State.table_setTable (a b : AgentId) (t : SlotTable) :
    (s.setTable a t).table b = if b = a then t else s.table b := vector_get_set ..
@[simp] theorem State.table_setTable_self (a : AgentId) (t : SlotTable) : (s.setTable a t).table a = t := by
  simp [table_setTable]
theorem State.port_setPort (a b : AgentId) (p : Port) : (s.setPort a p).port b = if b = a then p else s.port b :=
  vector_get_set ..
@[simp] theorem State.port_setPort_self (a : AgentId) (p : Port) : (s.setPort a p).port a = p := by simp [port_setPort]
theorem State.entry_setEntry (e j : Fin 16) (x : Option Entry) :
    (s.setEntry e x).entry j = if j = e then x else s.entry j := vector_get_set ..
@[simp] theorem State.entry_setEntry_self (e : Fin 16) (x : Option Entry) : (s.setEntry e x).entry e = x := by
  simp [entry_setEntry]
theorem State.group_setGroup (g j : Fin 4) (x : Group) :
    (s.setGroup g x).group j = if j = g then x else s.group j := vector_get_set ..
@[simp] theorem State.group_setGroup_self (g : Fin 4) (x : Group) : (s.setGroup g x).group g = x := by
  simp [group_setGroup]
theorem State.slot_setSlot (i j : Fin 16) (x : ScrubSlot) :
    (s.setSlot i x).slot j = if j = i then x else s.slot j := vector_get_set ..
@[simp] theorem State.slot_setSlot_self (i : Fin 16) (x : ScrubSlot) : (s.setSlot i x).slot i = x := by
  simp [slot_setSlot]
theorem State.fill_setFill (k j : Fin 4) (x : Option Fill) : (s.setFill k x).fill j = if j = k then x else s.fill j :=
  vector_get_set ..
@[simp] theorem State.fill_setFill_self (k : Fin 4) (x : Option Fill) : (s.setFill k x).fill k = x := by
  simp [fill_setFill]
theorem State.link_setLink (l k : LinkId) (x : Link) : (s.setLink l x).link k = if k = l then x else s.link k := by
  cases l <;> cases k <;> simp [State.setLink, State.link, Vector.getElem_set, Fin.ext_iff, eq_comm]
@[simp] theorem State.link_setLink_self (l : LinkId) (x : Link) : (s.setLink l x).link l = x := by simp [link_setLink]
theorem State.isUp_setLink (l k : LinkId) (x : Link) :
    (s.setLink l x).isUp k = if k = l then x.state == .up else s.isUp k := by
  simp only [State.isUp, link_setLink]; split <;> rfl
/-- Writing back the Link Interface a link has changes nothing. -/
theorem State.setLink_link (l : LinkId) : s.setLink l (s.link l) = s := by
  cases l <;> simp [State.setLink, State.link]

/-- The later of two writes of one Link Interface stands. -/
@[simp] theorem State.setLink_setLink (l : LinkId) (x y : Link) : (s.setLink l x).setLink l y = s.setLink l y := by
  cases l <;> simp [State.setLink]

/-! ### sendAgent -/

@[simp] theorem State.sendAgent_windows (a : AgentId) (m : AgentMsg) : (s.sendAgent a m).windows = s.windows :=
    by unfold State.sendAgent; split <;> rfl
@[simp] theorem State.sendAgent_tables (a : AgentId) (m : AgentMsg) : (s.sendAgent a m).tables = s.tables :=
    by unfold State.sendAgent; split <;> rfl
@[simp] theorem State.sendAgent_ports (a : AgentId) (m : AgentMsg) : (s.sendAgent a m).ports = s.ports :=
    by unfold State.sendAgent; split <;> rfl
@[simp] theorem State.sendAgent_fenceN (a : AgentId) (m : AgentMsg) : (s.sendAgent a m).fenceN = s.fenceN :=
    by unfold State.sendAgent; split <;> rfl
@[simp] theorem State.sendAgent_park (a : AgentId) (m : AgentMsg) : (s.sendAgent a m).park = s.park :=
    by unfold State.sendAgent; split <;> rfl
@[simp] theorem State.sendAgent_entries (a : AgentId) (m : AgentMsg) : (s.sendAgent a m).entries = s.entries :=
    by unfold State.sendAgent; split <;> rfl
@[simp] theorem State.sendAgent_groups (a : AgentId) (m : AgentMsg) : (s.sendAgent a m).groups = s.groups :=
    by unfold State.sendAgent; split <;> rfl
@[simp] theorem State.sendAgent_frames (a : AgentId) (m : AgentMsg) : (s.sendAgent a m).frames = s.frames :=
    by unfold State.sendAgent; split <;> rfl
@[simp] theorem State.sendAgent_scrub (a : AgentId) (m : AgentMsg) : (s.sendAgent a m).scrub = s.scrub :=
    by unfold State.sendAgent; split <;> rfl
@[simp] theorem State.sendAgent_device (a : AgentId) (m : AgentMsg) : (s.sendAgent a m).device = s.device :=
    by unfold State.sendAgent; split <;> rfl
@[simp] theorem State.sendAgent_tags (a : AgentId) (m : AgentMsg) : (s.sendAgent a m).tags = s.tags :=
    by unfold State.sendAgent; split <;> rfl
@[simp] theorem State.sendAgent_outbox (a : AgentId) (m : AgentMsg) : (s.sendAgent a m).outbox = s.outbox :=
    by unfold State.sendAgent; split <;> rfl
@[simp] theorem State.sendAgent_credit (a : AgentId) (m : AgentMsg) : (s.sendAgent a m).credit = s.credit :=
    by unfold State.sendAgent; split <;> rfl
@[simp] theorem State.sendAgent_noticeN (a : AgentId) (m : AgentMsg) : (s.sendAgent a m).noticeN = s.noticeN :=
    by unfold State.sendAgent; split <;> rfl
@[simp] theorem State.sendAgent_links (a : AgentId) (m : AgentMsg) : (s.sendAgent a m).links = s.links :=
    by unfold State.sendAgent; split <;> rfl
@[simp] theorem State.sendAgent_resetN (a : AgentId) (m : AgentMsg) : (s.sendAgent a m).resetN = s.resetN :=
    by unfold State.sendAgent; split <;> rfl
@[simp] theorem State.sendAgent_carrier (a : AgentId) (m : AgentMsg) : (s.sendAgent a m).carrier = s.carrier :=
    by unfold State.sendAgent; split <;> rfl
@[simp] theorem State.sendAgent_pending (a : AgentId) (m : AgentMsg) : (s.sendAgent a m).pending = s.pending :=
    by unfold State.sendAgent; split <;> rfl
@[simp] theorem State.sendAgent_behind (a : AgentId) (m : AgentMsg) : (s.sendAgent a m).behind = s.behind :=
    by unfold State.sendAgent; split <;> rfl
@[simp] theorem State.sendAgent_window (a : AgentId) (m : AgentMsg) (v : Nat) :
    (s.sendAgent a m).window v = s.window v := by unfold State.sendAgent; split <;> rfl
@[simp] theorem State.sendAgent_frame (a : AgentId) (m : AgentMsg) (f : Nat) : (s.sendAgent a m).frame f = s.frame f :=
    by unfold State.sendAgent; split <;> rfl
@[simp] theorem State.sendAgent_table (a : AgentId) (m : AgentMsg) (c : AgentId) :
    (s.sendAgent a m).table c = s.table c := by unfold State.sendAgent; split <;> rfl
@[simp] theorem State.sendAgent_port (a : AgentId) (m : AgentMsg) (c : AgentId) : (s.sendAgent a m).port c = s.port c :=
    by unfold State.sendAgent; split <;> rfl
@[simp] theorem State.sendAgent_entry (a : AgentId) (m : AgentMsg) (j : Fin 16) :
    (s.sendAgent a m).entry j = s.entry j := by unfold State.sendAgent; split <;> rfl
@[simp] theorem State.sendAgent_group (a : AgentId) (m : AgentMsg) (c : Fin 4) :
    (s.sendAgent a m).group c = s.group c := by unfold State.sendAgent; split <;> rfl
@[simp] theorem State.sendAgent_slot (a : AgentId) (m : AgentMsg) (j : Fin 16) : (s.sendAgent a m).slot j = s.slot j :=
    by unfold State.sendAgent; split <;> rfl
@[simp] theorem State.sendAgent_fill (a : AgentId) (m : AgentMsg) (c : Fin 4) : (s.sendAgent a m).fill c = s.fill c :=
    by unfold State.sendAgent; split <;> rfl
@[simp] theorem State.sendAgent_link (a : AgentId) (m : AgentMsg) (c : LinkId) : (s.sendAgent a m).link c = s.link c :=
    by unfold State.sendAgent; split <;> rfl
@[simp] theorem State.sendAgent_isUp (a : AgentId) (m : AgentMsg) (c : LinkId) : (s.sendAgent a m).isUp c = s.isUp c :=
    by unfold State.sendAgent; split <;> rfl
@[simp] theorem State.sendAgent_isAdmitted (a : AgentId) (m : AgentMsg) (c : AgentId) :
    (s.sendAgent a m).isAdmitted c = s.isAdmitted c := by unfold State.sendAgent; split <;> rfl
@[simp] theorem State.sendAgent_condition (a : AgentId) (m : AgentMsg) (v : Nat) :
    (s.sendAgent a m).condition v = s.condition v := by unfold State.sendAgent; split <;> rfl
@[simp] theorem State.sendAgent_frameCount (a : AgentId) (m : AgentMsg) : (s.sendAgent a m).frameCount = s.frameCount :=
    by unfold State.sendAgent; split <;> rfl
@[simp] theorem State.sendAgent_isServing (a : AgentId) (m : AgentMsg) : (s.sendAgent a m).isServing = s.isServing :=
    by unfold State.sendAgent; split <;> rfl
@[simp] theorem State.sendAgent_tagInUse (a : AgentId) (m : AgentMsg) (u : BitVec 8) :
    (s.sendAgent a m).tagInUse u = s.tagInUse u := by unfold State.sendAgent; split <;> rfl
@[simp] theorem State.sendAgent_active (a : AgentId) (m : AgentMsg) : (s.sendAgent a m).active = s.active :=
    by unfold State.sendAgent; split <;> rfl
@[simp] theorem State.sendAgent_quiet (a : AgentId) (m : AgentMsg) : (s.sendAgent a m).quiet = s.quiet :=
    by unfold State.sendAgent; split <;> rfl
@[simp] theorem State.sendAgent_pattern (a : AgentId) (m : AgentMsg) : (s.sendAgent a m).pattern = s.pattern :=
    by unfold State.sendAgent; split <;> rfl

/-! ### sendSup -/

@[simp] theorem State.sendSup_windows (m : SupMsg) : (s.sendSup m).windows = s.windows :=
    by unfold State.sendSup; split <;> rfl
@[simp] theorem State.sendSup_tables (m : SupMsg) : (s.sendSup m).tables = s.tables :=
    by unfold State.sendSup; split <;> rfl
@[simp] theorem State.sendSup_ports (m : SupMsg) : (s.sendSup m).ports = s.ports :=
    by unfold State.sendSup; split <;> rfl
@[simp] theorem State.sendSup_fenceN (m : SupMsg) : (s.sendSup m).fenceN = s.fenceN :=
    by unfold State.sendSup; split <;> rfl
@[simp] theorem State.sendSup_park (m : SupMsg) : (s.sendSup m).park = s.park := by unfold State.sendSup; split <;> rfl
@[simp] theorem State.sendSup_entries (m : SupMsg) : (s.sendSup m).entries = s.entries :=
    by unfold State.sendSup; split <;> rfl
@[simp] theorem State.sendSup_groups (m : SupMsg) : (s.sendSup m).groups = s.groups :=
    by unfold State.sendSup; split <;> rfl
@[simp] theorem State.sendSup_frames (m : SupMsg) : (s.sendSup m).frames = s.frames :=
    by unfold State.sendSup; split <;> rfl
@[simp] theorem State.sendSup_scrub (m : SupMsg) : (s.sendSup m).scrub = s.scrub :=
    by unfold State.sendSup; split <;> rfl
@[simp] theorem State.sendSup_device (m : SupMsg) : (s.sendSup m).device = s.device :=
    by unfold State.sendSup; split <;> rfl
@[simp] theorem State.sendSup_tags (m : SupMsg) : (s.sendSup m).tags = s.tags := by unfold State.sendSup; split <;> rfl
@[simp] theorem State.sendSup_outbox (m : SupMsg) : (s.sendSup m).outbox = s.outbox :=
    by unfold State.sendSup; split <;> rfl
@[simp] theorem State.sendSup_credit (m : SupMsg) : (s.sendSup m).credit = s.credit :=
    by unfold State.sendSup; split <;> rfl
@[simp] theorem State.sendSup_noticeN (m : SupMsg) : (s.sendSup m).noticeN = s.noticeN :=
    by unfold State.sendSup; split <;> rfl
@[simp] theorem State.sendSup_links (m : SupMsg) : (s.sendSup m).links = s.links :=
    by unfold State.sendSup; split <;> rfl
@[simp] theorem State.sendSup_resetN (m : SupMsg) : (s.sendSup m).resetN = s.resetN :=
    by unfold State.sendSup; split <;> rfl
@[simp] theorem State.sendSup_carrier (m : SupMsg) : (s.sendSup m).carrier = s.carrier :=
    by unfold State.sendSup; split <;> rfl
@[simp] theorem State.sendSup_pending (m : SupMsg) : (s.sendSup m).pending = s.pending :=
    by unfold State.sendSup; split <;> rfl
@[simp] theorem State.sendSup_behind (m : SupMsg) : (s.sendSup m).behind = s.behind :=
    by unfold State.sendSup; split <;> rfl
@[simp] theorem State.sendSup_window (m : SupMsg) (v : Nat) : (s.sendSup m).window v = s.window v :=
    by unfold State.sendSup; split <;> rfl
@[simp] theorem State.sendSup_frame (m : SupMsg) (f : Nat) : (s.sendSup m).frame f = s.frame f :=
    by unfold State.sendSup; split <;> rfl
@[simp] theorem State.sendSup_table (m : SupMsg) (c : AgentId) : (s.sendSup m).table c = s.table c :=
    by unfold State.sendSup; split <;> rfl
@[simp] theorem State.sendSup_port (m : SupMsg) (c : AgentId) : (s.sendSup m).port c = s.port c :=
    by unfold State.sendSup; split <;> rfl
@[simp] theorem State.sendSup_entry (m : SupMsg) (j : Fin 16) : (s.sendSup m).entry j = s.entry j :=
    by unfold State.sendSup; split <;> rfl
@[simp] theorem State.sendSup_group (m : SupMsg) (c : Fin 4) : (s.sendSup m).group c = s.group c :=
    by unfold State.sendSup; split <;> rfl
@[simp] theorem State.sendSup_slot (m : SupMsg) (j : Fin 16) : (s.sendSup m).slot j = s.slot j :=
    by unfold State.sendSup; split <;> rfl
@[simp] theorem State.sendSup_fill (m : SupMsg) (c : Fin 4) : (s.sendSup m).fill c = s.fill c :=
    by unfold State.sendSup; split <;> rfl
@[simp] theorem State.sendSup_link (m : SupMsg) (c : LinkId) : (s.sendSup m).link c = s.link c :=
    by unfold State.sendSup; split <;> rfl
@[simp] theorem State.sendSup_isUp (m : SupMsg) (c : LinkId) : (s.sendSup m).isUp c = s.isUp c :=
    by unfold State.sendSup; split <;> rfl
@[simp] theorem State.sendSup_isAdmitted (m : SupMsg) (c : AgentId) : (s.sendSup m).isAdmitted c = s.isAdmitted c :=
    by unfold State.sendSup; split <;> rfl
@[simp] theorem State.sendSup_condition (m : SupMsg) (v : Nat) : (s.sendSup m).condition v = s.condition v :=
    by unfold State.sendSup; split <;> rfl
@[simp] theorem State.sendSup_frameCount (m : SupMsg) : (s.sendSup m).frameCount = s.frameCount :=
    by unfold State.sendSup; split <;> rfl
@[simp] theorem State.sendSup_isServing (m : SupMsg) : (s.sendSup m).isServing = s.isServing :=
    by unfold State.sendSup; split <;> rfl
@[simp] theorem State.sendSup_tagInUse (m : SupMsg) (u : BitVec 8) : (s.sendSup m).tagInUse u = s.tagInUse u :=
    by unfold State.sendSup; split <;> rfl
@[simp] theorem State.sendSup_active (m : SupMsg) : (s.sendSup m).active = s.active :=
    by unfold State.sendSup; split <;> rfl
@[simp] theorem State.sendSup_quiet (m : SupMsg) : (s.sendSup m).quiet = s.quiet :=
    by unfold State.sendSup; split <;> rfl
@[simp] theorem State.sendSup_pattern (m : SupMsg) : (s.sendSup m).pattern = s.pattern :=
    by unfold State.sendSup; split <;> rfl

/-! ### sendFill -/

@[simp] theorem State.sendFill_windows (m : FillMsg) : (s.sendFill m).windows = s.windows :=
    by unfold State.sendFill; split <;> rfl
@[simp] theorem State.sendFill_tables (m : FillMsg) : (s.sendFill m).tables = s.tables :=
    by unfold State.sendFill; split <;> rfl
@[simp] theorem State.sendFill_ports (m : FillMsg) : (s.sendFill m).ports = s.ports :=
    by unfold State.sendFill; split <;> rfl
@[simp] theorem State.sendFill_fenceN (m : FillMsg) : (s.sendFill m).fenceN = s.fenceN :=
    by unfold State.sendFill; split <;> rfl
@[simp] theorem State.sendFill_park (m : FillMsg) : (s.sendFill m).park = s.park :=
    by unfold State.sendFill; split <;> rfl
@[simp] theorem State.sendFill_entries (m : FillMsg) : (s.sendFill m).entries = s.entries :=
    by unfold State.sendFill; split <;> rfl
@[simp] theorem State.sendFill_groups (m : FillMsg) : (s.sendFill m).groups = s.groups :=
    by unfold State.sendFill; split <;> rfl
@[simp] theorem State.sendFill_frames (m : FillMsg) : (s.sendFill m).frames = s.frames :=
    by unfold State.sendFill; split <;> rfl
@[simp] theorem State.sendFill_scrub (m : FillMsg) : (s.sendFill m).scrub = s.scrub :=
    by unfold State.sendFill; split <;> rfl
@[simp] theorem State.sendFill_device (m : FillMsg) : (s.sendFill m).device = s.device :=
    by unfold State.sendFill; split <;> rfl
@[simp] theorem State.sendFill_tags (m : FillMsg) : (s.sendFill m).tags = s.tags :=
    by unfold State.sendFill; split <;> rfl
@[simp] theorem State.sendFill_outbox (m : FillMsg) : (s.sendFill m).outbox = s.outbox :=
    by unfold State.sendFill; split <;> rfl
@[simp] theorem State.sendFill_credit (m : FillMsg) : (s.sendFill m).credit = s.credit :=
    by unfold State.sendFill; split <;> rfl
@[simp] theorem State.sendFill_noticeN (m : FillMsg) : (s.sendFill m).noticeN = s.noticeN :=
    by unfold State.sendFill; split <;> rfl
@[simp] theorem State.sendFill_links (m : FillMsg) : (s.sendFill m).links = s.links :=
    by unfold State.sendFill; split <;> rfl
@[simp] theorem State.sendFill_resetN (m : FillMsg) : (s.sendFill m).resetN = s.resetN :=
    by unfold State.sendFill; split <;> rfl
@[simp] theorem State.sendFill_carrier (m : FillMsg) : (s.sendFill m).carrier = s.carrier :=
    by unfold State.sendFill; split <;> rfl
@[simp] theorem State.sendFill_pending (m : FillMsg) : (s.sendFill m).pending = s.pending :=
    by unfold State.sendFill; split <;> rfl
@[simp] theorem State.sendFill_behind (m : FillMsg) : (s.sendFill m).behind = s.behind :=
    by unfold State.sendFill; split <;> rfl
@[simp] theorem State.sendFill_window (m : FillMsg) (v : Nat) : (s.sendFill m).window v = s.window v :=
    by unfold State.sendFill; split <;> rfl
@[simp] theorem State.sendFill_frame (m : FillMsg) (f : Nat) : (s.sendFill m).frame f = s.frame f :=
    by unfold State.sendFill; split <;> rfl
@[simp] theorem State.sendFill_table (m : FillMsg) (c : AgentId) : (s.sendFill m).table c = s.table c :=
    by unfold State.sendFill; split <;> rfl
@[simp] theorem State.sendFill_port (m : FillMsg) (c : AgentId) : (s.sendFill m).port c = s.port c :=
    by unfold State.sendFill; split <;> rfl
@[simp] theorem State.sendFill_entry (m : FillMsg) (j : Fin 16) : (s.sendFill m).entry j = s.entry j :=
    by unfold State.sendFill; split <;> rfl
@[simp] theorem State.sendFill_group (m : FillMsg) (c : Fin 4) : (s.sendFill m).group c = s.group c :=
    by unfold State.sendFill; split <;> rfl
@[simp] theorem State.sendFill_slot (m : FillMsg) (j : Fin 16) : (s.sendFill m).slot j = s.slot j :=
    by unfold State.sendFill; split <;> rfl
@[simp] theorem State.sendFill_fill (m : FillMsg) (c : Fin 4) : (s.sendFill m).fill c = s.fill c :=
    by unfold State.sendFill; split <;> rfl
@[simp] theorem State.sendFill_link (m : FillMsg) (c : LinkId) : (s.sendFill m).link c = s.link c :=
    by unfold State.sendFill; split <;> rfl
@[simp] theorem State.sendFill_isUp (m : FillMsg) (c : LinkId) : (s.sendFill m).isUp c = s.isUp c :=
    by unfold State.sendFill; split <;> rfl
@[simp] theorem State.sendFill_isAdmitted (m : FillMsg) (c : AgentId) : (s.sendFill m).isAdmitted c = s.isAdmitted c :=
    by unfold State.sendFill; split <;> rfl
@[simp] theorem State.sendFill_condition (m : FillMsg) (v : Nat) : (s.sendFill m).condition v = s.condition v :=
    by unfold State.sendFill; split <;> rfl
@[simp] theorem State.sendFill_frameCount (m : FillMsg) : (s.sendFill m).frameCount = s.frameCount :=
    by unfold State.sendFill; split <;> rfl
@[simp] theorem State.sendFill_isServing (m : FillMsg) : (s.sendFill m).isServing = s.isServing :=
    by unfold State.sendFill; split <;> rfl
@[simp] theorem State.sendFill_tagInUse (m : FillMsg) (u : BitVec 8) : (s.sendFill m).tagInUse u = s.tagInUse u :=
    by unfold State.sendFill; split <;> rfl
@[simp] theorem State.sendFill_active (m : FillMsg) : (s.sendFill m).active = s.active :=
    by unfold State.sendFill; split <;> rfl
@[simp] theorem State.sendFill_quiet (m : FillMsg) : (s.sendFill m).quiet = s.quiet :=
    by unfold State.sendFill; split <;> rfl
@[simp] theorem State.sendFill_pattern (m : FillMsg) : (s.sendFill m).pattern = s.pattern :=
    by unfold State.sendFill; split <;> rfl

/-! ### sendParameterWord -/

@[simp] theorem State.sendParameterWord_windows (l : LinkId) : (s.sendParameterWord l).windows = s.windows := rfl
@[simp] theorem State.sendParameterWord_tables (l : LinkId) : (s.sendParameterWord l).tables = s.tables := rfl
@[simp] theorem State.sendParameterWord_ports (l : LinkId) : (s.sendParameterWord l).ports = s.ports := rfl
@[simp] theorem State.sendParameterWord_fenceN (l : LinkId) : (s.sendParameterWord l).fenceN = s.fenceN := rfl
@[simp] theorem State.sendParameterWord_park (l : LinkId) : (s.sendParameterWord l).park = s.park := rfl
@[simp] theorem State.sendParameterWord_entries (l : LinkId) : (s.sendParameterWord l).entries = s.entries := rfl
@[simp] theorem State.sendParameterWord_groups (l : LinkId) : (s.sendParameterWord l).groups = s.groups := rfl
@[simp] theorem State.sendParameterWord_frames (l : LinkId) : (s.sendParameterWord l).frames = s.frames := rfl
@[simp] theorem State.sendParameterWord_scrub (l : LinkId) : (s.sendParameterWord l).scrub = s.scrub := rfl
@[simp] theorem State.sendParameterWord_device (l : LinkId) : (s.sendParameterWord l).device = s.device := rfl
@[simp] theorem State.sendParameterWord_tags (l : LinkId) : (s.sendParameterWord l).tags = s.tags := rfl
@[simp] theorem State.sendParameterWord_outbox (l : LinkId) : (s.sendParameterWord l).outbox = s.outbox := rfl
@[simp] theorem State.sendParameterWord_credit (l : LinkId) : (s.sendParameterWord l).credit = s.credit := rfl
@[simp] theorem State.sendParameterWord_noticeN (l : LinkId) : (s.sendParameterWord l).noticeN = s.noticeN := rfl
@[simp] theorem State.sendParameterWord_links (l : LinkId) : (s.sendParameterWord l).links = s.links := rfl
@[simp] theorem State.sendParameterWord_resetN (l : LinkId) : (s.sendParameterWord l).resetN = s.resetN := rfl
@[simp] theorem State.sendParameterWord_carrier (l : LinkId) : (s.sendParameterWord l).carrier = s.carrier := rfl
@[simp] theorem State.sendParameterWord_pending (l : LinkId) : (s.sendParameterWord l).pending = s.pending := rfl
@[simp] theorem State.sendParameterWord_behind (l : LinkId) : (s.sendParameterWord l).behind = s.behind := rfl
@[simp] theorem State.sendParameterWord_window (l : LinkId) (v : Nat) : (s.sendParameterWord l).window v = s.window v :=
    rfl
@[simp] theorem State.sendParameterWord_frame (l : LinkId) (f : Nat) : (s.sendParameterWord l).frame f = s.frame f :=
    rfl
@[simp] theorem State.sendParameterWord_table (l : LinkId) (c : AgentId) :
    (s.sendParameterWord l).table c = s.table c := rfl
@[simp] theorem State.sendParameterWord_port (l : LinkId) (c : AgentId) : (s.sendParameterWord l).port c = s.port c :=
    rfl
@[simp] theorem State.sendParameterWord_entry (l : LinkId) (j : Fin 16) : (s.sendParameterWord l).entry j = s.entry j :=
    rfl
@[simp] theorem State.sendParameterWord_group (l : LinkId) (c : Fin 4) : (s.sendParameterWord l).group c = s.group c :=
    rfl
@[simp] theorem State.sendParameterWord_slot (l : LinkId) (j : Fin 16) : (s.sendParameterWord l).slot j = s.slot j :=
    rfl
@[simp] theorem State.sendParameterWord_fill (l : LinkId) (c : Fin 4) : (s.sendParameterWord l).fill c = s.fill c := rfl
@[simp] theorem State.sendParameterWord_link (l : LinkId) (c : LinkId) : (s.sendParameterWord l).link c = s.link c :=
    rfl
@[simp] theorem State.sendParameterWord_isUp (l : LinkId) (c : LinkId) : (s.sendParameterWord l).isUp c = s.isUp c :=
    rfl
@[simp] theorem State.sendParameterWord_isAdmitted (l : LinkId) (c : AgentId) :
    (s.sendParameterWord l).isAdmitted c = s.isAdmitted c := rfl
@[simp] theorem State.sendParameterWord_condition (l : LinkId) (v : Nat) :
    (s.sendParameterWord l).condition v = s.condition v := rfl
@[simp] theorem State.sendParameterWord_frameCount (l : LinkId) : (s.sendParameterWord l).frameCount = s.frameCount :=
    rfl
@[simp] theorem State.sendParameterWord_isServing (l : LinkId) : (s.sendParameterWord l).isServing = s.isServing := rfl
@[simp] theorem State.sendParameterWord_tagInUse (l : LinkId) (u : BitVec 8) :
    (s.sendParameterWord l).tagInUse u = s.tagInUse u := rfl
@[simp] theorem State.sendParameterWord_active (l : LinkId) : (s.sendParameterWord l).active = s.active := rfl
@[simp] theorem State.sendParameterWord_quiet (l : LinkId) : (s.sendParameterWord l).quiet = s.quiet := rfl
@[simp] theorem State.sendParameterWord_pattern (l : LinkId) : (s.sendParameterWord l).pattern = s.pattern := rfl

/-! ### begin -/

@[simp] theorem State.begin_windows : (s.begin).windows = s.windows := rfl
@[simp] theorem State.begin_tables : (s.begin).tables = s.tables := rfl
@[simp] theorem State.begin_ports : (s.begin).ports = s.ports := rfl
@[simp] theorem State.begin_fenceN : (s.begin).fenceN = s.fenceN := rfl
@[simp] theorem State.begin_park : (s.begin).park = s.park := rfl
@[simp] theorem State.begin_entries : (s.begin).entries = s.entries := rfl
@[simp] theorem State.begin_groups : (s.begin).groups = s.groups := rfl
@[simp] theorem State.begin_frames : (s.begin).frames = s.frames := rfl
@[simp] theorem State.begin_scrub : (s.begin).scrub = s.scrub := rfl
@[simp] theorem State.begin_device : (s.begin).device = s.device := rfl
@[simp] theorem State.begin_tags : (s.begin).tags = s.tags := rfl
@[simp] theorem State.begin_outbox : (s.begin).outbox = s.outbox := rfl
@[simp] theorem State.begin_credit : (s.begin).credit = s.credit := rfl
@[simp] theorem State.begin_noticeN : (s.begin).noticeN = s.noticeN := rfl
@[simp] theorem State.begin_links : (s.begin).links = s.links := rfl
@[simp] theorem State.begin_resetN : (s.begin).resetN = s.resetN := rfl
@[simp] theorem State.begin_carrier : (s.begin).carrier = s.carrier := rfl
@[simp] theorem State.begin_pending : (s.begin).pending = s.pending := rfl
@[simp] theorem State.begin_behind : (s.begin).behind = s.behind := rfl
@[simp] theorem State.begin_window (v : Nat) : (s.begin).window v = s.window v := rfl
@[simp] theorem State.begin_frame (f : Nat) : (s.begin).frame f = s.frame f := rfl
@[simp] theorem State.begin_table (c : AgentId) : (s.begin).table c = s.table c := rfl
@[simp] theorem State.begin_port (c : AgentId) : (s.begin).port c = s.port c := rfl
@[simp] theorem State.begin_entry (j : Fin 16) : (s.begin).entry j = s.entry j := rfl
@[simp] theorem State.begin_group (c : Fin 4) : (s.begin).group c = s.group c := rfl
@[simp] theorem State.begin_slot (j : Fin 16) : (s.begin).slot j = s.slot j := rfl
@[simp] theorem State.begin_fill (c : Fin 4) : (s.begin).fill c = s.fill c := rfl
@[simp] theorem State.begin_link (c : LinkId) : (s.begin).link c = s.link c := rfl
@[simp] theorem State.begin_isUp (c : LinkId) : (s.begin).isUp c = s.isUp c := rfl
@[simp] theorem State.begin_isAdmitted (c : AgentId) : (s.begin).isAdmitted c = s.isAdmitted c := rfl
@[simp] theorem State.begin_condition (v : Nat) : (s.begin).condition v = s.condition v := rfl
@[simp] theorem State.begin_frameCount : (s.begin).frameCount = s.frameCount := rfl
@[simp] theorem State.begin_isServing : (s.begin).isServing = s.isServing := rfl
@[simp] theorem State.begin_tagInUse (u : BitVec 8) : (s.begin).tagInUse u = s.tagInUse u := rfl
@[simp] theorem State.begin_active : (s.begin).active = s.active := rfl
@[simp] theorem State.begin_quiet : (s.begin).quiet = s.quiet := rfl
@[simp] theorem State.begin_pattern : (s.begin).pattern = s.pattern := rfl

@[simp] theorem State.begin_out : s.begin.out = .nothing := rfl
@[simp] theorem State.sendParameterWord_out (l : LinkId) :
    (s.sendParameterWord l).out = { s.out with parameterWords := s.out.parameterWords ++ [l] } := rfl

/-! ### refuseSup -/

@[simp] theorem State.refuseSup_windows (k t : BitVec 8) (r : Reason) : (s.refuseSup k t r).windows = s.windows :=
    State.sendSup_windows ..
@[simp] theorem State.refuseSup_tables (k t : BitVec 8) (r : Reason) : (s.refuseSup k t r).tables = s.tables :=
    State.sendSup_tables ..
@[simp] theorem State.refuseSup_ports (k t : BitVec 8) (r : Reason) : (s.refuseSup k t r).ports = s.ports :=
    State.sendSup_ports ..
@[simp] theorem State.refuseSup_fenceN (k t : BitVec 8) (r : Reason) : (s.refuseSup k t r).fenceN = s.fenceN :=
    State.sendSup_fenceN ..
@[simp] theorem State.refuseSup_park (k t : BitVec 8) (r : Reason) : (s.refuseSup k t r).park = s.park :=
    State.sendSup_park ..
@[simp] theorem State.refuseSup_entries (k t : BitVec 8) (r : Reason) : (s.refuseSup k t r).entries = s.entries :=
    State.sendSup_entries ..
@[simp] theorem State.refuseSup_groups (k t : BitVec 8) (r : Reason) : (s.refuseSup k t r).groups = s.groups :=
    State.sendSup_groups ..
@[simp] theorem State.refuseSup_frames (k t : BitVec 8) (r : Reason) : (s.refuseSup k t r).frames = s.frames :=
    State.sendSup_frames ..
@[simp] theorem State.refuseSup_scrub (k t : BitVec 8) (r : Reason) : (s.refuseSup k t r).scrub = s.scrub :=
    State.sendSup_scrub ..
@[simp] theorem State.refuseSup_device (k t : BitVec 8) (r : Reason) : (s.refuseSup k t r).device = s.device :=
    State.sendSup_device ..
@[simp] theorem State.refuseSup_tags (k t : BitVec 8) (r : Reason) : (s.refuseSup k t r).tags = s.tags :=
    State.sendSup_tags ..
@[simp] theorem State.refuseSup_outbox (k t : BitVec 8) (r : Reason) : (s.refuseSup k t r).outbox = s.outbox :=
    State.sendSup_outbox ..
@[simp] theorem State.refuseSup_credit (k t : BitVec 8) (r : Reason) : (s.refuseSup k t r).credit = s.credit :=
    State.sendSup_credit ..
@[simp] theorem State.refuseSup_noticeN (k t : BitVec 8) (r : Reason) : (s.refuseSup k t r).noticeN = s.noticeN :=
    State.sendSup_noticeN ..
@[simp] theorem State.refuseSup_links (k t : BitVec 8) (r : Reason) : (s.refuseSup k t r).links = s.links :=
    State.sendSup_links ..
@[simp] theorem State.refuseSup_resetN (k t : BitVec 8) (r : Reason) : (s.refuseSup k t r).resetN = s.resetN :=
    State.sendSup_resetN ..
@[simp] theorem State.refuseSup_carrier (k t : BitVec 8) (r : Reason) : (s.refuseSup k t r).carrier = s.carrier :=
    State.sendSup_carrier ..
@[simp] theorem State.refuseSup_pending (k t : BitVec 8) (r : Reason) : (s.refuseSup k t r).pending = s.pending :=
    State.sendSup_pending ..
@[simp] theorem State.refuseSup_behind (k t : BitVec 8) (r : Reason) : (s.refuseSup k t r).behind = s.behind :=
    State.sendSup_behind ..
@[simp] theorem State.refuseSup_window (k t : BitVec 8) (r : Reason) (v : Nat) :
    (s.refuseSup k t r).window v = s.window v := State.sendSup_window ..
@[simp] theorem State.refuseSup_frame (k t : BitVec 8) (r : Reason) (f : Nat) :
    (s.refuseSup k t r).frame f = s.frame f := State.sendSup_frame ..
@[simp] theorem State.refuseSup_table (k t : BitVec 8) (r : Reason) (c : AgentId) :
    (s.refuseSup k t r).table c = s.table c := State.sendSup_table ..
@[simp] theorem State.refuseSup_port (k t : BitVec 8) (r : Reason) (c : AgentId) :
    (s.refuseSup k t r).port c = s.port c := State.sendSup_port ..
@[simp] theorem State.refuseSup_entry (k t : BitVec 8) (r : Reason) (j : Fin 16) :
    (s.refuseSup k t r).entry j = s.entry j := State.sendSup_entry ..
@[simp] theorem State.refuseSup_group (k t : BitVec 8) (r : Reason) (c : Fin 4) :
    (s.refuseSup k t r).group c = s.group c := State.sendSup_group ..
@[simp] theorem State.refuseSup_slot (k t : BitVec 8) (r : Reason) (j : Fin 16) :
    (s.refuseSup k t r).slot j = s.slot j := State.sendSup_slot ..
@[simp] theorem State.refuseSup_fill (k t : BitVec 8) (r : Reason) (c : Fin 4) :
    (s.refuseSup k t r).fill c = s.fill c := State.sendSup_fill ..
@[simp] theorem State.refuseSup_link (k t : BitVec 8) (r : Reason) (c : LinkId) :
    (s.refuseSup k t r).link c = s.link c := State.sendSup_link ..
@[simp] theorem State.refuseSup_isUp (k t : BitVec 8) (r : Reason) (c : LinkId) :
    (s.refuseSup k t r).isUp c = s.isUp c := State.sendSup_isUp ..
@[simp] theorem State.refuseSup_isAdmitted (k t : BitVec 8) (r : Reason) (c : AgentId) :
    (s.refuseSup k t r).isAdmitted c = s.isAdmitted c := State.sendSup_isAdmitted ..
@[simp] theorem State.refuseSup_condition (k t : BitVec 8) (r : Reason) (v : Nat) :
    (s.refuseSup k t r).condition v = s.condition v := State.sendSup_condition ..
@[simp] theorem State.refuseSup_frameCount (k t : BitVec 8) (r : Reason) :
    (s.refuseSup k t r).frameCount = s.frameCount := State.sendSup_frameCount ..
@[simp] theorem State.refuseSup_isServing (k t : BitVec 8) (r : Reason) : (s.refuseSup k t r).isServing = s.isServing :=
    State.sendSup_isServing ..
@[simp] theorem State.refuseSup_tagInUse (k t : BitVec 8) (r : Reason) (u : BitVec 8) :
    (s.refuseSup k t r).tagInUse u = s.tagInUse u := State.sendSup_tagInUse ..
@[simp] theorem State.refuseSup_active (k t : BitVec 8) (r : Reason) : (s.refuseSup k t r).active = s.active :=
    State.sendSup_active ..
@[simp] theorem State.refuseSup_quiet (k t : BitVec 8) (r : Reason) : (s.refuseSup k t r).quiet = s.quiet :=
    State.sendSup_quiet ..
@[simp] theorem State.refuseSup_pattern (k t : BitVec 8) (r : Reason) : (s.refuseSup k t r).pattern = s.pattern :=
    State.sendSup_pattern ..

/-! ### sendPlainDone -/

@[simp] theorem State.sendPlainDone_windows (t : BitVec 8) : (s.sendPlainDone t).windows = s.windows :=
    State.sendSup_windows ..
@[simp] theorem State.sendPlainDone_tables (t : BitVec 8) : (s.sendPlainDone t).tables = s.tables :=
    State.sendSup_tables ..
@[simp] theorem State.sendPlainDone_ports (t : BitVec 8) : (s.sendPlainDone t).ports = s.ports := State.sendSup_ports ..
@[simp] theorem State.sendPlainDone_fenceN (t : BitVec 8) : (s.sendPlainDone t).fenceN = s.fenceN :=
    State.sendSup_fenceN ..
@[simp] theorem State.sendPlainDone_park (t : BitVec 8) : (s.sendPlainDone t).park = s.park := State.sendSup_park ..
@[simp] theorem State.sendPlainDone_entries (t : BitVec 8) : (s.sendPlainDone t).entries = s.entries :=
    State.sendSup_entries ..
@[simp] theorem State.sendPlainDone_groups (t : BitVec 8) : (s.sendPlainDone t).groups = s.groups :=
    State.sendSup_groups ..
@[simp] theorem State.sendPlainDone_frames (t : BitVec 8) : (s.sendPlainDone t).frames = s.frames :=
    State.sendSup_frames ..
@[simp] theorem State.sendPlainDone_scrub (t : BitVec 8) : (s.sendPlainDone t).scrub = s.scrub := State.sendSup_scrub ..
@[simp] theorem State.sendPlainDone_device (t : BitVec 8) : (s.sendPlainDone t).device = s.device :=
    State.sendSup_device ..
@[simp] theorem State.sendPlainDone_tags (t : BitVec 8) : (s.sendPlainDone t).tags = s.tags := State.sendSup_tags ..
@[simp] theorem State.sendPlainDone_outbox (t : BitVec 8) : (s.sendPlainDone t).outbox = s.outbox :=
    State.sendSup_outbox ..
@[simp] theorem State.sendPlainDone_credit (t : BitVec 8) : (s.sendPlainDone t).credit = s.credit :=
    State.sendSup_credit ..
@[simp] theorem State.sendPlainDone_noticeN (t : BitVec 8) : (s.sendPlainDone t).noticeN = s.noticeN :=
    State.sendSup_noticeN ..
@[simp] theorem State.sendPlainDone_links (t : BitVec 8) : (s.sendPlainDone t).links = s.links := State.sendSup_links ..
@[simp] theorem State.sendPlainDone_resetN (t : BitVec 8) : (s.sendPlainDone t).resetN = s.resetN :=
    State.sendSup_resetN ..
@[simp] theorem State.sendPlainDone_carrier (t : BitVec 8) : (s.sendPlainDone t).carrier = s.carrier :=
    State.sendSup_carrier ..
@[simp] theorem State.sendPlainDone_pending (t : BitVec 8) : (s.sendPlainDone t).pending = s.pending :=
    State.sendSup_pending ..
@[simp] theorem State.sendPlainDone_behind (t : BitVec 8) : (s.sendPlainDone t).behind = s.behind :=
    State.sendSup_behind ..
@[simp] theorem State.sendPlainDone_window (t : BitVec 8) (v : Nat) : (s.sendPlainDone t).window v = s.window v :=
    State.sendSup_window ..
@[simp] theorem State.sendPlainDone_frame (t : BitVec 8) (f : Nat) : (s.sendPlainDone t).frame f = s.frame f :=
    State.sendSup_frame ..
@[simp] theorem State.sendPlainDone_table (t : BitVec 8) (c : AgentId) : (s.sendPlainDone t).table c = s.table c :=
    State.sendSup_table ..
@[simp] theorem State.sendPlainDone_port (t : BitVec 8) (c : AgentId) : (s.sendPlainDone t).port c = s.port c :=
    State.sendSup_port ..
@[simp] theorem State.sendPlainDone_entry (t : BitVec 8) (j : Fin 16) : (s.sendPlainDone t).entry j = s.entry j :=
    State.sendSup_entry ..
@[simp] theorem State.sendPlainDone_group (t : BitVec 8) (c : Fin 4) : (s.sendPlainDone t).group c = s.group c :=
    State.sendSup_group ..
@[simp] theorem State.sendPlainDone_slot (t : BitVec 8) (j : Fin 16) : (s.sendPlainDone t).slot j = s.slot j :=
    State.sendSup_slot ..
@[simp] theorem State.sendPlainDone_fill (t : BitVec 8) (c : Fin 4) : (s.sendPlainDone t).fill c = s.fill c :=
    State.sendSup_fill ..
@[simp] theorem State.sendPlainDone_link (t : BitVec 8) (c : LinkId) : (s.sendPlainDone t).link c = s.link c :=
    State.sendSup_link ..
@[simp] theorem State.sendPlainDone_isUp (t : BitVec 8) (c : LinkId) : (s.sendPlainDone t).isUp c = s.isUp c :=
    State.sendSup_isUp ..
@[simp] theorem State.sendPlainDone_isAdmitted (t : BitVec 8) (c : AgentId) :
    (s.sendPlainDone t).isAdmitted c = s.isAdmitted c := State.sendSup_isAdmitted ..
@[simp] theorem State.sendPlainDone_condition (t : BitVec 8) (v : Nat) :
    (s.sendPlainDone t).condition v = s.condition v := State.sendSup_condition ..
@[simp] theorem State.sendPlainDone_frameCount (t : BitVec 8) : (s.sendPlainDone t).frameCount = s.frameCount :=
    State.sendSup_frameCount ..
@[simp] theorem State.sendPlainDone_isServing (t : BitVec 8) : (s.sendPlainDone t).isServing = s.isServing :=
    State.sendSup_isServing ..
@[simp] theorem State.sendPlainDone_tagInUse (t : BitVec 8) (u : BitVec 8) :
    (s.sendPlainDone t).tagInUse u = s.tagInUse u := State.sendSup_tagInUse ..
@[simp] theorem State.sendPlainDone_active (t : BitVec 8) : (s.sendPlainDone t).active = s.active :=
    State.sendSup_active ..
@[simp] theorem State.sendPlainDone_quiet (t : BitVec 8) : (s.sendPlainDone t).quiet = s.quiet := State.sendSup_quiet ..
@[simp] theorem State.sendPlainDone_pattern (t : BitVec 8) : (s.sendPlainDone t).pattern = s.pattern :=
    State.sendSup_pattern ..

/-! ### refuseAgent -/

@[simp] theorem State.refuseAgent_windows (a : AgentId) (k t : BitVec 8) (r : Reason) :
    (s.refuseAgent a k t r).windows = s.windows := State.sendAgent_windows ..
@[simp] theorem State.refuseAgent_tables (a : AgentId) (k t : BitVec 8) (r : Reason) :
    (s.refuseAgent a k t r).tables = s.tables := State.sendAgent_tables ..
@[simp] theorem State.refuseAgent_ports (a : AgentId) (k t : BitVec 8) (r : Reason) :
    (s.refuseAgent a k t r).ports = s.ports := State.sendAgent_ports ..
@[simp] theorem State.refuseAgent_fenceN (a : AgentId) (k t : BitVec 8) (r : Reason) :
    (s.refuseAgent a k t r).fenceN = s.fenceN := State.sendAgent_fenceN ..
@[simp] theorem State.refuseAgent_park (a : AgentId) (k t : BitVec 8) (r : Reason) :
    (s.refuseAgent a k t r).park = s.park := State.sendAgent_park ..
@[simp] theorem State.refuseAgent_entries (a : AgentId) (k t : BitVec 8) (r : Reason) :
    (s.refuseAgent a k t r).entries = s.entries := State.sendAgent_entries ..
@[simp] theorem State.refuseAgent_groups (a : AgentId) (k t : BitVec 8) (r : Reason) :
    (s.refuseAgent a k t r).groups = s.groups := State.sendAgent_groups ..
@[simp] theorem State.refuseAgent_frames (a : AgentId) (k t : BitVec 8) (r : Reason) :
    (s.refuseAgent a k t r).frames = s.frames := State.sendAgent_frames ..
@[simp] theorem State.refuseAgent_scrub (a : AgentId) (k t : BitVec 8) (r : Reason) :
    (s.refuseAgent a k t r).scrub = s.scrub := State.sendAgent_scrub ..
@[simp] theorem State.refuseAgent_device (a : AgentId) (k t : BitVec 8) (r : Reason) :
    (s.refuseAgent a k t r).device = s.device := State.sendAgent_device ..
@[simp] theorem State.refuseAgent_tags (a : AgentId) (k t : BitVec 8) (r : Reason) :
    (s.refuseAgent a k t r).tags = s.tags := State.sendAgent_tags ..
@[simp] theorem State.refuseAgent_outbox (a : AgentId) (k t : BitVec 8) (r : Reason) :
    (s.refuseAgent a k t r).outbox = s.outbox := State.sendAgent_outbox ..
@[simp] theorem State.refuseAgent_credit (a : AgentId) (k t : BitVec 8) (r : Reason) :
    (s.refuseAgent a k t r).credit = s.credit := State.sendAgent_credit ..
@[simp] theorem State.refuseAgent_noticeN (a : AgentId) (k t : BitVec 8) (r : Reason) :
    (s.refuseAgent a k t r).noticeN = s.noticeN := State.sendAgent_noticeN ..
@[simp] theorem State.refuseAgent_links (a : AgentId) (k t : BitVec 8) (r : Reason) :
    (s.refuseAgent a k t r).links = s.links := State.sendAgent_links ..
@[simp] theorem State.refuseAgent_resetN (a : AgentId) (k t : BitVec 8) (r : Reason) :
    (s.refuseAgent a k t r).resetN = s.resetN := State.sendAgent_resetN ..
@[simp] theorem State.refuseAgent_carrier (a : AgentId) (k t : BitVec 8) (r : Reason) :
    (s.refuseAgent a k t r).carrier = s.carrier := State.sendAgent_carrier ..
@[simp] theorem State.refuseAgent_pending (a : AgentId) (k t : BitVec 8) (r : Reason) :
    (s.refuseAgent a k t r).pending = s.pending := State.sendAgent_pending ..
@[simp] theorem State.refuseAgent_behind (a : AgentId) (k t : BitVec 8) (r : Reason) :
    (s.refuseAgent a k t r).behind = s.behind := State.sendAgent_behind ..
@[simp] theorem State.refuseAgent_window (a : AgentId) (k t : BitVec 8) (r : Reason) (v : Nat) :
    (s.refuseAgent a k t r).window v = s.window v := State.sendAgent_window ..
@[simp] theorem State.refuseAgent_frame (a : AgentId) (k t : BitVec 8) (r : Reason) (f : Nat) :
    (s.refuseAgent a k t r).frame f = s.frame f := State.sendAgent_frame ..
@[simp] theorem State.refuseAgent_table (a : AgentId) (k t : BitVec 8) (r : Reason) (c : AgentId) :
    (s.refuseAgent a k t r).table c = s.table c := State.sendAgent_table ..
@[simp] theorem State.refuseAgent_port (a : AgentId) (k t : BitVec 8) (r : Reason) (c : AgentId) :
    (s.refuseAgent a k t r).port c = s.port c := State.sendAgent_port ..
@[simp] theorem State.refuseAgent_entry (a : AgentId) (k t : BitVec 8) (r : Reason) (j : Fin 16) :
    (s.refuseAgent a k t r).entry j = s.entry j := State.sendAgent_entry ..
@[simp] theorem State.refuseAgent_group (a : AgentId) (k t : BitVec 8) (r : Reason) (c : Fin 4) :
    (s.refuseAgent a k t r).group c = s.group c := State.sendAgent_group ..
@[simp] theorem State.refuseAgent_slot (a : AgentId) (k t : BitVec 8) (r : Reason) (j : Fin 16) :
    (s.refuseAgent a k t r).slot j = s.slot j := State.sendAgent_slot ..
@[simp] theorem State.refuseAgent_fill (a : AgentId) (k t : BitVec 8) (r : Reason) (c : Fin 4) :
    (s.refuseAgent a k t r).fill c = s.fill c := State.sendAgent_fill ..
@[simp] theorem State.refuseAgent_link (a : AgentId) (k t : BitVec 8) (r : Reason) (c : LinkId) :
    (s.refuseAgent a k t r).link c = s.link c := State.sendAgent_link ..
@[simp] theorem State.refuseAgent_isUp (a : AgentId) (k t : BitVec 8) (r : Reason) (c : LinkId) :
    (s.refuseAgent a k t r).isUp c = s.isUp c := State.sendAgent_isUp ..
@[simp] theorem State.refuseAgent_isAdmitted (a : AgentId) (k t : BitVec 8) (r : Reason) (c : AgentId) :
    (s.refuseAgent a k t r).isAdmitted c = s.isAdmitted c := State.sendAgent_isAdmitted ..
@[simp] theorem State.refuseAgent_condition (a : AgentId) (k t : BitVec 8) (r : Reason) (v : Nat) :
    (s.refuseAgent a k t r).condition v = s.condition v := State.sendAgent_condition ..
@[simp] theorem State.refuseAgent_frameCount (a : AgentId) (k t : BitVec 8) (r : Reason) :
    (s.refuseAgent a k t r).frameCount = s.frameCount := State.sendAgent_frameCount ..
@[simp] theorem State.refuseAgent_isServing (a : AgentId) (k t : BitVec 8) (r : Reason) :
    (s.refuseAgent a k t r).isServing = s.isServing := State.sendAgent_isServing ..
@[simp] theorem State.refuseAgent_tagInUse (a : AgentId) (k t : BitVec 8) (r : Reason) (u : BitVec 8) :
    (s.refuseAgent a k t r).tagInUse u = s.tagInUse u := State.sendAgent_tagInUse ..
@[simp] theorem State.refuseAgent_active (a : AgentId) (k t : BitVec 8) (r : Reason) :
    (s.refuseAgent a k t r).active = s.active := State.sendAgent_active ..
@[simp] theorem State.refuseAgent_quiet (a : AgentId) (k t : BitVec 8) (r : Reason) :
    (s.refuseAgent a k t r).quiet = s.quiet := State.sendAgent_quiet ..
@[simp] theorem State.refuseAgent_pattern (a : AgentId) (k t : BitVec 8) (r : Reason) :
    (s.refuseAgent a k t r).pattern = s.pattern := State.sendAgent_pattern ..

/-! ### refuseLookup -/

@[simp] theorem State.refuseLookup_windows (a : AgentId) (t : BitVec 8) (w : BitVec 16) (r : Reason) :
    (s.refuseLookup a t w r).windows = s.windows := State.sendAgent_windows ..
@[simp] theorem State.refuseLookup_tables (a : AgentId) (t : BitVec 8) (w : BitVec 16) (r : Reason) :
    (s.refuseLookup a t w r).tables = s.tables := State.sendAgent_tables ..
@[simp] theorem State.refuseLookup_ports (a : AgentId) (t : BitVec 8) (w : BitVec 16) (r : Reason) :
    (s.refuseLookup a t w r).ports = s.ports := State.sendAgent_ports ..
@[simp] theorem State.refuseLookup_fenceN (a : AgentId) (t : BitVec 8) (w : BitVec 16) (r : Reason) :
    (s.refuseLookup a t w r).fenceN = s.fenceN := State.sendAgent_fenceN ..
@[simp] theorem State.refuseLookup_park (a : AgentId) (t : BitVec 8) (w : BitVec 16) (r : Reason) :
    (s.refuseLookup a t w r).park = s.park := State.sendAgent_park ..
@[simp] theorem State.refuseLookup_entries (a : AgentId) (t : BitVec 8) (w : BitVec 16) (r : Reason) :
    (s.refuseLookup a t w r).entries = s.entries := State.sendAgent_entries ..
@[simp] theorem State.refuseLookup_groups (a : AgentId) (t : BitVec 8) (w : BitVec 16) (r : Reason) :
    (s.refuseLookup a t w r).groups = s.groups := State.sendAgent_groups ..
@[simp] theorem State.refuseLookup_frames (a : AgentId) (t : BitVec 8) (w : BitVec 16) (r : Reason) :
    (s.refuseLookup a t w r).frames = s.frames := State.sendAgent_frames ..
@[simp] theorem State.refuseLookup_scrub (a : AgentId) (t : BitVec 8) (w : BitVec 16) (r : Reason) :
    (s.refuseLookup a t w r).scrub = s.scrub := State.sendAgent_scrub ..
@[simp] theorem State.refuseLookup_device (a : AgentId) (t : BitVec 8) (w : BitVec 16) (r : Reason) :
    (s.refuseLookup a t w r).device = s.device := State.sendAgent_device ..
@[simp] theorem State.refuseLookup_tags (a : AgentId) (t : BitVec 8) (w : BitVec 16) (r : Reason) :
    (s.refuseLookup a t w r).tags = s.tags := State.sendAgent_tags ..
@[simp] theorem State.refuseLookup_outbox (a : AgentId) (t : BitVec 8) (w : BitVec 16) (r : Reason) :
    (s.refuseLookup a t w r).outbox = s.outbox := State.sendAgent_outbox ..
@[simp] theorem State.refuseLookup_credit (a : AgentId) (t : BitVec 8) (w : BitVec 16) (r : Reason) :
    (s.refuseLookup a t w r).credit = s.credit := State.sendAgent_credit ..
@[simp] theorem State.refuseLookup_noticeN (a : AgentId) (t : BitVec 8) (w : BitVec 16) (r : Reason) :
    (s.refuseLookup a t w r).noticeN = s.noticeN := State.sendAgent_noticeN ..
@[simp] theorem State.refuseLookup_links (a : AgentId) (t : BitVec 8) (w : BitVec 16) (r : Reason) :
    (s.refuseLookup a t w r).links = s.links := State.sendAgent_links ..
@[simp] theorem State.refuseLookup_resetN (a : AgentId) (t : BitVec 8) (w : BitVec 16) (r : Reason) :
    (s.refuseLookup a t w r).resetN = s.resetN := State.sendAgent_resetN ..
@[simp] theorem State.refuseLookup_carrier (a : AgentId) (t : BitVec 8) (w : BitVec 16) (r : Reason) :
    (s.refuseLookup a t w r).carrier = s.carrier := State.sendAgent_carrier ..
@[simp] theorem State.refuseLookup_pending (a : AgentId) (t : BitVec 8) (w : BitVec 16) (r : Reason) :
    (s.refuseLookup a t w r).pending = s.pending := State.sendAgent_pending ..
@[simp] theorem State.refuseLookup_behind (a : AgentId) (t : BitVec 8) (w : BitVec 16) (r : Reason) :
    (s.refuseLookup a t w r).behind = s.behind := State.sendAgent_behind ..
@[simp] theorem State.refuseLookup_window (a : AgentId) (t : BitVec 8) (w : BitVec 16) (r : Reason) (v : Nat) :
    (s.refuseLookup a t w r).window v = s.window v := State.sendAgent_window ..
@[simp] theorem State.refuseLookup_frame (a : AgentId) (t : BitVec 8) (w : BitVec 16) (r : Reason) (f : Nat) :
    (s.refuseLookup a t w r).frame f = s.frame f := State.sendAgent_frame ..
@[simp] theorem State.refuseLookup_table (a : AgentId) (t : BitVec 8) (w : BitVec 16) (r : Reason) (c : AgentId) :
    (s.refuseLookup a t w r).table c = s.table c := State.sendAgent_table ..
@[simp] theorem State.refuseLookup_port (a : AgentId) (t : BitVec 8) (w : BitVec 16) (r : Reason) (c : AgentId) :
    (s.refuseLookup a t w r).port c = s.port c := State.sendAgent_port ..
@[simp] theorem State.refuseLookup_entry (a : AgentId) (t : BitVec 8) (w : BitVec 16) (r : Reason) (j : Fin 16) :
    (s.refuseLookup a t w r).entry j = s.entry j := State.sendAgent_entry ..
@[simp] theorem State.refuseLookup_group (a : AgentId) (t : BitVec 8) (w : BitVec 16) (r : Reason) (c : Fin 4) :
    (s.refuseLookup a t w r).group c = s.group c := State.sendAgent_group ..
@[simp] theorem State.refuseLookup_slot (a : AgentId) (t : BitVec 8) (w : BitVec 16) (r : Reason) (j : Fin 16) :
    (s.refuseLookup a t w r).slot j = s.slot j := State.sendAgent_slot ..
@[simp] theorem State.refuseLookup_fill (a : AgentId) (t : BitVec 8) (w : BitVec 16) (r : Reason) (c : Fin 4) :
    (s.refuseLookup a t w r).fill c = s.fill c := State.sendAgent_fill ..
@[simp] theorem State.refuseLookup_link (a : AgentId) (t : BitVec 8) (w : BitVec 16) (r : Reason) (c : LinkId) :
    (s.refuseLookup a t w r).link c = s.link c := State.sendAgent_link ..
@[simp] theorem State.refuseLookup_isUp (a : AgentId) (t : BitVec 8) (w : BitVec 16) (r : Reason) (c : LinkId) :
    (s.refuseLookup a t w r).isUp c = s.isUp c := State.sendAgent_isUp ..
@[simp] theorem State.refuseLookup_isAdmitted (a : AgentId) (t : BitVec 8) (w : BitVec 16) (r : Reason) (c : AgentId) :
    (s.refuseLookup a t w r).isAdmitted c = s.isAdmitted c := State.sendAgent_isAdmitted ..
@[simp] theorem State.refuseLookup_condition (a : AgentId) (t : BitVec 8) (w : BitVec 16) (r : Reason) (v : Nat) :
    (s.refuseLookup a t w r).condition v = s.condition v := State.sendAgent_condition ..
@[simp] theorem State.refuseLookup_frameCount (a : AgentId) (t : BitVec 8) (w : BitVec 16) (r : Reason) :
    (s.refuseLookup a t w r).frameCount = s.frameCount := State.sendAgent_frameCount ..
@[simp] theorem State.refuseLookup_isServing (a : AgentId) (t : BitVec 8) (w : BitVec 16) (r : Reason) :
    (s.refuseLookup a t w r).isServing = s.isServing := State.sendAgent_isServing ..
@[simp] theorem State.refuseLookup_tagInUse (a : AgentId) (t : BitVec 8) (w : BitVec 16) (r : Reason) (u : BitVec 8) :
    (s.refuseLookup a t w r).tagInUse u = s.tagInUse u := State.sendAgent_tagInUse ..
@[simp] theorem State.refuseLookup_active (a : AgentId) (t : BitVec 8) (w : BitVec 16) (r : Reason) :
    (s.refuseLookup a t w r).active = s.active := State.sendAgent_active ..
@[simp] theorem State.refuseLookup_quiet (a : AgentId) (t : BitVec 8) (w : BitVec 16) (r : Reason) :
    (s.refuseLookup a t w r).quiet = s.quiet := State.sendAgent_quiet ..
@[simp] theorem State.refuseLookup_pattern (a : AgentId) (t : BitVec 8) (w : BitVec 16) (r : Reason) :
    (s.refuseLookup a t w r).pattern = s.pattern := State.sendAgent_pattern ..

/-! ### finish -/

@[simp] theorem State.finish_windows (t : BitVec 8) (d : DoneOutcome) (g : Option (BitVec 16)) (n : FinSet 8) (i : Option (Fin 16)) :
    (s.finish t d g n i).windows = s.windows := State.sendSup_windows ..
@[simp] theorem State.finish_tables (t : BitVec 8) (d : DoneOutcome) (g : Option (BitVec 16)) (n : FinSet 8) (i : Option (Fin 16)) :
    (s.finish t d g n i).tables = s.tables := State.sendSup_tables ..
@[simp] theorem State.finish_ports (t : BitVec 8) (d : DoneOutcome) (g : Option (BitVec 16)) (n : FinSet 8) (i : Option (Fin 16)) :
    (s.finish t d g n i).ports = s.ports := State.sendSup_ports ..
@[simp] theorem State.finish_fenceN (t : BitVec 8) (d : DoneOutcome) (g : Option (BitVec 16)) (n : FinSet 8) (i : Option (Fin 16)) :
    (s.finish t d g n i).fenceN = s.fenceN := State.sendSup_fenceN ..
@[simp] theorem State.finish_park (t : BitVec 8) (d : DoneOutcome) (g : Option (BitVec 16)) (n : FinSet 8) (i : Option (Fin 16)) :
    (s.finish t d g n i).park = s.park := State.sendSup_park ..
@[simp] theorem State.finish_entries (t : BitVec 8) (d : DoneOutcome) (g : Option (BitVec 16)) (n : FinSet 8) (i : Option (Fin 16)) :
    (s.finish t d g n i).entries = s.entries := State.sendSup_entries ..
@[simp] theorem State.finish_groups (t : BitVec 8) (d : DoneOutcome) (g : Option (BitVec 16)) (n : FinSet 8) (i : Option (Fin 16)) :
    (s.finish t d g n i).groups = s.groups := State.sendSup_groups ..
@[simp] theorem State.finish_frames (t : BitVec 8) (d : DoneOutcome) (g : Option (BitVec 16)) (n : FinSet 8) (i : Option (Fin 16)) :
    (s.finish t d g n i).frames = s.frames := State.sendSup_frames ..
@[simp] theorem State.finish_scrub (t : BitVec 8) (d : DoneOutcome) (g : Option (BitVec 16)) (n : FinSet 8) (i : Option (Fin 16)) :
    (s.finish t d g n i).scrub = s.scrub := State.sendSup_scrub ..
@[simp] theorem State.finish_device (t : BitVec 8) (d : DoneOutcome) (g : Option (BitVec 16)) (n : FinSet 8) (i : Option (Fin 16)) :
    (s.finish t d g n i).device = s.device := State.sendSup_device ..
@[simp] theorem State.finish_outbox (t : BitVec 8) (d : DoneOutcome) (g : Option (BitVec 16)) (n : FinSet 8) (i : Option (Fin 16)) :
    (s.finish t d g n i).outbox = s.outbox := State.sendSup_outbox ..
@[simp] theorem State.finish_credit (t : BitVec 8) (d : DoneOutcome) (g : Option (BitVec 16)) (n : FinSet 8) (i : Option (Fin 16)) :
    (s.finish t d g n i).credit = s.credit := State.sendSup_credit ..
@[simp] theorem State.finish_noticeN (t : BitVec 8) (d : DoneOutcome) (g : Option (BitVec 16)) (n : FinSet 8) (i : Option (Fin 16)) :
    (s.finish t d g n i).noticeN = s.noticeN := State.sendSup_noticeN ..
@[simp] theorem State.finish_links (t : BitVec 8) (d : DoneOutcome) (g : Option (BitVec 16)) (n : FinSet 8) (i : Option (Fin 16)) :
    (s.finish t d g n i).links = s.links := State.sendSup_links ..
@[simp] theorem State.finish_resetN (t : BitVec 8) (d : DoneOutcome) (g : Option (BitVec 16)) (n : FinSet 8) (i : Option (Fin 16)) :
    (s.finish t d g n i).resetN = s.resetN := State.sendSup_resetN ..
@[simp] theorem State.finish_carrier (t : BitVec 8) (d : DoneOutcome) (g : Option (BitVec 16)) (n : FinSet 8) (i : Option (Fin 16)) :
    (s.finish t d g n i).carrier = s.carrier := State.sendSup_carrier ..
@[simp] theorem State.finish_pending (t : BitVec 8) (d : DoneOutcome) (g : Option (BitVec 16)) (n : FinSet 8) (i : Option (Fin 16)) :
    (s.finish t d g n i).pending = s.pending := State.sendSup_pending ..
@[simp] theorem State.finish_behind (t : BitVec 8) (d : DoneOutcome) (g : Option (BitVec 16)) (n : FinSet 8) (i : Option (Fin 16)) :
    (s.finish t d g n i).behind = s.behind := State.sendSup_behind ..
@[simp] theorem State.finish_window (t : BitVec 8) (d : DoneOutcome) (g : Option (BitVec 16)) (n : FinSet 8) (i : Option (Fin 16)) (v : Nat) :
    (s.finish t d g n i).window v = s.window v := State.sendSup_window ..
@[simp] theorem State.finish_frame (t : BitVec 8) (d : DoneOutcome) (g : Option (BitVec 16)) (n : FinSet 8) (i : Option (Fin 16)) (f : Nat) :
    (s.finish t d g n i).frame f = s.frame f := State.sendSup_frame ..
@[simp] theorem State.finish_table (t : BitVec 8) (d : DoneOutcome) (g : Option (BitVec 16)) (n : FinSet 8) (i : Option (Fin 16)) (c : AgentId) :
    (s.finish t d g n i).table c = s.table c := State.sendSup_table ..
@[simp] theorem State.finish_port (t : BitVec 8) (d : DoneOutcome) (g : Option (BitVec 16)) (n : FinSet 8) (i : Option (Fin 16)) (c : AgentId) :
    (s.finish t d g n i).port c = s.port c := State.sendSup_port ..
@[simp] theorem State.finish_entry (t : BitVec 8) (d : DoneOutcome) (g : Option (BitVec 16)) (n : FinSet 8) (i : Option (Fin 16)) (j : Fin 16) :
    (s.finish t d g n i).entry j = s.entry j := State.sendSup_entry ..
@[simp] theorem State.finish_group (t : BitVec 8) (d : DoneOutcome) (g : Option (BitVec 16)) (n : FinSet 8) (i : Option (Fin 16)) (c : Fin 4) :
    (s.finish t d g n i).group c = s.group c := State.sendSup_group ..
@[simp] theorem State.finish_slot (t : BitVec 8) (d : DoneOutcome) (g : Option (BitVec 16)) (n : FinSet 8) (i : Option (Fin 16)) (j : Fin 16) :
    (s.finish t d g n i).slot j = s.slot j := State.sendSup_slot ..
@[simp] theorem State.finish_fill (t : BitVec 8) (d : DoneOutcome) (g : Option (BitVec 16)) (n : FinSet 8) (i : Option (Fin 16)) (c : Fin 4) :
    (s.finish t d g n i).fill c = s.fill c := State.sendSup_fill ..
@[simp] theorem State.finish_link (t : BitVec 8) (d : DoneOutcome) (g : Option (BitVec 16)) (n : FinSet 8) (i : Option (Fin 16)) (c : LinkId) :
    (s.finish t d g n i).link c = s.link c := State.sendSup_link ..
@[simp] theorem State.finish_isUp (t : BitVec 8) (d : DoneOutcome) (g : Option (BitVec 16)) (n : FinSet 8) (i : Option (Fin 16)) (c : LinkId) :
    (s.finish t d g n i).isUp c = s.isUp c := State.sendSup_isUp ..
@[simp] theorem State.finish_isAdmitted (t : BitVec 8) (d : DoneOutcome) (g : Option (BitVec 16)) (n : FinSet 8) (i : Option (Fin 16)) (c : AgentId) :
    (s.finish t d g n i).isAdmitted c = s.isAdmitted c := State.sendSup_isAdmitted ..
@[simp] theorem State.finish_condition (t : BitVec 8) (d : DoneOutcome) (g : Option (BitVec 16)) (n : FinSet 8) (i : Option (Fin 16)) (v : Nat) :
    (s.finish t d g n i).condition v = s.condition v := State.sendSup_condition ..
@[simp] theorem State.finish_frameCount (t : BitVec 8) (d : DoneOutcome) (g : Option (BitVec 16)) (n : FinSet 8) (i : Option (Fin 16)) :
    (s.finish t d g n i).frameCount = s.frameCount := State.sendSup_frameCount ..
@[simp] theorem State.finish_isServing (t : BitVec 8) (d : DoneOutcome) (g : Option (BitVec 16)) (n : FinSet 8) (i : Option (Fin 16)) :
    (s.finish t d g n i).isServing = s.isServing := State.sendSup_isServing ..
@[simp] theorem State.finish_active (t : BitVec 8) (d : DoneOutcome) (g : Option (BitVec 16)) (n : FinSet 8) (i : Option (Fin 16)) :
    (s.finish t d g n i).active = s.active := State.sendSup_active ..
@[simp] theorem State.finish_quiet (t : BitVec 8) (d : DoneOutcome) (g : Option (BitVec 16)) (n : FinSet 8) (i : Option (Fin 16)) :
    (s.finish t d g n i).quiet = s.quiet := State.sendSup_quiet ..
@[simp] theorem State.finish_pattern (t : BitVec 8) (d : DoneOutcome) (g : Option (BitVec 16)) (n : FinSet 8) (i : Option (Fin 16)) :
    (s.finish t d g n i).pattern = s.pattern := State.sendSup_pattern ..

/-! ### accept -/

@[simp] theorem State.accept_windows (t : BitVec 8) : (s.accept t).windows = s.windows := State.sendSup_windows ..
@[simp] theorem State.accept_tables (t : BitVec 8) : (s.accept t).tables = s.tables := State.sendSup_tables ..
@[simp] theorem State.accept_ports (t : BitVec 8) : (s.accept t).ports = s.ports := State.sendSup_ports ..
@[simp] theorem State.accept_fenceN (t : BitVec 8) : (s.accept t).fenceN = s.fenceN := State.sendSup_fenceN ..
@[simp] theorem State.accept_park (t : BitVec 8) : (s.accept t).park = s.park := State.sendSup_park ..
@[simp] theorem State.accept_entries (t : BitVec 8) : (s.accept t).entries = s.entries := State.sendSup_entries ..
@[simp] theorem State.accept_groups (t : BitVec 8) : (s.accept t).groups = s.groups := State.sendSup_groups ..
@[simp] theorem State.accept_frames (t : BitVec 8) : (s.accept t).frames = s.frames := State.sendSup_frames ..
@[simp] theorem State.accept_scrub (t : BitVec 8) : (s.accept t).scrub = s.scrub := State.sendSup_scrub ..
@[simp] theorem State.accept_device (t : BitVec 8) : (s.accept t).device = s.device := State.sendSup_device ..
@[simp] theorem State.accept_outbox (t : BitVec 8) : (s.accept t).outbox = s.outbox := State.sendSup_outbox ..
@[simp] theorem State.accept_credit (t : BitVec 8) : (s.accept t).credit = s.credit := State.sendSup_credit ..
@[simp] theorem State.accept_noticeN (t : BitVec 8) : (s.accept t).noticeN = s.noticeN := State.sendSup_noticeN ..
@[simp] theorem State.accept_links (t : BitVec 8) : (s.accept t).links = s.links := State.sendSup_links ..
@[simp] theorem State.accept_resetN (t : BitVec 8) : (s.accept t).resetN = s.resetN := State.sendSup_resetN ..
@[simp] theorem State.accept_carrier (t : BitVec 8) : (s.accept t).carrier = s.carrier := State.sendSup_carrier ..
@[simp] theorem State.accept_pending (t : BitVec 8) : (s.accept t).pending = s.pending := State.sendSup_pending ..
@[simp] theorem State.accept_behind (t : BitVec 8) : (s.accept t).behind = s.behind := State.sendSup_behind ..
@[simp] theorem State.accept_window (t : BitVec 8) (v : Nat) : (s.accept t).window v = s.window v :=
    State.sendSup_window ..
@[simp] theorem State.accept_frame (t : BitVec 8) (f : Nat) : (s.accept t).frame f = s.frame f := State.sendSup_frame ..
@[simp] theorem State.accept_table (t : BitVec 8) (c : AgentId) : (s.accept t).table c = s.table c :=
    State.sendSup_table ..
@[simp] theorem State.accept_port (t : BitVec 8) (c : AgentId) : (s.accept t).port c = s.port c := State.sendSup_port ..
@[simp] theorem State.accept_entry (t : BitVec 8) (j : Fin 16) : (s.accept t).entry j = s.entry j :=
    State.sendSup_entry ..
@[simp] theorem State.accept_group (t : BitVec 8) (c : Fin 4) : (s.accept t).group c = s.group c :=
    State.sendSup_group ..
@[simp] theorem State.accept_slot (t : BitVec 8) (j : Fin 16) : (s.accept t).slot j = s.slot j := State.sendSup_slot ..
@[simp] theorem State.accept_fill (t : BitVec 8) (c : Fin 4) : (s.accept t).fill c = s.fill c := State.sendSup_fill ..
@[simp] theorem State.accept_link (t : BitVec 8) (c : LinkId) : (s.accept t).link c = s.link c := State.sendSup_link ..
@[simp] theorem State.accept_isUp (t : BitVec 8) (c : LinkId) : (s.accept t).isUp c = s.isUp c := State.sendSup_isUp ..
@[simp] theorem State.accept_isAdmitted (t : BitVec 8) (c : AgentId) : (s.accept t).isAdmitted c = s.isAdmitted c :=
    State.sendSup_isAdmitted ..
@[simp] theorem State.accept_condition (t : BitVec 8) (v : Nat) : (s.accept t).condition v = s.condition v :=
    State.sendSup_condition ..
@[simp] theorem State.accept_frameCount (t : BitVec 8) : (s.accept t).frameCount = s.frameCount :=
    State.sendSup_frameCount ..
@[simp] theorem State.accept_isServing (t : BitVec 8) : (s.accept t).isServing = s.isServing :=
    State.sendSup_isServing ..
@[simp] theorem State.accept_active (t : BitVec 8) : (s.accept t).active = s.active := State.sendSup_active ..
@[simp] theorem State.accept_quiet (t : BitVec 8) : (s.accept t).quiet = s.quiet := State.sendSup_quiet ..
@[simp] theorem State.accept_pattern (t : BitVec 8) : (s.accept t).pattern = s.pattern := State.sendSup_pattern ..

@[simp] theorem State.finish_tags (t : BitVec 8) (d : DoneOutcome) (g : Option (BitVec 16)) (n : FinSet 8)
    (i : Option (Fin 16)) : (s.finish t d g n i).tags = natErase s.tags t.toNat := State.sendSup_tags ..
@[simp] theorem State.accept_tags (t : BitVec 8) : (s.accept t).tags = natInsert s.tags t.toNat := State.sendSup_tags ..

/-! ### The Notice Outbox -/

theorem State.noticeDelivered_eq (n : Notice) : ∃ x, s.noticeDelivered n = s.setScrub x := by
  unfold State.noticeDelivered
  split
  · exact ⟨s.scrub, rfl⟩
  · split
    · exact ⟨_, rfl⟩
    · exact ⟨s.scrub, rfl⟩

/-- Delivery touches the outbox with its line, the credit, the ENDED slots and what is sent, and nothing else. -/
theorem deliver_eq (o : List Notice) :
    ∃ x ob c n t, deliver o s = { s with scrub := x, outbox := ob, credit := c, noticeN := n, out := t } := by
  induction o generalizing s with
  | nil => exact ⟨s.scrub, s.outbox, s.credit, s.noticeN, s.out, rfl⟩
  | cons n rest ih =>
    simp only [deliver]
    split
    · obtain ⟨x, hx⟩ :=
        State.noticeDelivered_eq (((s.sendSup (.notice n)).setCredit (s.credit - 1)).setOutbox rest) n
      obtain ⟨y, ob, c, k, t, h⟩ :=
    ih (((((s.sendSup (.notice n)).setCredit (s.credit - 1)).setOutbox rest)).setScrub x)
      refine ⟨y, ob, c, k, t, ?_⟩
      rw [hx, h]
      ext1 <;> simp
    · exact ⟨s.scrub, s.outbox, s.credit, s.noticeN, s.out, rfl⟩

/-! ### deliver -/

@[simp] theorem deliver_windows (o : List Notice) : (deliver o s).windows = s.windows :=
    by obtain ⟨x, ob, c, n, t, h⟩ := deliver_eq s o; exact h ▸ rfl
@[simp] theorem deliver_tables (o : List Notice) : (deliver o s).tables = s.tables :=
    by obtain ⟨x, ob, c, n, t, h⟩ := deliver_eq s o; exact h ▸ rfl
@[simp] theorem deliver_ports (o : List Notice) : (deliver o s).ports = s.ports :=
    by obtain ⟨x, ob, c, n, t, h⟩ := deliver_eq s o; exact h ▸ rfl
@[simp] theorem deliver_fenceN (o : List Notice) : (deliver o s).fenceN = s.fenceN :=
    by obtain ⟨x, ob, c, n, t, h⟩ := deliver_eq s o; exact h ▸ rfl
@[simp] theorem deliver_park (o : List Notice) : (deliver o s).park = s.park :=
    by obtain ⟨x, ob, c, n, t, h⟩ := deliver_eq s o; exact h ▸ rfl
@[simp] theorem deliver_entries (o : List Notice) : (deliver o s).entries = s.entries :=
    by obtain ⟨x, ob, c, n, t, h⟩ := deliver_eq s o; exact h ▸ rfl
@[simp] theorem deliver_groups (o : List Notice) : (deliver o s).groups = s.groups :=
    by obtain ⟨x, ob, c, n, t, h⟩ := deliver_eq s o; exact h ▸ rfl
@[simp] theorem deliver_frames (o : List Notice) : (deliver o s).frames = s.frames :=
    by obtain ⟨x, ob, c, n, t, h⟩ := deliver_eq s o; exact h ▸ rfl
@[simp] theorem deliver_device (o : List Notice) : (deliver o s).device = s.device :=
    by obtain ⟨x, ob, c, n, t, h⟩ := deliver_eq s o; exact h ▸ rfl
@[simp] theorem deliver_tags (o : List Notice) : (deliver o s).tags = s.tags :=
    by obtain ⟨x, ob, c, n, t, h⟩ := deliver_eq s o; exact h ▸ rfl
@[simp] theorem deliver_links (o : List Notice) : (deliver o s).links = s.links :=
    by obtain ⟨x, ob, c, n, t, h⟩ := deliver_eq s o; exact h ▸ rfl
@[simp] theorem deliver_resetN (o : List Notice) : (deliver o s).resetN = s.resetN :=
    by obtain ⟨x, ob, c, n, t, h⟩ := deliver_eq s o; exact h ▸ rfl
@[simp] theorem deliver_carrier (o : List Notice) : (deliver o s).carrier = s.carrier :=
    by obtain ⟨x, ob, c, n, t, h⟩ := deliver_eq s o; exact h ▸ rfl
@[simp] theorem deliver_pending (o : List Notice) : (deliver o s).pending = s.pending :=
    by obtain ⟨x, ob, c, n, t, h⟩ := deliver_eq s o; exact h ▸ rfl
@[simp] theorem deliver_behind (o : List Notice) : (deliver o s).behind = s.behind :=
    by obtain ⟨x, ob, c, n, t, h⟩ := deliver_eq s o; exact h ▸ rfl
@[simp] theorem deliver_window (o : List Notice) (v : Nat) : (deliver o s).window v = s.window v :=
    by obtain ⟨x, ob, c, n, t, h⟩ := deliver_eq s o; exact h ▸ rfl
@[simp] theorem deliver_frame (o : List Notice) (f : Nat) : (deliver o s).frame f = s.frame f :=
    by obtain ⟨x, ob, c, n, t, h⟩ := deliver_eq s o; exact h ▸ rfl
@[simp] theorem deliver_table (o : List Notice) (c : AgentId) : (deliver o s).table c = s.table c :=
    by obtain ⟨x, ob, c, n, t, h⟩ := deliver_eq s o; exact h ▸ rfl
@[simp] theorem deliver_port (o : List Notice) (c : AgentId) : (deliver o s).port c = s.port c :=
    by obtain ⟨x, ob, c, n, t, h⟩ := deliver_eq s o; exact h ▸ rfl
@[simp] theorem deliver_entry (o : List Notice) (j : Fin 16) : (deliver o s).entry j = s.entry j :=
    by obtain ⟨x, ob, c, n, t, h⟩ := deliver_eq s o; exact h ▸ rfl
@[simp] theorem deliver_group (o : List Notice) (c : Fin 4) : (deliver o s).group c = s.group c :=
    by obtain ⟨x, ob, c, n, t, h⟩ := deliver_eq s o; exact h ▸ rfl
@[simp] theorem deliver_link (o : List Notice) (c : LinkId) : (deliver o s).link c = s.link c :=
    by obtain ⟨x, ob, c, n, t, h⟩ := deliver_eq s o; exact h ▸ rfl
@[simp] theorem deliver_isUp (o : List Notice) (c : LinkId) : (deliver o s).isUp c = s.isUp c :=
    by obtain ⟨x, ob, c, n, t, h⟩ := deliver_eq s o; exact h ▸ rfl
@[simp] theorem deliver_isAdmitted (o : List Notice) (c : AgentId) : (deliver o s).isAdmitted c = s.isAdmitted c :=
    by obtain ⟨x, ob, c, n, t, h⟩ := deliver_eq s o; exact h ▸ rfl
@[simp] theorem deliver_condition (o : List Notice) (v : Nat) : (deliver o s).condition v = s.condition v :=
    by obtain ⟨x, ob, c, n, t, h⟩ := deliver_eq s o; exact h ▸ rfl
@[simp] theorem deliver_frameCount (o : List Notice) : (deliver o s).frameCount = s.frameCount :=
    by obtain ⟨x, ob, c, n, t, h⟩ := deliver_eq s o; exact h ▸ rfl
@[simp] theorem deliver_isServing (o : List Notice) : (deliver o s).isServing = s.isServing :=
    by obtain ⟨x, ob, c, n, t, h⟩ := deliver_eq s o; exact h ▸ rfl
@[simp] theorem deliver_tagInUse (o : List Notice) (u : BitVec 8) : (deliver o s).tagInUse u = s.tagInUse u :=
    by obtain ⟨x, ob, c, n, t, h⟩ := deliver_eq s o; exact h ▸ rfl
@[simp] theorem deliver_pattern (o : List Notice) : (deliver o s).pattern = s.pattern :=
    by obtain ⟨x, ob, c, n, t, h⟩ := deliver_eq s o; exact h ▸ rfl

/-! ### State.postPort -/

@[simp] theorem State.postPort_windows (a : AgentId) : (s.postPort a).windows = s.windows :=
    (deliver_windows ..).trans rfl
@[simp] theorem State.postPort_tables (a : AgentId) : (s.postPort a).tables = s.tables := (deliver_tables ..).trans rfl
@[simp] theorem State.postPort_ports (a : AgentId) : (s.postPort a).ports = s.ports := (deliver_ports ..).trans rfl
@[simp] theorem State.postPort_fenceN (a : AgentId) : (s.postPort a).fenceN = s.fenceN := (deliver_fenceN ..).trans rfl
@[simp] theorem State.postPort_park (a : AgentId) : (s.postPort a).park = s.park := (deliver_park ..).trans rfl
@[simp] theorem State.postPort_entries (a : AgentId) : (s.postPort a).entries = s.entries :=
    (deliver_entries ..).trans rfl
@[simp] theorem State.postPort_groups (a : AgentId) : (s.postPort a).groups = s.groups := (deliver_groups ..).trans rfl
@[simp] theorem State.postPort_frames (a : AgentId) : (s.postPort a).frames = s.frames := (deliver_frames ..).trans rfl
@[simp] theorem State.postPort_device (a : AgentId) : (s.postPort a).device = s.device := (deliver_device ..).trans rfl
@[simp] theorem State.postPort_tags (a : AgentId) : (s.postPort a).tags = s.tags := (deliver_tags ..).trans rfl
@[simp] theorem State.postPort_links (a : AgentId) : (s.postPort a).links = s.links := (deliver_links ..).trans rfl
@[simp] theorem State.postPort_resetN (a : AgentId) : (s.postPort a).resetN = s.resetN := (deliver_resetN ..).trans rfl
@[simp] theorem State.postPort_carrier (a : AgentId) : (s.postPort a).carrier = s.carrier :=
    (deliver_carrier ..).trans rfl
@[simp] theorem State.postPort_pending (a : AgentId) : (s.postPort a).pending = s.pending :=
    (deliver_pending ..).trans rfl
@[simp] theorem State.postPort_behind (a : AgentId) : (s.postPort a).behind = s.behind :=
    (deliver_behind ..).trans rfl
@[simp] theorem State.postPort_window (a : AgentId) (v : Nat) : (s.postPort a).window v = s.window v :=
    (deliver_window ..).trans rfl
@[simp] theorem State.postPort_frame (a : AgentId) (f : Nat) : (s.postPort a).frame f = s.frame f :=
    (deliver_frame ..).trans rfl
@[simp] theorem State.postPort_table (a : AgentId) (c : AgentId) : (s.postPort a).table c = s.table c :=
    (deliver_table ..).trans rfl
@[simp] theorem State.postPort_port (a : AgentId) (c : AgentId) : (s.postPort a).port c = s.port c :=
    (deliver_port ..).trans rfl
@[simp] theorem State.postPort_entry (a : AgentId) (j : Fin 16) : (s.postPort a).entry j = s.entry j :=
    (deliver_entry ..).trans rfl
@[simp] theorem State.postPort_group (a : AgentId) (c : Fin 4) : (s.postPort a).group c = s.group c :=
    (deliver_group ..).trans rfl
@[simp] theorem State.postPort_link (a : AgentId) (c : LinkId) : (s.postPort a).link c = s.link c :=
    (deliver_link ..).trans rfl
@[simp] theorem State.postPort_isUp (a : AgentId) (c : LinkId) : (s.postPort a).isUp c = s.isUp c :=
    (deliver_isUp ..).trans rfl
@[simp] theorem State.postPort_isAdmitted (a : AgentId) (c : AgentId) : (s.postPort a).isAdmitted c = s.isAdmitted c :=
    (deliver_isAdmitted ..).trans rfl
@[simp] theorem State.postPort_condition (a : AgentId) (v : Nat) : (s.postPort a).condition v = s.condition v :=
    (deliver_condition ..).trans rfl
@[simp] theorem State.postPort_frameCount (a : AgentId) : (s.postPort a).frameCount = s.frameCount :=
    (deliver_frameCount ..).trans rfl
@[simp] theorem State.postPort_isServing (a : AgentId) : (s.postPort a).isServing = s.isServing :=
    (deliver_isServing ..).trans rfl
@[simp] theorem State.postPort_tagInUse (a : AgentId) (u : BitVec 8) : (s.postPort a).tagInUse u = s.tagInUse u :=
    (deliver_tagInUse ..).trans rfl
@[simp] theorem State.postPort_pattern (a : AgentId) : (s.postPort a).pattern = s.pattern :=
    (deliver_pattern ..).trans rfl

/-! ### State.postScrub -/

@[simp] theorem State.postScrub_windows (n : Notice) : (s.postScrub n).windows = s.windows :=
    (deliver_windows ..).trans rfl
@[simp] theorem State.postScrub_tables (n : Notice) : (s.postScrub n).tables = s.tables := (deliver_tables ..).trans rfl
@[simp] theorem State.postScrub_ports (n : Notice) : (s.postScrub n).ports = s.ports := (deliver_ports ..).trans rfl
@[simp] theorem State.postScrub_fenceN (n : Notice) : (s.postScrub n).fenceN = s.fenceN := (deliver_fenceN ..).trans rfl
@[simp] theorem State.postScrub_park (n : Notice) : (s.postScrub n).park = s.park := (deliver_park ..).trans rfl
@[simp] theorem State.postScrub_entries (n : Notice) : (s.postScrub n).entries = s.entries :=
    (deliver_entries ..).trans rfl
@[simp] theorem State.postScrub_groups (n : Notice) : (s.postScrub n).groups = s.groups := (deliver_groups ..).trans rfl
@[simp] theorem State.postScrub_frames (n : Notice) : (s.postScrub n).frames = s.frames := (deliver_frames ..).trans rfl
@[simp] theorem State.postScrub_device (n : Notice) : (s.postScrub n).device = s.device := (deliver_device ..).trans rfl
@[simp] theorem State.postScrub_tags (n : Notice) : (s.postScrub n).tags = s.tags := (deliver_tags ..).trans rfl
@[simp] theorem State.postScrub_links (n : Notice) : (s.postScrub n).links = s.links := (deliver_links ..).trans rfl
@[simp] theorem State.postScrub_resetN (n : Notice) : (s.postScrub n).resetN = s.resetN := (deliver_resetN ..).trans rfl
@[simp] theorem State.postScrub_carrier (n : Notice) : (s.postScrub n).carrier = s.carrier :=
    (deliver_carrier ..).trans rfl
@[simp] theorem State.postScrub_pending (n : Notice) : (s.postScrub n).pending = s.pending :=
    (deliver_pending ..).trans rfl
@[simp] theorem State.postScrub_behind (n : Notice) : (s.postScrub n).behind = s.behind :=
    (deliver_behind ..).trans rfl
@[simp] theorem State.postScrub_window (n : Notice) (v : Nat) : (s.postScrub n).window v = s.window v :=
    (deliver_window ..).trans rfl
@[simp] theorem State.postScrub_frame (n : Notice) (f : Nat) : (s.postScrub n).frame f = s.frame f :=
    (deliver_frame ..).trans rfl
@[simp] theorem State.postScrub_table (n : Notice) (c : AgentId) : (s.postScrub n).table c = s.table c :=
    (deliver_table ..).trans rfl
@[simp] theorem State.postScrub_port (n : Notice) (c : AgentId) : (s.postScrub n).port c = s.port c :=
    (deliver_port ..).trans rfl
@[simp] theorem State.postScrub_entry (n : Notice) (j : Fin 16) : (s.postScrub n).entry j = s.entry j :=
    (deliver_entry ..).trans rfl
@[simp] theorem State.postScrub_group (n : Notice) (c : Fin 4) : (s.postScrub n).group c = s.group c :=
    (deliver_group ..).trans rfl
@[simp] theorem State.postScrub_link (n : Notice) (c : LinkId) : (s.postScrub n).link c = s.link c :=
    (deliver_link ..).trans rfl
@[simp] theorem State.postScrub_isUp (n : Notice) (c : LinkId) : (s.postScrub n).isUp c = s.isUp c :=
    (deliver_isUp ..).trans rfl
@[simp] theorem State.postScrub_isAdmitted (n : Notice) (c : AgentId) : (s.postScrub n).isAdmitted c = s.isAdmitted c :=
    (deliver_isAdmitted ..).trans rfl
@[simp] theorem State.postScrub_condition (n : Notice) (v : Nat) : (s.postScrub n).condition v = s.condition v :=
    (deliver_condition ..).trans rfl
@[simp] theorem State.postScrub_frameCount (n : Notice) : (s.postScrub n).frameCount = s.frameCount :=
    (deliver_frameCount ..).trans rfl
@[simp] theorem State.postScrub_isServing (n : Notice) : (s.postScrub n).isServing = s.isServing :=
    (deliver_isServing ..).trans rfl
@[simp] theorem State.postScrub_tagInUse (n : Notice) (u : BitVec 8) : (s.postScrub n).tagInUse u = s.tagInUse u :=
    (deliver_tagInUse ..).trans rfl
@[simp] theorem State.postScrub_pattern (n : Notice) : (s.postScrub n).pattern = s.pattern :=
    (deliver_pattern ..).trans rfl

/-! ### Messages taken and sent -/

/-- A message that joins an empty receive buffer and is taken at once leaves the link as it was (R163). -/
theorem State.bufferMessage_returnCredit {s : State} {l : LinkId} (h : s.receives l) (m : Instr) :
    (s.begin.bufferMessage l m).returnCredit l [] = s.setOut { Outputs.nothing with creditReturns := [l] } := by
  have hl : ({ s.link l with credits := (s.link l).credits - 1 + 1, buffer := [] } : Link) = s.link l := by
    obtain ⟨-, hc, hb, -⟩ := h
    have hc := Nat.sub_one_add_one hc
    revert hc hb
    generalize s.link l = x
    rintro hc hb
    cases x
    simp_all
  unfold State.returnCredit State.bufferMessage
  rw [State.link_setLink_self]
  dsimp only
  rw [State.setLink_setLink]
  rw [show s.begin.link l = s.link l by cases l <;> rfl, hl]
  rw [show s.begin.setLink l (s.link l) = s.begin by
    rw [show s.link l = s.begin.link l by cases l <;> rfl, State.setLink_link]]
  cases l <;> rfl

/-- The oldest message of a receive buffer that holds one is taken. -/
theorem takeOldest_cons {s : State} {l : LinkId} {m : Instr} {rest : List Instr} (h : (s.link l).buffer = m :: rest) :
    takeOldest l s = act m (s.returnCredit l rest) := by rw [takeOldest, h]

/-- A message that a link receives and takes at once has its effect, and nothing else happens but the credit-return word
(R162 to R164). -/
theorem receiveMessage_of_receives {s : State} {l : LinkId} (h : s.receives l) (m : Instr) :
    receiveMessage l m s = act m (s.setOut { Outputs.nothing with creditReturns := [l] }) := by
  have hb : ((s.begin.bufferMessage l m).link l).buffer = [m] := by
    rw [State.bufferMessage, State.link_setLink_self]
    have := h.2.2.1
    cases l <;> simp_all [State.begin, State.setOut, State.link]
  have hd : (s.begin.bufferMessage l m).due l = true := by
    rw [State.due, hb]
    have : (s.begin.bufferMessage l m).behind = s.behind := rfl
    simp [this, List.count_eq_zero.mpr h.2.2.2]
  rw [receiveMessage, if_pos h.1, if_neg h.2.1]
  dsimp only
  rw [if_pos hd, takeOldest_cons hb, State.bufferMessage_returnCredit h m]

/-- The same on S. -/
theorem receiveMessage_sup {s : State} (h : s.receives .sup) (m : Instr) :
    receiveMessage .sup m s = act m (s.setOut (.onSup [])) := receiveMessage_of_receives h m

/-- The same on M. -/
theorem receiveMessage_mem {s : State} (h : s.receives .mem) (m : Instr) :
    receiveMessage .mem m s = act m (s.setOut (.onMem [])) := receiveMessage_of_receives h m

/-- The same on an agent link. -/
theorem receiveMessage_agent {s : State} {a : AgentId} (h : s.receives (.agent a)) (m : Instr) :
    receiveMessage (.agent a) m s = act m (s.setOut (.onAgent a [])) := by
  rw [receiveMessage_of_receives h m]
  congr 2
  simp only [Outputs.onAgent, Outputs.nothing]
  congr 1
  ext i hi
  simp

/-- On a link that is not UP a message has no effect (R161, R162). -/
theorem receiveMessage_not_up {s : State} {l : LinkId} (h : s.isUp l = false) (m : Instr) :
    receiveMessage l m s = s.begin := by simp [receiveMessage, h]

/-- A message whose sender holds no credit is a link error (R162). -/
theorem receiveMessage_no_credit {s : State} {l : LinkId} (h : s.isUp l = true) (hc : (s.link l).credits = 0)
    (m : Instr) : receiveMessage l m s = s.begin.takeLinkError l := by simp [receiveMessage, h, hc]

/-- All that receiving a message can do: nothing, a link error, the message waiting, or the taking of the oldest message
that waits with it. -/
theorem receiveMessage_cases (l : LinkId) (m : Instr) (s : State) :
    s.isUp l = false ∧ receiveMessage l m s = s.begin ∨
    s.isUp l = true ∧ (s.link l).credits = 0 ∧ receiveMessage l m s = s.begin.takeLinkError l ∨
    s.isUp l = true ∧ (s.link l).credits ≠ 0 ∧
      (receiveMessage l m s = s.begin.bufferMessage l m ∨
        receiveMessage l m s = takeOldest l (s.begin.bufferMessage l m)) := by
  unfold receiveMessage
  by_cases hu : s.isUp l = true
  · by_cases hc : (s.link l).credits = 0
    · exact .inr (.inl ⟨hu, hc, by simp [hu, hc]⟩)
    · refine .inr (.inr ⟨hu, hc, ?_⟩)
      rw [if_pos hu, if_neg hc]
      dsimp only
      split
      · exact .inr rfl
      · exact .inl rfl
  · exact .inl ⟨by simpa using hu, by simp [hu]⟩

/-- A request that passes the common checks is handed to its block (R150). -/
theorem request_of_serves {s : State} {tag : BitVec 8} (hs : s.isServing = true) (ht : s.tagInUse tag = false)
    (kind : BitVec 8) (exempt : Bool) (act : State → State) : request kind tag exempt act s = act s := by
  simp [request, hs, ht]

/-- An exempt request passes them in both device states (R150). -/
theorem request_exempt {s : State} {tag : BitVec 8} (ht : s.tagInUse tag = false) (kind : BitVec 8)
    (act : State → State) : request kind tag true act s = act s := by simp [request, ht]

@[simp] theorem State.setOut_setOut (o p : Outputs) : (s.setOut o).setOut p = s.setOut p := rfl

/-- A message on S joins those the action has sent on it. -/
theorem State.sendSup_out {s : State} (h : s.isUp .sup = true) (m : SupMsg) :
    (s.sendSup m).out = { s.out with sup := s.out.sup ++ [m] } := by simp [State.sendSup, h]

/-- A message to an agent joins those the action has sent on its link. -/
theorem State.sendAgent_out {s : State} {a : AgentId} (h : s.isUp (.agent a) = true) (m : AgentMsg) :
    (s.sendAgent a m).out = { s.out with agents := s.out.agents.set a (s.out.agents[a] ++ [m]) } := by
  simp [State.sendAgent, h]

/-- A fill joins those the action has sent on M. -/
theorem State.sendFill_out {s : State} (h : s.isUp .mem = true) (m : FillMsg) :
    (s.sendFill m).out = { s.out with mem := s.out.mem ++ [m] } := by simp [State.sendFill, h]

@[simp] theorem Outputs.onSup_append (ms : List SupMsg) (m : SupMsg) :
    { Outputs.onSup ms with sup := (Outputs.onSup ms).sup ++ [m] } = Outputs.onSup (ms ++ [m]) := rfl

@[simp] theorem Outputs.onAgent_append (a : AgentId) (ms : List AgentMsg) (m : AgentMsg) :
    { Outputs.onAgent a ms with
      agents := (Outputs.onAgent a ms).agents.set a ((Outputs.onAgent a ms).agents[a] ++ [m]) } =
      Outputs.onAgent a (ms ++ [m]) := by
  simp [Outputs.onAgent]

@[simp] theorem Outputs.onMem_append (ms : List FillMsg) (m : FillMsg) :
    { Outputs.onMem ms with mem := (Outputs.onMem ms).mem ++ [m] } = Outputs.onMem (ms ++ [m]) := rfl

/-- Without credit, or with S not UP, nothing is delivered (R156). -/
theorem deliver_mute {s : State} (h : s.mute) (o : List Notice) : deliver o s = s := by
  cases o with
  | nil => rfl
  | cons n rest => rcases h with h | h <;> simp [deliver, h]

end Sys2Proof.Machine
end

