-- ==== Sys2Proof/Laws/Engine.lean ====
section
/-!
SUPPORT. What the Scrub Engine's own actions can reach: the engine, the outbox with its credit and line, the tags in use
and what is sent. Every other field is as it was; no frame moves but by the end of a fill.
-/

namespace Sys2Proof.Machine

/-- The fields that the Scrub Engine's own actions never write. -/
structure EngineOnly (s t : State) : Prop where
  windows : t.windows = s.windows
  tables : t.tables = s.tables
  ports : t.ports = s.ports
  fenceN : t.fenceN = s.fenceN
  park : t.park = s.park
  entries : t.entries = s.entries
  groups : t.groups = s.groups
  frames : t.frames = s.frames
  device : t.device = s.device
  links : t.links = s.links
  resetN : t.resetN = s.resetN
  carrier : t.carrier = s.carrier
  behind : t.behind = s.behind
  pending : t.pending = s.pending

theorem EngineOnly.refl (s : State) : EngineOnly s s := by constructor <;> rfl

theorem EngineOnly.trans {s t u : State} (h : EngineOnly s t) (k : EngineOnly t u) : EngineOnly s u := by
  constructor
  · rw [k.windows, h.windows]
  · rw [k.tables, h.tables]
  · rw [k.ports, h.ports]
  · rw [k.fenceN, h.fenceN]
  · rw [k.park, h.park]
  · rw [k.entries, h.entries]
  · rw [k.groups, h.groups]
  · rw [k.frames, h.frames]
  · rw [k.device, h.device]
  · rw [k.links, h.links]
  · rw [k.resetN, h.resetN]
  · rw [k.carrier, h.carrier]
  · rw [k.behind, h.behind]
  · rw [k.pending, h.pending]

variable (s : State)

theorem State.setScrub_engineOnly (x : Scrub) : EngineOnly s (s.setScrub x) := by constructor <;> rfl
theorem State.setSlot_engineOnly (i : Fin 16) (x : ScrubSlot) : EngineOnly s (s.setSlot i x) := by constructor <;> rfl
theorem State.setEngine_engineOnly (x : Engine) : EngineOnly s (s.setEngine x) := by constructor <;> rfl
theorem State.setFill_engineOnly (k : Fin 4) (x : Option Fill) : EngineOnly s (s.setFill k x) := by
  constructor <;> rfl
theorem State.sendFill_engineOnly (m : FillMsg) : EngineOnly s (s.sendFill m) := by constructor <;> simp
theorem State.sendSup_engineOnly (m : SupMsg) : EngineOnly s (s.sendSup m) := by constructor <;> simp
theorem State.finish_engineOnly (t : BitVec 8) (o : DoneOutcome) (g : Option (BitVec 16)) (l : FinSet 8)
    (i : Option (Fin 16)) : EngineOnly s (s.finish t o g l i) := by
  unfold State.finish; constructor <;> simp
theorem State.postScrub_engineOnly (n : Notice) : EngineOnly s (s.postScrub n) := by constructor <;> simp

/-- One fill writes the engine and what is sent on M. -/
theorem State.sendOneFill_engineOnly : EngineOnly s s.sendOneFill := by
  unfold State.sendOneFill
  split
  · split
    · split
      · exact s.setSlot_engineOnly _ _
      · exact ((s.setSlot_engineOnly _ _).trans ((State.setFill_engineOnly _ _ _).trans
          (State.setScrub_engineOnly _ _))).trans (State.sendFill_engineOnly _ _)
    · exact .refl s
  · exact .refl s

theorem State.sendFills_engineOnly : EngineOnly s s.sendFills :=
  (((s.sendOneFill_engineOnly).trans (State.sendOneFill_engineOnly _)).trans (State.sendOneFill_engineOnly _)).trans
    (State.sendOneFill_engineOnly _)

theorem State.startNext_engineOnly : EngineOnly s s.startNext := by
  unfold State.startNext
  split
  · split
    · exact s.setEngine_engineOnly _
    · dsimp only
      split
      · exact (s.setScrub_engineOnly _).trans (State.setSlot_engineOnly _ _ _)
      · exact s.setScrub_engineOnly _
  · exact .refl s

theorem State.endJob_engineOnly {t : State} (h : s.endJob = some t) : EngineOnly s t := by
  unfold State.endJob at h
  split at h
  · cases h
  · split at h
    · cases h
    · cases h
      exact ((s.setSlot_engineOnly _ _).trans (State.postScrub_engineOnly _ _)).trans (State.startNext_engineOnly _)

theorem runEngine_engineOnly (n : Nat) : ∀ s : State, EngineOnly s (runEngine n s) := by
  induction n with
  | zero => exact fun s => .refl s
  | succ n ih =>
    intro s
    unfold runEngine
    split
    · exact s.sendFills_engineOnly
    · rename_i t h
      exact ((s.sendFills_engineOnly).trans (State.endJob_engineOnly _ h)).trans (ih t)

theorem State.drive_engineOnly : EngineOnly s s.drive := runEngine_engineOnly _ s

theorem State.settleSuspend_engineOnly : EngineOnly s s.settleSuspend := by
  unfold State.settleSuspend
  split
  · split
    · exact (s.setEngine_engineOnly _).trans (State.finish_engineOnly _ _ _ _ _ _)
    · exact .refl s
  · exact .refl s

theorem State.afterFill_engineOnly : EngineOnly s s.afterFill :=
  (s.drive_engineOnly).trans (State.settleSuspend_engineOnly _)

theorem State.enqueue_engineOnly (i : Fin 16) (j : Job) : EngineOnly s (s.enqueue i j) := by
  have h : EngineOnly s ((s.setSlot i (.queued j)).setScrub
      { (s.setSlot i (.queued j)).scrub with queue := (s.setSlot i (.queued j)).scrub.queue ++ [i] }) :=
    (s.setSlot_engineOnly _ _).trans (State.setScrub_engineOnly _ _)
  unfold State.enqueue
  dsimp only
  split
  · exact ((h.trans (State.setEngine_engineOnly _ _)).trans (State.startNext_engineOnly _)).trans
      (State.drive_engineOnly _)
  · exact h

theorem State.loseMem_engineOnly : EngineOnly s s.loseMem := by
  unfold State.loseMem
  dsimp only
  split
  · exact ((s.setSlot_engineOnly _ _).trans (State.setScrub_engineOnly _ _)).trans (State.afterFill_engineOnly _)
  · exact (s.setScrub_engineOnly _).trans (State.afterFill_engineOnly _)

theorem State.resume_engineOnly : EngineOnly s s.resume := by
  unfold State.resume
  split
  · exact s.setEngine_engineOnly _
  · exact ((s.setEngine_engineOnly _).trans (State.startNext_engineOnly _)).trans (State.drive_engineOnly _)

/-- While the engine is not RUNNING no fill is sent. -/
theorem State.sendFills_of_not_running (h : s.scrub.engine ≠ .running) : s.sendFills = s := by
  simp [State.sendFills, State.sendOneFill, h]

/-- With no ACTIVE job the engine's round does nothing. -/
theorem State.drive_of_no_job (h : s.active = none) : s.drive = s := by
  have hf : s.sendFills = s := by simp [State.sendFills, State.sendOneFill, h]
  simp [State.drive, runEngine, hf, State.endJob, h]

/-- While a fill is in flight or a frame of the ACTIVE job is SCRUBBING, an engine that can send nothing does nothing. -/
theorem State.drive_of_busy (hf : s.sendFills = s) {i : Fin 16} {j : Job} (ha : s.active = some (i, j))
    (hb : s.hasScrubbing i j = true ∨ s.quiet = false) : s.drive = s := by
  have he : s.endJob = none := by
    rcases hb with h | h <;> simp [State.endJob, ha, h]
  simp [State.drive, runEngine, hf, he]

end Sys2Proof.Machine
end

