-- ==== Sys2Proof/Laws/Cascade.lean ====
section
/-!
SUPPORT. The recursion of grants, re-takes and ends of changes, its induction done once: what every one of its parts
keeps, the whole recursion keeps. Then what it keeps of the ports, the links and the lines.
-/

namespace Sys2Proof.Machine

/-- What a step of a fold keeps, the fold keeps. -/
theorem foldl_keeps {α σ : Type} {P : σ → Prop} {f : σ → α → σ} (h : ∀ s x, P s → P (f s x)) :
    ∀ (l : List α) (s : σ), P s → P (l.foldl f s)
  | [], _, hs => hs
  | x :: l, s, hs => foldl_keeps h l (f s x) (h s x hs)

/-- A property of states that each part of the ends of changes keeps; `retake` may use that nested ends keep it. -/
structure CascadeKeeps (P : State → Prop) (ab : Option (Fin 4)) : Prop where
  retake : ∀ (k : EndWait), (∀ e s, P s → P (k e s)) → ∀ w s, P s → P (retake k ab w s)
  apply : ∀ e x s, s.entry e = some x → P s → P (s.applyParts e x)
  ready : ∀ e x s, s.entry e = some x → P s → P (s.setEntry e (some { x with state := .ready }))
  close : ∀ g o l s, P s → P (s.closeGroup g o l)

theorem applyEntry_keeps {P : State → Prop} {ab : Option (Fin 4)} (h : CascadeKeeps P ab) {k : EndWait}
    (hk : ∀ e s, P s → P (k e s)) (e : Fin 16) (s : State) (hs : P s) : P (applyEntry k ab e s) := by
  unfold applyEntry
  split
  · exact hs
  · exact h.retake k hk _ _ (h.apply _ _ _ ‹_› hs)

theorem applyGroup_keeps {P : State → Prop} {ab : Option (Fin 4)} (h : CascadeKeeps P ab) {k : EndWait}
    (hk : ∀ e s, P s → P (k e s)) (g : Fin 4) (s : State) (hs : P s) : P (applyGroup k ab g s) :=
  h.close _ _ _ _ (foldl_keeps (fun s e => applyEntry_keeps h hk e s) _ _ hs)

theorem endWaiting_keeps {P : State → Prop} {ab : Option (Fin 4)} (h : CascadeKeeps P ab) {k : EndWait}
    (hk : ∀ e s, P s → P (k e s)) (e : Fin 16) (s : State) (hs : P s) : P (endWaiting k ab e s) := by
  unfold endWaiting
  split
  · exact hs
  · rename_i x hx
    split
    · exact applyEntry_keeps h hk e s hs
    · dsimp only
      have hr := h.ready e x s hx hs
      split
      · exact applyGroup_keeps h hk _ _ hr
      · exact hr

/-- The whole recursion, at every depth. -/
theorem cascadeDepth_keeps {P : State → Prop} {ab : Option (Fin 4)} (h : CascadeKeeps P ab) (n : Nat) :
    ∀ e s, P s → P (cascadeDepth ab n e s) := by
  induction n with
  | zero => exact fun _ _ hs => hs
  | succ n ih => exact fun e s hs => endWaiting_keeps h ih e s hs

theorem endWaits_keeps {P : State → Prop} {k : EndWait} (hk : ∀ e s, P s → P (k e s)) (s t : State) (ht : P t) :
    P (endWaits k s t) := foldl_keeps (fun s e => hk e s) _ _ ht

/-- A re-take keeps what its parts keep: the entries leaving the Park List, a tag leaving the set, a REFUSE, a grant. -/
theorem retake_keeps {P : State → Prop} {k : EndWait} {ab : Option (Fin 4)}
    (park : ∀ l s, P s → P (s.setPark l)) (tag : ∀ a t s, P s → P (s.setLookupTag a t false))
    (refuse : ∀ a t w r s, P s → P (s.refuseLookup a t w r))
    (grants : ∀ a t w r l s, P s → P (grant k ab a t w r l s)) (w : Nat) (s : State) (hs : P s) :
    P (retake k ab w s) := by
  refine foldl_keeps (fun s p hs => ?_) _ _ (park _ _ hs)
  unfold retakeOne answerLookup
  have ht := tag p.agent p.tag s hs
  split
  · exact refuse _ _ _ _ _ ht
  · split
    · exact refuse _ _ _ _ _ ht
    · exact grants _ _ _ _ _ _ ht

/-! ## The parts -/

/-- A report writes one Change Table entry at most. -/
theorem State.report_cases (s : State) (ab : Option (Fin 4)) (a : AgentId) (w : Nat) (d : Bool) :
    s.report ab a w d = s ∨
      ∃ e x, (s.window w).pending = some e ∧ s.entry e = some x ∧ x.inRound = true ∧ x.awaited[a] = true ∧
        s.report ab a w d =
          s.setEntry e
            (some { x with awaited := x.awaited.del a, lost := if d then x.lost.add a else x.lost }) := by
  unfold State.report
  split
  · exact .inl rfl
  · rename_i e he
    split
    · exact .inl rfl
    · rename_i x hx
      split
      · rename_i hc
        simp only [Bool.and_eq_true] at hc
        exact .inr ⟨e, x, he, hx, hc.1.1, hc.1.2, rfl⟩
      · exact .inl rfl

/-- The removal of the holding in a slot. -/
theorem State.removeSlot_held {s : State} {a : AgentId} {i : Fin 64} {h : Holding} (hh : (s.table a).slots[i] = some h)
    (ab : Option (Fin 4)) (d : Bool) :
    s.removeSlot ab a d i =
      ((s.setTable a { s.table a with slots := (s.table a).slots.set i none }).setWindow h.window
        { s.window h.window with holders := (s.window h.window).holders.del a }).report ab a h.window d := by
  unfold State.removeSlot
  rw [hh]
  rfl

theorem State.removeSlot_empty {s : State} {a : AgentId} {i : Fin 64} (hh : (s.table a).slots[i] = none)
    (ab : Option (Fin 4)) (d : Bool) : s.removeSlot ab a d i = s := by
  unfold State.removeSlot
  rw [hh]

/-- The change of a window's frames at application reaches the Frame Map and what the engine reaches. -/
theorem State.moveFrames_engineOnly (s : State) (x : Entry) (l : LiveFields) :
    ∃ m, EngineOnly (s.setFrames m) (s.moveFrames x l) := by
  unfold State.moveFrames
  dsimp only
  split
  · split
    · exact ⟨_, State.enqueue_engineOnly _ _ _⟩
    · exact ⟨_, .refl _⟩
  · exact ⟨_, .refl _⟩

/-! ## What no end of a change reaches -/

/-- The ports but for their lookup tags, the lines, the links, the device state, and the model's own fields. -/
structure Steady (s t : State) : Prop where
  state : ∀ a, (t.port a).state = (s.port a).state
  reason : ∀ a, (t.port a).reason = (s.port a).reason
  context : ∀ a, (t.port a).context = (s.port a).context
  fenceN : t.fenceN = s.fenceN
  device : t.device = s.device
  links : t.links = s.links
  resetN : t.resetN = s.resetN
  carrier : t.carrier = s.carrier
  behind : t.behind = s.behind
  pending : t.pending = s.pending

theorem Steady.refl (s : State) : Steady s s := by constructor <;> intros <;> rfl

theorem Steady.trans {s t u : State} (h : Steady s t) (k : Steady t u) : Steady s u := by
  constructor
  · intro a; rw [k.state, h.state]
  · intro a; rw [k.reason, h.reason]
  · intro a; rw [k.context, h.context]
  · rw [k.fenceN, h.fenceN]
  · rw [k.device, h.device]
  · rw [k.links, h.links]
  · rw [k.resetN, h.resetN]
  · rw [k.carrier, h.carrier]
  · rw [k.behind, h.behind]
  · rw [k.pending, h.pending]

theorem EngineOnly.steady {s t : State} (h : EngineOnly s t) : Steady s t := by
  constructor
  · intro a; simp [State.port, h.ports]
  · intro a; simp [State.port, h.ports]
  · intro a; simp [State.port, h.ports]
  · exact h.fenceN
  · exact h.device
  · exact h.links
  · exact h.resetN
  · exact h.carrier
  · exact h.behind
  · exact h.pending

theorem State.report_steady (s : State) (ab : Option (Fin 4)) (a : AgentId) (w : Nat) (d : Bool) :
    Steady s (s.report ab a w d) := by
  rcases s.report_cases ab a w d with h | ⟨e, x, -, -, -, -, h⟩ <;> rw [h]
  · exact .refl s
  · constructor <;> intros <;> rfl

theorem State.removeSlot_steady (s : State) (ab : Option (Fin 4)) (a : AgentId) (d : Bool) (i : Fin 64) :
    Steady s (s.removeSlot ab a d i) := by
  unfold State.removeSlot
  split
  · exact .refl s
  · refine Steady.trans ?_ (State.report_steady _ ab a _ d)
    constructor <;> intros <;> rfl

theorem State.sendGrant_steady (s : State) (a : AgentId) (t : Fin 4) (i : Fin 64) (w : Nat) (l : LiveFields)
    (r : Rights) (ev : Option Nat) : Steady s (s.sendGrant a t i w l r ev) := by
  unfold State.sendGrant
  dsimp only
  split <;> constructor <;> intros <;> simp

theorem State.setTable_steady (s : State) (a : AgentId) (t : SlotTable) : Steady s (s.setTable a t) := by
  constructor <;> intros <;> rfl
theorem State.setWindow_steady (s : State) (w : Nat) (r : Window) : Steady s (s.setWindow w r) := by
  constructor <;> intros <;> rfl
theorem State.setEntry_steady (s : State) (e : Fin 16) (x : Option Entry) : Steady s (s.setEntry e x) := by
  constructor <;> intros <;> rfl
theorem State.setGroup_steady (s : State) (g : Fin 4) (x : Group) : Steady s (s.setGroup g x) := by
  constructor <;> intros <;> rfl
theorem State.setPark_steady (s : State) (l : List Parked) : Steady s (s.setPark l) := by
  constructor <;> intros <;> rfl
theorem State.setFrames_steady (s : State) (m : Sparse FrameState) : Steady s (s.setFrames m) := by
  constructor <;> intros <;> rfl
theorem State.sendAgent_steady (s : State) (a : AgentId) (m : AgentMsg) : Steady s (s.sendAgent a m) := by
  constructor <;> intros <;> simp

theorem grant_steady {k : EndWait} {o : State} (hk : ∀ e s, Steady o s → Steady o (k e s)) (ab : Option (Fin 4))
    (a : AgentId) (t : Fin 4) (w : Nat) (r : Rights) (l : LiveFields) (s : State) (hs : Steady o s) :
    Steady o (grant k ab a t w r l s) := by
  unfold grant
  dsimp only
  split
  · exact hs.trans ((s.setTable_steady _ _).trans (State.sendGrant_steady _ _ _ _ _ _ _ _))
  · exact endWaits_keeps (P := Steady o) hk _ _ (hs.trans ((((s.removeSlot_steady ab a false _).trans
      (State.setTable_steady _ _ _)).trans (State.setWindow_steady _ _ _)).trans
      (State.sendGrant_steady _ _ _ _ _ _ _ _)))

theorem State.moveFrames_steady (s : State) (x : Entry) (l : LiveFields) : Steady s (s.moveFrames x l) := by
  obtain ⟨m, hm⟩ := s.moveFrames_engineOnly x l
  exact (s.setFrames_steady m).trans hm.steady

theorem State.applyParts_steady (s : State) (e : Fin 16) (x : Entry) : Steady s (s.applyParts e x) := by
  unfold State.applyParts
  split
  · exact .refl s
  · exact (((s.setWindow_steady _ _).trans (State.moveFrames_steady _ _ _)).trans (State.setEntry_steady _ _ _)).trans
      (State.finish_engineOnly _ _ _ _ _ _).steady

theorem State.closeGroup_steady (s : State) (g : Fin 4) (o : DoneOutcome) (l : FinSet 8) :
    Steady s (s.closeGroup g o l) := by
  unfold State.closeGroup
  dsimp only
  split
  · exact (State.finish_engineOnly s _ _ _ _ _).steady.trans (State.setGroup_steady _ _ _)
  · exact s.setGroup_steady _ _

theorem State.setLookupTag_steady (s : State) (a : AgentId) (t : Fin 4) (b : Bool) : Steady s (s.setLookupTag a t b) := by
  constructor
  · intro c; by_cases h : c = a <;> simp [State.setLookupTag, State.port_setPort, h]
  · intro c; by_cases h : c = a <;> simp [State.setLookupTag, State.port_setPort, h]
  · intro c; by_cases h : c = a <;> simp [State.setLookupTag, State.port_setPort, h]
  all_goals rfl

theorem retake_steady {k : EndWait} {o : State} (hk : ∀ e s, Steady o s → Steady o (k e s)) (ab : Option (Fin 4))
    (w : Nat) (s : State) (hs : Steady o s) : Steady o (retake k ab w s) :=
  retake_keeps (P := Steady o) (fun _ _ h => h.trans (State.setPark_steady _ _))
    (fun _ _ _ h => h.trans (State.setLookupTag_steady _ _ _ _))
    (fun _ _ _ _ _ h => h.trans (State.sendAgent_steady _ _ _))
    (fun a t w r l s h => grant_steady hk ab a t w r l s h) w s hs

/-- The recursion at every depth leaves the ports' states, reasons and contexts, the lines, the links, the device state
and the queue as they were. -/
theorem cascadeDepth_steady (ab : Option (Fin 4)) (n : Nat) (e : Fin 16) (s : State) :
    Steady s (cascadeDepth ab n e s) :=
  cascadeDepth_keeps (P := Steady s)
    { retake := fun _ hk w t ht => retake_steady hk ab w t ht
      apply := fun e x t _ ht => ht.trans (t.applyParts_steady e x)
      ready := fun _ _ t _ ht => ht.trans (t.setEntry_steady _ _)
      close := fun g o l t ht => ht.trans (t.closeGroup_steady g o l) } n e s (.refl s)

theorem cascade_steady (e : Fin 16) (s : State) : Steady s (cascade e s) := cascadeDepth_steady none _ e s

theorem endWaits_cascade_steady (s t : State) : Steady t (endWaits cascade s t) :=
  endWaits_keeps (P := Steady t) (fun e u hu => hu.trans (cascade_steady e u)) _ _ (.refl t)

end Sys2Proof.Machine
end

