-- ==== Sys2Proof/Laws/Abandonment.lean ====
section
/-!
SUPPORT. The re-takes: what `State.retaken` answers is the model's re-take, and a re-take inside a GROUP_ABANDON is the
re-take of a Change Table without the group's entries (R97), which every part of the recursion leaves alone.
-/

namespace Sys2Proof.Machine

/-! ## The Change Table put aside -/

/-- The state with another Change Table. -/
def State.withEntries (s : State) (v : Vector (Option Entry) 16) : State := { s with entries := v }

section
variable (s : State) (v u : Vector (Option Entry) 16)

@[simp] theorem State.withEntries_windows : (s.withEntries v).windows = s.windows := rfl
@[simp] theorem State.withEntries_tables : (s.withEntries v).tables = s.tables := rfl
@[simp] theorem State.withEntries_entries : (s.withEntries v).entries = v := rfl
@[simp] theorem State.withEntries_frames : (s.withEntries v).frames = s.frames := rfl
@[simp] theorem State.withEntries_scrub : (s.withEntries v).scrub = s.scrub := rfl
@[simp] theorem State.withEntries_tags : (s.withEntries v).tags = s.tags := rfl
@[simp] theorem State.withEntries_outbox : (s.withEntries v).outbox = s.outbox := rfl
@[simp] theorem State.withEntries_credit : (s.withEntries v).credit = s.credit := rfl
@[simp] theorem State.withEntries_out : (s.withEntries v).out = s.out := rfl
@[simp] theorem State.withEntries_park : (s.withEntries v).park = s.park := rfl
@[simp] theorem State.withEntries_window (w : Nat) : (s.withEntries v).window w = s.window w := rfl
@[simp] theorem State.withEntries_table (a : AgentId) : (s.withEntries v).table a = s.table a := rfl
@[simp] theorem State.withEntries_port (a : AgentId) : (s.withEntries v).port a = s.port a := rfl
@[simp] theorem State.withEntries_group (g : Fin 4) : (s.withEntries v).group g = s.group g := rfl
@[simp] theorem State.withEntries_slot (i : Fin 16) : (s.withEntries v).slot i = s.slot i := rfl
@[simp] theorem State.withEntries_fill (k : Fin 4) : (s.withEntries v).fill k = s.fill k := rfl
@[simp] theorem State.withEntries_isUp (l : LinkId) : (s.withEntries v).isUp l = s.isUp l := rfl
@[simp] theorem State.withEntries_active : (s.withEntries v).active = s.active := rfl
@[simp] theorem State.withEntries_quiet : (s.withEntries v).quiet = s.quiet := rfl
@[simp] theorem State.withEntries_freeFillId : (s.withEntries v).freeFillId = s.freeFillId := rfl
@[simp] theorem State.withEntries_pattern : (s.withEntries v).pattern = s.pattern := rfl
@[simp] theorem State.withEntries_hasScrubbing (i : Fin 16) (j : Job) :
    (s.withEntries v).hasScrubbing i j = s.hasScrubbing i j := rfl
@[simp] theorem State.withEntries_withEntries : (s.withEntries u).withEntries v = s.withEntries v := rfl
@[simp] theorem State.withEntries_self : s.withEntries s.entries = s := rfl

@[simp] theorem State.withEntries_setWindow (w : Nat) (r : Window) :
    (s.withEntries v).setWindow w r = (s.setWindow w r).withEntries v := rfl
@[simp] theorem State.withEntries_setTable (a : AgentId) (t : SlotTable) :
    (s.withEntries v).setTable a t = (s.setTable a t).withEntries v := rfl
@[simp] theorem State.withEntries_setFrames (m : Sparse FrameState) :
    (s.withEntries v).setFrames m = (s.setFrames m).withEntries v := rfl
@[simp] theorem State.withEntries_setPark (l : List Parked) :
    (s.withEntries v).setPark l = (s.setPark l).withEntries v := rfl
@[simp] theorem State.withEntries_setGroup (g : Fin 4) (x : Group) :
    (s.withEntries v).setGroup g x = (s.setGroup g x).withEntries v := rfl
@[simp] theorem State.withEntries_setScrub (x : Scrub) :
    (s.withEntries v).setScrub x = (s.setScrub x).withEntries v := rfl
@[simp] theorem State.withEntries_setSlot (i : Fin 16) (x : ScrubSlot) :
    (s.withEntries v).setSlot i x = (s.setSlot i x).withEntries v := rfl
@[simp] theorem State.withEntries_setFill (k : Fin 4) (x : Option Fill) :
    (s.withEntries v).setFill k x = (s.setFill k x).withEntries v := rfl
@[simp] theorem State.withEntries_setEngine (x : Engine) :
    (s.withEntries v).setEngine x = (s.setEngine x).withEntries v := rfl
@[simp] theorem State.withEntries_setCredit (n : Nat) :
    (s.withEntries v).setCredit n = (s.setCredit n).withEntries v := rfl
@[simp] theorem State.withEntries_setOutbox (o : List Notice) :
    (s.withEntries v).setOutbox o = (s.setOutbox o).withEntries v := rfl
@[simp] theorem State.withEntries_setOut (o : Outputs) :
    (s.withEntries v).setOut o = (s.setOut o).withEntries v := rfl
@[simp] theorem State.withEntries_freeTag (t : BitVec 8) :
    (s.withEntries v).freeTag t = (s.freeTag t).withEntries v := rfl
@[simp] theorem State.withEntries_setLookupTag (a : AgentId) (t : Fin 4) (b : Bool) :
    (s.withEntries v).setLookupTag a t b = (s.setLookupTag a t b).withEntries v := rfl

@[simp] theorem State.withEntries_sendAgent (a : AgentId) (m : AgentMsg) :
    (s.withEntries v).sendAgent a m = (s.sendAgent a m).withEntries v := by
  unfold State.sendAgent; by_cases h : s.isUp (.agent a) <;> simp [h]
@[simp] theorem State.withEntries_sendSup (m : SupMsg) :
    (s.withEntries v).sendSup m = (s.sendSup m).withEntries v := by
  unfold State.sendSup; by_cases h : s.isUp (.sup) <;> simp [h]
@[simp] theorem State.withEntries_sendFill (m : FillMsg) :
    (s.withEntries v).sendFill m = (s.sendFill m).withEntries v := by
  unfold State.sendFill; by_cases h : s.isUp (.mem) <;> simp [h]
@[simp] theorem State.withEntries_finish (t : BitVec 8) (o : DoneOutcome) (g : Option (BitVec 16)) (l : FinSet 8)
    (i : Option (Fin 16)) : (s.withEntries v).finish t o g l i = (s.finish t o g l i).withEntries v := by
  simp [State.finish]
@[simp] theorem State.withEntries_refuseLookup (a : AgentId) (t : BitVec 8) (w : BitVec 16) (r : Reason) :
    (s.withEntries v).refuseLookup a t w r = (s.refuseLookup a t w r).withEntries v := by
  simp [State.refuseLookup]
@[simp] theorem State.withEntries_noticeDelivered (n : Notice) :
    (s.withEntries v).noticeDelivered n = (s.noticeDelivered n).withEntries v := by
  unfold State.noticeDelivered
  split
  · rfl
  · simp only [State.withEntries_slot]; split <;> rfl

@[simp] theorem deliver_withEntries (o : List Notice) :
    ∀ s : State, deliver o (s.withEntries v) = (deliver o s).withEntries v := by
  induction o with
  | nil => intro s; rfl
  | cons n rest ih =>
    intro s
    unfold deliver
    by_cases h : (s.isUp .sup && decide (0 < s.credit)) = true
    · have h' : ((s.withEntries v).isUp .sup && decide (0 < (s.withEntries v).credit)) = true := h
      rw [if_pos h, if_pos h']
      simp [ih]
    · have h' : ¬((s.withEntries v).isUp .sup && decide (0 < (s.withEntries v).credit)) = true := h
      rw [if_neg h, if_neg h']
@[simp] theorem State.withEntries_postScrub (n : Notice) :
    (s.withEntries v).postScrub n = (s.postScrub n).withEntries v := by
  simp [State.postScrub]

theorem passOver_withEntries (i : Fin 16) (j : Job) (n : Nat) :
    ∀ p, passOver (s.withEntries v) i j n p = passOver s i j n p := by
  induction n with
  | zero => intro p; rfl
  | succ n ih =>
    intro p
    cases p with
    | none => rfl
    | some p =>
      unfold passOver
      simp only [ih]
      rfl
@[simp] theorem State.withEntries_passed (i : Fin 16) (j : Job) (p : Option Position) :
    (s.withEntries v).passed i j p = s.passed i j p := passOver_withEntries s v i j _ p

@[simp] theorem State.withEntries_sendOneFill : (s.withEntries v).sendOneFill = s.sendOneFill.withEntries v := by
  unfold State.sendOneFill
  simp only [State.withEntries_scrub, State.withEntries_isUp, State.withEntries_active, State.withEntries_freeFillId,
    State.withEntries_passed, State.withEntries_setSlot, State.withEntries_setFill, State.withEntries_setScrub,
    State.withEntries_sendFill, State.withEntries_pattern]
  split
  · split
    · split <;> rfl
    · rfl
  · rfl
@[simp] theorem State.withEntries_sendFills : (s.withEntries v).sendFills = s.sendFills.withEntries v := by
  simp [State.sendFills]
@[simp] theorem State.withEntries_startNext : (s.withEntries v).startNext = s.startNext.withEntries v := by
  unfold State.startNext
  by_cases h : s.scrub.engine = .running ∧ s.active = none
  · have h' : (s.withEntries v).scrub.engine = .running ∧ (s.withEntries v).active = none := h
    rw [if_pos h, if_pos h']
    simp only [State.withEntries_scrub, State.withEntries_setEngine, State.withEntries_setScrub,
      State.withEntries_slot, State.withEntries_setSlot]
    split
    · rfl
    · split <;> rfl
  · have h' : ¬((s.withEntries v).scrub.engine = .running ∧ (s.withEntries v).active = none) := h
    rw [if_neg h, if_neg h']
theorem State.withEntries_endJob : (s.withEntries v).endJob = s.endJob.map (State.withEntries · v) := by
  unfold State.endJob
  simp only [State.withEntries_active, State.withEntries_hasScrubbing, State.withEntries_quiet,
    State.withEntries_setSlot, State.withEntries_postScrub, State.withEntries_startNext]
  split
  · rfl
  · split <;> rfl
theorem runEngine_withEntries (n : Nat) :
    ∀ s : State, runEngine n (s.withEntries v) = (runEngine n s).withEntries v := by
  induction n with
  | zero => intro s; rfl
  | succ n ih =>
    intro s
    unfold runEngine
    simp only [State.withEntries_sendFills, State.withEntries_endJob]
    cases s.sendFills.endJob with
    | none => rfl
    | some t => exact ih t
@[simp] theorem State.withEntries_drive : (s.withEntries v).drive = s.drive.withEntries v := runEngine_withEntries v _ s
@[simp] theorem State.withEntries_enqueue (i : Fin 16) (j : Job) :
    (s.withEntries v).enqueue i j = (s.enqueue i j).withEntries v := by
  unfold State.enqueue
  simp only [State.withEntries_scrub, State.withEntries_setSlot, State.withEntries_setScrub,
    State.withEntries_setEngine, State.withEntries_startNext, State.withEntries_drive]
  split <;> rfl
@[simp] theorem State.withEntries_moveFrames (x : Entry) (l : LiveFields) :
    (s.withEntries v).moveFrames x l = (s.moveFrames x l).withEntries v := by
  unfold State.moveFrames
  simp only [State.withEntries_frames, State.withEntries_setFrames, State.withEntries_enqueue]
  split
  · split <;> rfl
  · rfl

end

/-! ## Entries put aside -/

/-- The state without some Change Table entries. -/
@[irreducible] def State.aside (own : Vector (Option Entry) 16) (s : State) : State :=
  s.withEntries (Vector.ofFn fun e => if own[e].isSome then none else s.entries[e])

/-- The entries put aside stand in the table and are all of group g's, and no other group lists one. -/
structure Aside (g : Fin 4) (own : Vector (Option Entry) 16) (s : State) : Prop where
  kept : ∀ e : Fin 16, ∀ x, own[e] = some x → s.entry e = some x ∧ x.group = some g
  others : ∀ e : Fin 16, own[e] = none → ∀ x, s.entry e = some x → x.group ≠ some g
  members : ∀ h, h ≠ g → ∀ e ∈ (s.group h).members, own[e] = none

/-- An action in which the entries of g take no part, and the same action without them. -/
def Spares (g : Fin 4) (own : Vector (Option Entry) 16) (f f' : State → State) : Prop :=
  ∀ s, Aside g own s → f' (s.aside own) = (f s).aside own ∧ Aside g own (f s)

section
variable {g : Fin 4} {own : Vector (Option Entry) 16} {s t : State}

@[simp] theorem State.aside_window (w : Nat) : (s.aside own).window w = s.window w := by
  unfold State.aside; rfl
@[simp] theorem State.aside_table (a : AgentId) : (s.aside own).table a = s.table a := by
  unfold State.aside; rfl
@[simp] theorem State.aside_port (a : AgentId) : (s.aside own).port a = s.port a := by
  unfold State.aside; rfl
@[simp] theorem State.aside_group (c : Fin 4) : (s.aside own).group c = s.group c := by
  unfold State.aside; rfl
@[simp] theorem State.aside_park : (s.aside own).park = s.park := by
  unfold State.aside; rfl
@[simp] theorem State.aside_setTable (a : AgentId) (x : SlotTable) :
    (s.aside own).setTable a x = (s.setTable a x).aside own := by
  unfold State.aside; rfl
@[simp] theorem State.aside_setWindow (w : Nat) (x : Window) :
    (s.aside own).setWindow w x = (s.setWindow w x).aside own := by
  unfold State.aside; rfl
@[simp] theorem State.aside_setPark (l : List Parked) : (s.aside own).setPark l = (s.setPark l).aside own := by
  unfold State.aside; rfl
@[simp] theorem State.aside_setGroup (c : Fin 4) (x : Group) :
    (s.aside own).setGroup c x = (s.setGroup c x).aside own := by
  unfold State.aside; rfl

theorem State.aside_withEntries (own v : Vector (Option Entry) 16) (s : State) :
    (s.aside own).withEntries v = s.withEntries v := by
  unfold State.aside; rfl

theorem State.entry_aside (own : Vector (Option Entry) 16) (s : State) (e : Fin 16) :
    (s.aside own).entry e = if own[e].isSome then none else s.entry e := by
  simp [State.aside, State.entry]

theorem State.entry_aside_kept {e : Fin 16} (h : own[e] = none) : (s.aside own).entry e = s.entry e := by
  simp [State.entry_aside, h]

theorem State.entry_aside_own {e : Fin 16} {x : Entry} (h : own[e] = some x) : (s.aside own).entry e = none := by
  simp [State.entry_aside, h]

theorem State.aside_setEntry {e : Fin 16} (h : own[e] = none) (x : Option Entry) :
    (s.aside own).setEntry e x = (s.setEntry e x).aside own := by
  have : (Vector.ofFn fun d : Fin 16 => if own[d].isSome then none else s.entries[d]).set e x =
      Vector.ofFn fun d : Fin 16 => if own[d].isSome then none else (s.entries.set e x)[d] := by
    ext d hd
    simp only [Vector.getElem_set, Vector.getElem_ofFn, Fin.getElem_fin]
    by_cases hde : e.val = d
    · have : own[d] = none := by subst hde; exact h
      simp [hde, this]
    · simp [hde]
  unfold State.aside
  exact congrArg s.withEntries this

theorem Aside.setEntry (h : Aside g own s) {e : Fin 16} (he : own[e] = none) {x : Option Entry}
    (hx : ∀ y, x = some y → y.group ≠ some g) : Aside g own (s.setEntry e x) where
  kept d y hy := by
    have hde : d ≠ e := fun hde => by rw [hde, he] at hy; cases hy
    rw [State.entry_setEntry, if_neg hde]
    exact h.kept d y hy
  others d hd y hy := by
    rw [State.entry_setEntry] at hy
    split at hy
    · exact hx y hy
    · exact h.others d hd y hy
  members := h.members

/-- An action that reaches neither entries nor groups keeps what stands aside. -/
theorem Aside.of_eq (h : Aside g own s) (he : t.entries = s.entries) (hg : t.groups = s.groups) : Aside g own t where
  kept d := by simpa only [State.entry, he] using h.kept d
  others d := by simpa only [State.entry, he] using h.others d
  members := by simpa only [State.group, hg] using h.members

/-- An action that does the same with any Change Table, and reaches neither entries nor groups. -/
theorem Spares.of_withEntries {f : State → State} (hf : ∀ s v, f (State.withEntries s v) = (f s).withEntries v)
    (he : ∀ s, (f s).entries = s.entries) (hg : ∀ s, (f s).groups = s.groups) : Spares g own f f := fun s h =>
  ⟨by simp only [State.aside, hf, he], h.of_eq (he s) (hg s)⟩

theorem Spares.comp {f f' k k' : State → State} (hf : Spares g own f f') (hk : Spares g own k k') :
    Spares g own (fun s => k (f s)) (fun s => k' (f' s)) := fun s h => by
  obtain ⟨h1, h2⟩ := hf s h
  show k' (f' (s.aside own)) = _ ∧ _
  rw [h1]
  exact hk _ h2

theorem Spares.foldl {α : Type} {f f' : α → State → State} :
    ∀ l : List α, (∀ a ∈ l, Spares g own (f a) (f' a)) →
      Spares g own (fun s => l.foldl (fun s a => f a s) s) (fun s => l.foldl (fun s a => f' a s) s)
  | [], _ => fun _ h => ⟨rfl, h⟩
  | a :: l, hf => (hf a (.head _)).comp (Spares.foldl l fun b hb => hf b (.tail _ hb))

/-! ## The parts of a re-take -/

theorem report_spares (a : AgentId) (w : Nat) (d : Bool) :
    Spares g own (fun s => s.report (some g) a w d) (fun s => s.report none a w d) := fun s h => by
  unfold State.report
  simp only [State.aside_window]
  cases hp : (s.window w).pending with
  | none => exact ⟨rfl, h⟩
  | some e =>
    cases ho : own[e] with
    | some x =>
      obtain ⟨he, hx⟩ := h.kept e x ho
      simp [he, hx, State.entry_aside_own ho, h]
    | none =>
      simp only [State.entry_aside_kept ho]
      cases he : s.entry e with
      | none => exact ⟨rfl, h⟩
      | some x =>
        have hx := h.others e ho x he
        have h1 : (x.group.isSome && x.group == some g) = false := by simp [hx]
        have h2 : (x.group.isSome && x.group == none) = false := by cases x.group <;> simp
        simp only [h1, h2]
        split
        · exact ⟨State.aside_setEntry ho _, h.setEntry ho (by rintro y ⟨⟩; exact hx)⟩
        · exact ⟨rfl, h⟩

theorem removeSlot_spares (a : AgentId) (d : Bool) (i : Fin 64) :
    Spares g own (fun s => s.removeSlot (some g) a d i) (fun s => s.removeSlot none a d i) := fun s h => by
  dsimp only
  cases hh : (s.table a).slots[i] with
  | none =>
    rw [State.removeSlot_empty hh, State.removeSlot_empty (by simpa using hh)]
    exact ⟨rfl, h⟩
  | some x =>
    rw [State.removeSlot_held hh, State.removeSlot_held (s := s.aside own) (by simpa using hh)]
    simp only [State.aside_table, State.aside_setTable, State.aside_window, State.aside_setWindow]
    exact report_spares a x.window d _ (h.of_eq rfl rfl)

theorem awaits_aside (h : Aside g own s) (ht : Aside g own t) (e : Fin 16) :
    ((s.aside own).awaits e && !(t.aside own).awaits e) = (s.awaits e && !t.awaits e) := by
  unfold State.awaits
  cases ho : own[e] with
  | some x => simp [State.entry_aside_own ho, (h.kept e x ho).1, (ht.kept e x ho).1]
  | none => simp only [State.entry_aside_kept ho]

theorem emptied_aside (h : Aside g own s) (ht : Aside g own t) :
    emptied (s.aside own) (t.aside own) = emptied s t :=
  congrArg (List.filter · _) (funext fun e => awaits_aside h ht e)

theorem emptied_own (h : Aside g own s) (ht : Aside g own t) {e : Fin 16} (he : e ∈ emptied s t) : own[e] = none := by
  cases ho : own[e] with
  | none => rfl
  | some x =>
    simp [emptied, State.awaits, (h.kept e x ho).1, (ht.kept e x ho).1] at he

/-- The ends of waiting of the entries that do not stand aside. -/
def EndsSpare (g : Fin 4) (own : Vector (Option Entry) 16) (k k' : EndWait) : Prop :=
  ∀ e : Fin 16, own[e] = none → Spares g own (k e) (k' e)

theorem sendGrant_spares (a : AgentId) (t : Fin 4) (i : Fin 64) (w : Nat) (l : LiveFields) (r : Rights)
    (ev : Option Nat) : Spares g own (fun s => s.sendGrant a t i w l r ev) (fun s => s.sendGrant a t i w l r ev) :=
  Spares.of_withEntries (f := fun s => s.sendGrant a t i w l r ev)
    (fun s v => by
      unfold State.sendGrant
      by_cases hw : w ∈ (s.table a).recalled <;> simp [hw])
    (fun s => by unfold State.sendGrant; dsimp only; split <;> simp)
    (fun s => by unfold State.sendGrant; dsimp only; split <;> simp)

theorem grant_spares {k k' : EndWait} (hk : EndsSpare g own k k') (a : AgentId) (t : Fin 4) (w : Nat) (r : Rights)
    (l : LiveFields) : Spares g own (grant k (some g) a t w r l) (grant k' none a t w r l) := fun s h => by
  unfold grant
  simp only [State.aside_table]
  split
  · simp only [State.aside_setTable]
    exact sendGrant_spares _ _ _ _ _ _ _ _ (h.of_eq rfl rfl)
  · have hr : (s.aside own).removeSlot none a false (s.table a).choose =
          (s.removeSlot (some g) a false (s.table a).choose).aside own ∧
        Aside g own (s.removeSlot (some g) a false (s.table a).choose) :=
      removeSlot_spares (g := g) (own := own) a false (s.table a).choose s h
    simp only [hr.1, State.aside_table, State.aside_setTable, State.aside_window, State.aside_setWindow]
    generalize hu : (((s.removeSlot (some g) a false (s.table a).choose).setTable a _).setWindow w _) = u
    have hu' : Aside g own u := hr.2.of_eq (by rw [← hu]; rfl) (by rw [← hu]; rfl)
    have hs := sendGrant_spares (g := g) (own := own) a t (s.table a).choose w l r
      ((s.table a).slots[(s.table a).choose].map Holding.window) u hu'
    dsimp only at hs
    unfold endWaits
    rw [hs.1, emptied_aside h hs.2]
    exact Spares.foldl _ (fun e he => hk e (emptied_own h hs.2 he)) _ hs.2

theorem retakeOne_spares {k k' : EndWait} (hk : EndsSpare g own k k') (p : Parked) :
    Spares g own (retakeOne k (some g) p) (retakeOne k' none p) := by
  have ht : Spares g own (fun s => s.setLookupTag p.agent p.tag false) (fun s => s.setLookupTag p.agent p.tag false) :=
    Spares.of_withEntries (f := fun s => s.setLookupTag p.agent p.tag false) (fun _ _ => rfl) (fun _ => rfl)
      (fun _ => rfl)
  refine ht.comp fun s h => ?_
  unfold answerLookup
  simp only [State.aside_window, State.aside_port]
  have hr : ∀ r, Spares g own
      (fun s => s.refuseLookup p.agent (BitVec.ofNat 8 p.tag) (BitVec.ofNat 16 p.window) r)
      (fun s => s.refuseLookup p.agent (BitVec.ofNat 8 p.tag) (BitVec.ofNat 16 p.window) r) := fun r =>
    Spares.of_withEntries (f := fun s => s.refuseLookup p.agent (BitVec.ofNat 8 p.tag) (BitVec.ofNat 16 p.window) r)
      (fun s v => by simp) (fun s => by simp) (fun s => by simp)
  split
  · exact hr _ s h
  · split
    · exact hr _ s h
    · exact grant_spares hk _ _ _ _ _ s h

theorem retake_spares {k k' : EndWait} (hk : EndsSpare g own k k') (w : Nat) :
    Spares g own (retake k (some g) w) (retake k' none w) := fun s h => by
  unfold retake
  simp only [State.aside_park, State.aside_setPark]
  exact Spares.foldl _ (fun p _ => retakeOne_spares hk p) _ (h.of_eq rfl rfl)

/-! ## The ends of changes -/

theorem applyParts_spares {e : Fin 16} (he : own[e] = none) (x : Entry) :
    Spares g own (fun s => s.applyParts e x) (fun s => s.applyParts e x) := fun s h => by
  unfold State.applyParts
  simp only [State.aside_window]
  cases (s.window x.window).live with
  | none => exact ⟨rfl, h⟩
  | some l =>
    have h1 : Spares g own
        (fun s => (s.setWindow x.window (x.kind.applied (s.window x.window) l)).moveFrames x l)
        (fun s => (s.setWindow x.window (x.kind.applied (s.window x.window) l)).moveFrames x l) :=
      Spares.of_withEntries
        (f := fun s => (s.setWindow x.window (x.kind.applied (s.window x.window) l)).moveFrames x l)
        (fun s v => by simp)
        (fun s => by
          obtain ⟨m, hm⟩ := (s.setWindow x.window (x.kind.applied (s.window x.window) l)).moveFrames_engineOnly x l
          exact hm.entries)
        (fun s => by
          obtain ⟨m, hm⟩ := (s.setWindow x.window (x.kind.applied (s.window x.window) l)).moveFrames_engineOnly x l
          exact hm.groups)
    have h2 : Spares g own (fun s => s.setEntry e none) (fun s => s.setEntry e none) := fun s h =>
      ⟨State.aside_setEntry he _, h.setEntry he (by rintro y ⟨⟩)⟩
    let done (t : State) : State :=
      t.finish x.tag .applied (some (x.kind.applied (s.window x.window) l).generation) x.lost (x.jobSlot l)
    have h3 : Spares g own done done :=
      Spares.of_withEntries (f := done) (fun s v => by simp [done]) (fun s => by simp [done]) (fun s => by simp [done])
    have := (h1.comp (h2.comp h3)) s h
    simpa only [State.aside_window, done] using this

theorem applyEntry_spares {k k' : EndWait} (hk : EndsSpare g own k k') {e : Fin 16} (he : own[e] = none) :
    Spares g own (applyEntry k (some g) e) (applyEntry k' none e) := fun s h => by
  unfold applyEntry
  rw [State.entry_aside_kept he]
  cases s.entry e with
  | none => exact ⟨rfl, h⟩
  | some x => exact (applyParts_spares he x).comp (retake_spares hk x.window) s h

theorem closeGroup_spares (c : Fin 4) (o : DoneOutcome) (l : FinSet 8) :
    Spares g own (fun s => s.closeGroup c o l) (fun s => s.closeGroup c o l) := fun s h => by
  unfold State.closeGroup
  simp only [State.aside_group]
  have hg : Spares g own (fun s => s.setGroup c .initial) (fun s => s.setGroup c .initial) := fun s h =>
    ⟨by simp,
      { kept := h.kept
        others := h.others
        members := fun d hd e he => by
          rw [State.group_setGroup] at he
          split at he
          · simp [Group.initial] at he
          · exact h.members d hd e he }⟩
  split
  · exact (Spares.of_withEntries (f := fun s => s.finish _ o none l none) (fun s v => by simp) (fun s => by simp)
      (fun s => by simp)).comp hg s h
  · exact hg s h

theorem foldl_congr_mem {α β : Type} {f f' : β → α → β} :
    ∀ (l : List α) (b : β), (∀ b, ∀ a ∈ l, f b a = f' b a) → l.foldl f b = l.foldl f' b
  | [], _, _ => rfl
  | a :: l, b, h => by
    rw [List.foldl_cons, List.foldl_cons, h b a (.head _)]
    exact foldl_congr_mem l _ fun b a ha => h b a (.tail _ ha)

theorem groupLost_aside (h : Aside g own s) {c : Fin 4} (hc : c ≠ g) : (s.aside own).groupLost c = s.groupLost c := by
  unfold State.groupLost
  rw [State.aside_group]
  exact foldl_congr_mem _ _ fun b e he => by rw [State.entry_aside_kept (h.members c hc e he)]

theorem allReady_aside (h : Aside g own s) {c : Fin 4} (hc : c ≠ g) : (s.aside own).allReady c = s.allReady c := by
  unfold State.allReady
  rw [State.aside_group, Bool.eq_iff_iff, List.all_eq_true, List.all_eq_true]
  exact forall₂_congr fun e he => by rw [State.entry_aside_kept (h.members c hc e he)]

theorem applyGroup_spares {k k' : EndWait} (hk : EndsSpare g own k k') {c : Fin 4} (hc : c ≠ g) :
    Spares g own (applyGroup k (some g) c) (applyGroup k' none c) := fun s h => by
  unfold applyGroup
  rw [groupLost_aside h hc, State.aside_group]
  exact (Spares.foldl (f := applyEntry k (some g)) (f' := applyEntry k' none) _
    fun e he => applyEntry_spares hk (h.members c hc e he)).comp (closeGroup_spares c _ _) s h

theorem endWaiting_spares {k k' : EndWait} (hk : EndsSpare g own k k') :
    EndsSpare g own (endWaiting k (some g)) (endWaiting k' none) := fun e he s h => by
  unfold endWaiting
  rw [State.entry_aside_kept he]
  cases hx : s.entry e with
  | none => exact ⟨rfl, h⟩
  | some x =>
    dsimp only
    cases hc : x.group with
    | none => exact applyEntry_spares hk he s h
    | some c =>
      have hne : c ≠ g := fun hcg => h.others e he x hx (by rw [hc, hcg])
      have hr : Aside g own (s.setEntry e (some { x with group := some c, state := .ready })) :=
        h.setEntry he (by rintro y ⟨⟩; simp [hne])
      dsimp only
      rw [State.aside_setEntry he, allReady_aside hr hne]
      split
      · exact applyGroup_spares hk hne _ hr
      · exact ⟨rfl, hr⟩

/-- The whole recursion, at every depth: in the abandonment of group g the entries of g take no part in it. -/
theorem cascadeDepth_spares (n : Nat) : EndsSpare g own (cascadeDepth (some g) n) (cascadeDepth none n) := by
  induction n with
  | zero => exact fun _ _ _ h => ⟨rfl, h⟩
  | succ n ih => exact endWaiting_spares ih

end

/-! ## What `State.retaken` answers -/

/-- An end of waiting leaves window w without a pending change. -/
def KeepsIdle (w : Nat) (k : EndWait) : Prop :=
  ∀ e s, (s.window w).pending = none → ((k e s).window w).pending = none

theorem State.removeSlot_idle {s : State} {w : Nat} (h : (s.window w).pending = none) (ab : Option (Fin 4))
    (a : AgentId) (d : Bool) (i : Fin 64) : ((s.removeSlot ab a d i).window w).pending = none := by
  cases hh : (s.table a).slots[i] with
  | none => rwa [State.removeSlot_empty hh]
  | some x =>
    rw [State.removeSlot_held hh]
    have : (((s.setTable a { s.table a with slots := (s.table a).slots.set i none }).setWindow x.window
        { s.window x.window with holders := (s.window x.window).holders.del a }).window w).pending = none := by
      rw [State.window_setWindow]
      split
      · subst_vars; exact h
      · exact h
    rcases State.report_cases _ ab a x.window d with hr | ⟨_, _, -, -, -, -, hr⟩ <;> rw [hr] <;> exact this

theorem grant_idle {k : EndWait} {w : Nat} (hk : KeepsIdle w k) (ab : Option (Fin 4)) (a : AgentId) (t : Fin 4)
    (v : Nat) (r : Rights) (l : LiveFields) {s : State} (h : (s.window w).pending = none) :
    ((grant k ab a t v r l s).window w).pending = none := by
  have hs : ∀ (s : State) (i : Fin 64) (r : Rights) (ev : Option Nat),
      (s.sendGrant a t i v l r ev).window w = s.window w := fun s i r ev => by
    unfold State.sendGrant; dsimp only; split <;> simp
  unfold grant
  dsimp only
  split
  · rwa [hs]
  · refine endWaits_keeps (P := fun s => (s.window w).pending = none) hk _ _ ?_
    rw [hs, State.window_setWindow]
    have := State.removeSlot_idle h ab a false (s.table a).choose
    split
    · subst_vars; exact this
    · exact this

/-- A parked lookup's answer keeps what its parts keep. -/
theorem retakeOne_keeps {P : State → Prop} {k : EndWait} {ab : Option (Fin 4)}
    (tag : ∀ a t s, P s → P (s.setLookupTag a t false)) (refuse : ∀ a t w r s, P s → P (s.refuseLookup a t w r))
    (grants : ∀ a t w r l s, P s → P (grant k ab a t w r l s)) (p : Parked) (s : State) (hs : P s) :
    P (retakeOne k ab p s) := by
  unfold retakeOne answerLookup
  have ht := tag p.agent p.tag s hs
  split
  · exact refuse _ _ _ _ _ ht
  · split
    · exact refuse _ _ _ _ _ ht
    · exact grants _ _ _ _ _ _ ht

theorem retake_idle {k : EndWait} {w : Nat} (hk : KeepsIdle w k) (ab : Option (Fin 4)) (v : Nat) {s : State}
    (h : (s.window w).pending = none) : ((retake k ab v s).window w).pending = none :=
  retake_keeps (P := fun s => (s.window w).pending = none) (fun _ _ h => h) (fun _ _ _ h => h)
    (fun _ _ _ _ _ h => by simpa using h) (fun a t v r l _ h => grant_idle hk ab a t v r l h) v s h

theorem State.applyParts_idle {e : Fin 16} {x : Entry} {w : Nat} {s : State} (h : (s.window w).pending = none) :
    ((s.applyParts e x).window w).pending = none := by
  unfold State.applyParts
  split
  · exact h
  · rename_i l _
    obtain ⟨m, hm⟩ := (s.setWindow x.window (x.kind.applied (s.window x.window) l)).moveFrames_engineOnly x l
    simp only [State.finish_window, State.setEntry_window]
    rw [show ∀ t : State, t.window w = sparseGet Window.initial t.windows w from fun _ => rfl, hm.windows]
    show ((s.setWindow x.window (x.kind.applied (s.window x.window) l)).window w).pending = none
    rw [State.window_setWindow]
    split
    · rfl
    · exact h

/-- No end of a change gives a window a pending change. -/
theorem cascadeDepth_idle (w : Nat) (ab : Option (Fin 4)) (n : Nat) : KeepsIdle w (cascadeDepth ab n) :=
  cascadeDepth_keeps (P := fun s => (s.window w).pending = none)
    { retake := fun _ hk v _ h => retake_idle hk ab v h
      apply := fun _ _ _ _ h => State.applyParts_idle h
      ready := fun _ _ _ _ h => h
      close := fun c o l s h => by
        unfold State.closeGroup
        dsimp only
        split <;> simpa using h } n

/-- A parked lookup that R42 parks is decided, on its re-take, as the LOOKUP it was. -/
theorem act_parked {s : State} {p : Parked} (ha : (s.port p.agent).state = .admitted) (hw : p.window < 4096)
    (hr : p.rights ≠ .none) (hp : (s.window p.window).pending = none) :
    act (.lookup p.agent (BitVec.ofNat 8 p.tag) (BitVec.ofNat 16 p.window) p.rights.code)
        (s.setPort p.agent { s.port p.agent with tags := (s.port p.agent).tags.set p.tag false }) =
      retakeOne cascade none p s := by
  obtain ⟨a, t, w, r⟩ := p
  simp only at ha hw hr hp
  have ht : fieldBelow 4 (BitVec.ofNat 8 t.val).toNat = some t := by revert t; decide
  have hw' : (BitVec.ofNat 16 w).toNat = w := by simp; omega
  have hwn : windowNumber (BitVec.ofNat 16 w) = some w := by simp [windowNumber, hw', Config.windows, hw]
  have hrc : lookupRights r.code = some r := by revert hr; cases r <;> decide
  show lookupChecks _ _ _ _ (s.setLookupTag a t false) = answerLookup cascade none a t w r (s.setLookupTag a t false)
  have h1 : (s.setLookupTag a t false).isAdmitted a = true := by
    simp [State.isAdmitted, State.setLookupTag, ha]
  have h2 : (s.setLookupTag a t false).lookupTagInUse a (BitVec.ofNat 8 t.val) = false := by
    unfold State.lookupTagInUse
    rw [ht]
    simp [State.setLookupTag]
  have h3 : (s.setLookupTag a t false).condition w = .none := by
    simp [State.condition, State.setLookupTag, hp]
  unfold lookupChecks
  simp only [h1, h2, lookupFields, ht, hwn, hrc]
  simp [takeLookup, h3]

/-- The model's re-take of a window that no change names is the one that `State.retaken` describes (R50 to R52). -/
theorem State.retaken_eq {s : State} {w : Nat} (hs : s.parkSound) (hp : (s.window w).pending = none) :
    s.retaken w = retake cascade none w s := by
  have h : ∀ (l : List Parked) (t : State), (∀ p ∈ l, (t.port p.agent).state = .admitted ∧ p.window = w ∧
      p.window < 4096 ∧ p.rights ≠ .none) → (t.window w).pending = none →
      t.lookAgain l = l.foldl (fun s p => retakeOne cascade none p s) t := by
    intro l
    induction l with
    | nil => intro t _ _; rfl
    | cons p l ih =>
      intro t hl ht
      obtain ⟨ha, hw, hw', hr⟩ := hl p (.head _)
      have hact := act_parked ha hw' hr (by rw [hw]; exact ht)
      have hsteady : Steady t (retakeOne cascade none p t) :=
        retakeOne_keeps (P := Steady t) (fun _ _ _ h => h.trans (State.setLookupTag_steady _ _ _ _))
          (fun _ _ _ _ _ h => h.trans (State.sendAgent_steady _ _ _))
          (fun a t v r l s h => grant_steady (fun e _ h => h.trans (cascade_steady e _)) none a t v r l s h) p t
          (.refl t)
      have hidle : ((retakeOne cascade none p t).window w).pending = none :=
        retakeOne_keeps (P := fun s => (s.window w).pending = none) (fun _ _ _ h => h)
          (fun _ _ _ _ _ h => by simpa using h)
          (fun a t v r l _ h => grant_idle (cascadeDepth_idle w none _) none a t v r l h) p t ht
      unfold State.lookAgain at ih ⊢
      rw [List.foldl_cons, List.foldl_cons]
      dsimp only
      rw [hact]
      exact ih _ (fun q hq => by rw [hsteady.state]; exact hl q (.tail _ hq)) hidle
  unfold State.retaken retake
  have hf : (s.park.filter fun p => decide (p.window = w)) = s.park.filter fun p => p.window == w := rfl
  have hg : ({ s with park := s.park.filter fun p => decide (p.window ≠ w) } : State) =
      s.setPark (s.park.filter fun p => p.window != w) := by
    unfold State.setPark
    congr 2
    funext p
    simp [bne, beq_eq_decide]
  rw [hg, hf]
  exact h _ _ (fun p hp => by
    rw [List.mem_filter] at hp
    exact ⟨(hs p hp.1).1, by simpa using hp.2, (hs p hp.1).2⟩) hp

/-- A re-take inside the GROUP_ABANDON of group g is the one that `State.retakenBeside` describes: the nested ends of
changes take no part of g's entries (R97). -/
theorem State.retakenBeside_eq {s : State} {g : Fin 4} {w : Nat} (hs : s.parkSound)
    (hp : (s.window w).pending = none)
    (hm : ∀ c, c ≠ g → ∀ e ∈ (s.group c).members, ∀ x ∈ s.entry e, x.group ≠ some g) :
    s.retakenBeside g w = retake (cascadeDepth (some g) Config.changeEntries) (some g) w s := by
  let own : Vector (Option Entry) 16 := Vector.ofFn fun e => (s.entry e).filter fun x => x.group == some g
  have howne : ∀ e : Fin 16, own[e] = (s.entry e).filter fun x => x.group == some g := fun e => by simp [own]
  have ha : Aside g own s :=
    { kept := fun e x hx => by
        rw [howne, Option.filter_eq_some_iff] at hx
        exact ⟨hx.1, by simpa using hx.2⟩
      others := fun e he x hx hg => by
        rw [howne, hx] at he
        simp [Option.filter, hg] at he
      members := fun c hc e he => by
        rw [howne]
        cases hx : s.entry e with
        | none => rfl
        | some x => simpa [Option.filter] using hm c hc e he x hx }
  obtain ⟨h1, h2⟩ := retake_spares (cascadeDepth_spares (g := g) (own := own) Config.changeEntries) w s ha
  have hown : ∀ e : Fin 16, ((s.entry e).any fun x => x.group == some g) = own[e].isSome := fun e => by
    rw [howne]
    cases s.entry e with
    | none => rfl
    | some x => by_cases hx : x.group = some g <;> simp [Option.filter, hx]
  have haside :
      { s with
        entries := Vector.ofFn fun e => if (s.entry e).any fun x => x.group == some g then none else s.entry e } =
      s.aside own := by
    unfold State.aside State.withEntries
    simp only [hown]
    rfl
  unfold State.retakenBeside
  simp only [haside]
  rw [State.retaken_eq (s := s.aside own) (fun p hp => by simpa using hs p (by simpa using hp)) (by simpa using hp)]
  unfold cascade
  rw [h1]
  generalize retake (cascadeDepth (some g) Config.changeEntries) (some g) w s = t at h2
  have ht : (Vector.ofFn fun e : Fin 16 =>
      if (s.entry e).any fun x => x.group == some g then s.entry e else (t.aside own).entry e) = t.entries := by
    ext e he x
    have hk := h2.kept ⟨e, he⟩
    simp only [Vector.getElem_ofFn, hown, State.entry_aside]
    cases ho : own[(⟨e, he⟩ : Fin 16)] with
    | none => simp [State.entry]
    | some y =>
      have := (ha.kept ⟨e, he⟩ y ho).1
      have := (hk y ho).1
      simp_all [State.entry]
  rw [ht]
  exact State.aside_withEntries own t.entries t

end Sys2Proof.Machine
end

