-- ==== Sys2Proof/Laws/Mirror.lean ====
section
/-!
SUPPORT. What the reads of the Slot Mirror answer, and what the removal of several holdings, a departure and a delivery of
notices do.
-/

namespace Sys2Proof.Machine

/-! ## Reading a slot table -/

theorem SlotTable.naming_some {t : SlotTable} {w : Nat} {i : Fin 64} (h : t.naming w = some i) :
    ∃ x, t.slots[i] = some x ∧ x.window = w := by
  have h' := List.find?_some h
  revert h'
  cases hx : t.slots[i] with
  | none => intro h'; simp at h'
  | some x => intro h'; exact ⟨x, rfl, by simpa [hx] using h'⟩

theorem SlotTable.naming_none {t : SlotTable} {w : Nat} :
    t.naming w = none ↔ ∀ i : Fin 64, ∀ x ∈ t.slots[i], x.window ≠ w := by
  unfold SlotTable.naming
  rw [List.find?_eq_none]
  constructor
  · intro h i x hx hw
    have := h i (List.mem_finRange i)
    rw [Option.mem_def] at hx
    simp [hx, hw] at this
  · intro h i _
    cases hx : t.slots[i] with
    | none => simp
    | some x => simpa [hx] using h i x hx

/-- With one slot naming the window, that slot is the one found. -/
theorem SlotTable.naming_eq {t : SlotTable} {w : Nat} {i : Fin 64} {x : Holding} (hx : t.slots[i] = some x)
    (hw : x.window = w) (once : ∀ j : Fin 64, ∀ y ∈ t.slots[j], y.window = w → j = i) : t.naming w = some i := by
  cases h : t.naming w with
  | none => exact absurd hw (SlotTable.naming_none.mp h i x hx)
  | some j =>
    obtain ⟨y, hy, hyw⟩ := SlotTable.naming_some h
    rw [once j y hy hyw]

/-- The chosen slot is the first EMPTY one from the pointer upward. -/
theorem SlotTable.choose_eq {t : SlotTable} {k : Fin 64} (hk : t.slots[t.pointer + k] = none)
    (hn : ∀ n < k, t.slots[t.pointer + n] ≠ none) : t.choose = t.pointer + k := by
  unfold SlotTable.choose
  rw [List.find?_map]
  have h : (List.finRange 64).find? ((fun i : Fin 64 => t.slots[i].isNone) ∘ fun n => t.pointer + n) = some k := by
    rw [List.find?_eq_some_iff_getElem]
    refine ⟨by simpa using hk, k.val, by simp, by simp, fun j hj => ?_⟩
    have := hn ⟨j, by omega⟩ (by simpa [Fin.lt_def] using hj)
    simp [Option.ne_none_iff_exists'] at this ⊢
    obtain ⟨x, hx⟩ := this
    simp [hx]
  rw [h]
  rfl

/-- With every slot HELD the pointer's own slot is chosen. -/
theorem SlotTable.choose_full {t : SlotTable} (h : ∀ i : Fin 64, t.slots[i] ≠ none) : t.choose = t.pointer := by
  have h0 : (((List.finRange 64).map fun n => t.pointer + n).find? fun i => t.slots[i].isNone) = none := by
    rw [List.find?_eq_none]
    intro i _
    cases hx : t.slots[i] with
    | none => exact absurd hx (h i)
    | some x => simp
  simp only [SlotTable.choose, h0, Option.getD_none]

/-! ## Several removals, departures -/

theorem State.removeWhere_steady (s : State) (a : AgentId) (d : Bool) (pick : Holding → Bool) :
    Steady s (s.removeWhere a d pick) :=
  foldl_keeps (P := Steady s)
    (fun t i ht => by
      split
      · split
        · exact ht.trans (t.removeSlot_steady none a d i)
        · exact ht
      · exact ht)
    _ _ (.refl s)

/-- A removal writes a slot of one agent's table, and the table's pointer and sets stay. -/
theorem State.removeSlot_table (s : State) (ab : Option (Fin 4)) (a : AgentId) (d : Bool) (i : Fin 64) (b : AgentId) :
    (s.removeSlot ab a d i).table b =
      if b = a then { s.table a with slots := (s.table a).slots.set i none } else s.table b := by
  unfold State.removeSlot
  split
  · rename_i h
    split
    · rename_i hb
      subst hb
      have : (s.table b).slots.set i none = (s.table b).slots := by
        have := vector_set_get (s.table b).slots i
        rwa [h] at this
      rw [this]
    · rfl
  · rcases State.report_cases
      ((s.setTable a { s.table a with slots := (s.table a).slots.set i none }).setWindow ‹Holding›.window
        { (s.setTable a { s.table a with slots := (s.table a).slots.set i none }).window ‹Holding›.window with
          holders :=
            ((s.setTable a { s.table a with slots := (s.table a).slots.set i none }).window
              ‹Holding›.window).holders.del a }) ab a ‹Holding›.window d with h | ⟨e, x, -, -, -, -, h⟩ <;>
    · dsimp only
      rw [h]
      simp [State.table_setTable]

/-- The delivery of a notice writes one scrub slot at most. -/
theorem State.noticeDelivered_cases (s : State) (n : Notice) :
    s.noticeDelivered n = s ∨
      ∃ i o f r x y j, n = .scrub i o f r x y ∧ s.slot i = .ended j ∧ s.noticeDelivered n = s.setSlot i .free := by
  cases n with
  | port => exact .inl rfl
  | scrub i o f r x y =>
    unfold State.noticeDelivered
    dsimp only
    split
    · rename_i j hj
      exact .inr ⟨i, o, f, r, x, y, j, rfl, hj, rfl⟩
    · exact .inl rfl

theorem State.noticeDelivered_engineOnly (s : State) (n : Notice) : EngineOnly s (s.noticeDelivered n) := by
  rcases s.noticeDelivered_cases n with h | ⟨i, _, _, _, _, _, _, -, -, h⟩ <;> rw [h]
  · exact .refl s
  · exact s.setSlot_engineOnly _ _

@[simp] theorem State.noticeDelivered_credit (s : State) (n : Notice) : (s.noticeDelivered n).credit = s.credit := by
  rcases s.noticeDelivered_cases n with h | ⟨i, _, _, _, _, _, _, -, -, h⟩ <;> (rw [h]; try rfl)
@[simp] theorem State.noticeDelivered_outbox (s : State) (n : Notice) : (s.noticeDelivered n).outbox = s.outbox := by
  rcases s.noticeDelivered_cases n with h | ⟨i, _, _, _, _, _, _, -, -, h⟩ <;> (rw [h]; try rfl)
@[simp] theorem State.noticeDelivered_noticeN (s : State) (n : Notice) : (s.noticeDelivered n).noticeN = s.noticeN := by
  rcases s.noticeDelivered_cases n with h | ⟨i, _, _, _, _, _, _, -, -, h⟩ <;> (rw [h]; try rfl)
@[simp] theorem State.noticeDelivered_out (s : State) (n : Notice) : (s.noticeDelivered n).out = s.out := by
  rcases s.noticeDelivered_cases n with h | ⟨i, _, _, _, _, _, _, -, -, h⟩ <;> (rw [h]; try rfl)
@[simp] theorem State.noticeDelivered_isUp (s : State) (n : Notice) (l : LinkId) :
    (s.noticeDelivered n).isUp l = s.isUp l := by
  rcases s.noticeDelivered_cases n with h | ⟨i, _, _, _, _, _, _, -, -, h⟩ <;> (rw [h]; try rfl)

/-- What a delivery of notices leaves: as many of the oldest as the credit allows have left. -/
theorem deliver_fields (l : List Notice) : ∀ s : State, s.isUp .sup = true →
    (deliver l s).credit = s.credit - min s.credit l.length ∧
      (deliver l s).out.sup = s.out.sup ++ (l.take (min s.credit l.length)).map .notice ∧
      (deliver l s).outbox = (if min s.credit l.length = 0 then s.outbox else l.drop (min s.credit l.length)) := by
  induction l with
  | nil => intro s _; simp [deliver]
  | cons n l ih =>
    intro s hs
    by_cases hc : 0 < s.credit
    · have step : deliver (n :: l) s =
          deliver l ((((s.sendSup (.notice n)).setCredit (s.credit - 1)).setOutbox l).noticeDelivered n) := by
        simp [deliver, hs, hc]
      rw [step]
      obtain ⟨h1, h2, h3⟩ := ih ((((s.sendSup (.notice n)).setCredit (s.credit - 1)).setOutbox l).noticeDelivered n)
        (by simpa using hs)
      have hm : min s.credit (l.length + 1) = min (s.credit - 1) l.length + 1 := by omega
      simp only [List.length_cons, hm]
      rw [h1, h2, h3]
      refine ⟨by simp; omega, ?_, ?_⟩
      · simp [State.sendSup_out hs]
      · by_cases h0 : min (s.credit - 1) l.length = 0 <;> simp [h0]
    · have hz : s.credit = 0 := by omega
      simp [deliver, hz]

end Sys2Proof.Machine
end

