-- ==== Sys2Proof/Tests/Slice0.lean ====
section
/-!
SUPPORT. Tests: the well-formedness checks refuse, received words read as the commands the spec's layouts give them, small
one-step checks of commands against the tables of spec/11 and the rules, and for every statement with hypotheses a concrete
state and operands that meet them, clause by clause. Words were written out by hand from spec/10 section 10.5; their CRC
words were computed outside Lean.
-/

namespace Sys2Proof.Tests

set_option Elab.async false

open Sys2Proof.Machine

/-! ## Well-formedness: each check refuses -/

theorem test_wf_unknown_kind_is_known : (Instr.unknownKindMessage (.agent 1) 0x01 0 [0]).wellFormed = false := by decide
theorem test_wf_unknown_kind_zero : (Instr.unknownKindMessage .sup 0x00 0 []).wellFormed = false := by decide
theorem test_wf_unknown_kind_long :
    (Instr.unknownKindMessage .mem 0x77 0 (List.replicate 65 0)).wellFormed = false := by decide
theorem test_wf_unknown_kind_wrong_length : (Instr.unknownKindMessage (.agent 1) 0x01 0 []).wellFormed = true := by decide
theorem test_wf_unknown_kind_other_link : (Instr.unknownKindMessage (.agent 1) 0x21 0 [0, 0, 0, 0]).wellFormed = true := by
  decide
theorem test_wf_over_long_64 : (Instr.linkError .sup (.overLong 64)).wellFormed = false := by decide
theorem test_wf_over_long_65 : (Instr.linkError .sup (.overLong 65)).wellFormed = true := by decide
theorem test_wf_in_training_empty : (Instr.messageInTraining .sup []).wellFormed = false := by decide
theorem test_wf_in_training_parameter : (Instr.messageInTraining .sup [0x00010108]).wellFormed = false := by decide
theorem test_wf_control_not_control : (Instr.otherControlCodeWord .sup 0x01030000).wellFormed = false := by decide
theorem test_wf_control_parameter : (Instr.otherControlCodeWord .sup 0x00010000).wellFormed = false := by decide
theorem test_wf_control_credit : (Instr.otherControlCodeWord .sup 0x00020000).wellFormed = false := by decide

/-! ## Received words (spec/10 tables 10-1 to 10-8) -/

theorem test_word_lookup :
    frameCommand (.agent 1) .up 8 [0x01020400, 0x00050002, 0x306C585B] = some (.lookup 1 2 5 2) := by decide +kernel
theorem test_word_return : frameCommand (.agent 2) .up 8 [0x03000E3F, 0xDB6FBC33] = some (.returnSlot 2 7 63) := by
  decide +kernel
theorem test_word_create :
    frameCommand .sup .up 8 [0x22081400, 0x00050101, 0x03020048, 0x00000028, 0x00000004, 0x65C25846] =
      some (.create 10 5 1 true 3 2 0x0048 40 4) := by decide +kernel
theorem test_word_change :
    frameCommand .sup .up 8 [0x23083E00, 0x00140315, 0x00000000, 0x00000078, 0x00000008, 0x251428EB] =
      some (.change 31 20 (some 3) none (some (120, 8)) none) := by decide +kernel
theorem test_word_configure :
    frameCommand .sup .up 8 [0x21080200, 0x00000100, 0x000001F4, 0x80000014, 0xDEADBEEF, 0x5CF30302] =
      some (.configure 1 256 500 true 20 0xDEADBEEF) := by decide +kernel
theorem test_word_group_open : frameCommand .sup .up 8 [0x26003C03, 0xE020E9BE] = some (.groupOpen 30 3) := by
  decide +kernel
theorem test_word_fence : frameCommand .sup .up 8 [0x2A000207, 0x29571AAC] = some (.fence 1 7) := by decide +kernel
theorem test_word_rescrub :
    frameCommand .sup .up 8 [0x2D041200, 0x00000028, 0x00000001, 0xA87B28FE] = some (.rescrub 9 40 1) := by
  decide +kernel
theorem test_word_filled : frameCommand .mem .up 8 [0x52020000, 0x02031234, 0x65C8ED99] = some (.filled 2 3 0x1234) := by
  decide +kernel
theorem test_word_unknown :
    frameCommand .sup .up 8 [0x77040A00, 0x00000001, 0x00000002, 0x2077C344] =
      some (.unknownKindMessage .sup 0x77 5 [1, 2]) := by decide +kernel
/-- A wrong CRC word on an UP link, and a message with no credit in hand, are link errors (R162). -/
theorem test_word_bad_crc :
    frameCommand (.agent 1) .up 8 [0x01020400, 0x00050002, 0x306C585C] = some (.linkError (.agent 1) .crcMismatch) ∧
      frameCommand (.agent 1) .up 0 [0x01020400, 0x00050002, 0x306C585B] = some (.linkError (.agent 1) .noCredit) := by
  decide +kernel
/-- The parameter word of agent link 1's partner (role 0, link 1, 8 credits) on a TRAINING and on an UP link (R161, R162). -/
theorem test_word_parameter :
    frameCommand (.agent 1) .training 8 [0x00010108, 0xCD32A267] = some (.parameterWord (.agent 1) true 0 1 8) ∧
      frameCommand (.agent 1) .up 8 [0x00010108, 0xCD32A267] = some (.linkError (.agent 1) .parameterWord) := by
  decide +kernel
/-- A GRANT of slot 63, tag 3, window 5, generation 1, SHARED, run 40 to 43, READWRITE, evicted window 9 (table 10-4). -/
theorem test_word_grant :
    (AgentMsg.grant 3 63 5 1 .shared ⟨40, 4⟩ .readWrite (some 9)).words.take 4 =
      [0x1106063F, 0x00050001, 0x00280004, 0x20010009] := by decide
/-- A DONE (15, APPLIED) with a generation, a lost set, a slot and no credit (table 10-6). -/
theorem test_word_done :
    (SupMsg.done 15 .applied (some 7) ((noneOf 8).set 3 true) (some 2) none).words.take 3 =
      [0x43041E00, 0x01030802, 0x00070000] := by decide

/-! ## States of spec/11 -/

/-- Links S, M and A1 to A4 UP, the others DOWN. -/
def upLinks : Links :=
  { agents := Vector.ofFn fun a : Fin 8 => if a ∈ [1, 2, 3, 4] then .fresh .up else .initial
    sup := .fresh .up, mem := .fresh .up }

/-- A port record in context 0 with no tag. -/
def portIn (st : PortState) : Port := { Port.initial with state := st, reason := .linkUp }

/-- The device at the start of spec/11, with agent 2 WAITING and agent 4 OUTSIDE. -/
def s0 : State :=
  { State.reset with
    device := .serving ⟨256, 500, 20, 0xDEADBEEF, false⟩
    links := upLinks, resetN := true, carrier := true
    ports := ((((Vector.replicate 8 Port.initial).set 1 (portIn .admitted)).set 2 (portIn .waiting)).set 3
      (portIn .admitted)).set 4 (portIn .outside)
    fenceN := ((noneOf 8).set 1 true).set 3 true }

/-- Rights for agents 1 and 3, the others NONE. -/
def rights13 (r q : Rights) : RightsSet := ((Vector.replicate 8 Rights.none).set 1 r).set 3 q

/-- Window 5's LIVE fields. -/
def live5 : LiveFields := ⟨.shared, ⟨40, 4⟩, rights13 .readWrite .read, true⟩

/-- Frames bound to a window. -/
def boundTo (w base n : Nat) : Sparse FrameState := (List.range n).map fun i => (base + i, .bound w)

/-- After event 1. -/
def s1 : State :=
  { s0 with windows := [(5, ⟨1, some live5, none, noneOf 8⟩)], frames := boundTo 5 40 4 }

/-- A table with one holding in slot 0 and its pointer past it. -/
def holdsFirst (h : Holding) : SlotTable :=
  { SlotTable.initial with slots := (Vector.replicate 64 none).set 0 (some h), pointer := 1 }

/-- After event 5: agents 1 and 3 hold window 5. -/
def s5 : State :=
  { s1 with
    windows := [(5, ⟨1, some live5, none, ((noneOf 8).set 1 true).set 3 true⟩)]
    tables := ((Vector.replicate 8 SlotTable.initial).set 1 (holdsFirst ⟨5, .readWrite, .shared⟩)).set 3
      (holdsFirst ⟨5, .read, .shared⟩) }

/-- The entry of event 6, awaiting a set of agents. -/
def entry11 (awaited : FinSet 8) : Entry :=
  { tag := 11, window := 5, kind := .change (some (rights13 .read .none)) none none, group := none, state := .recalling
    awaited := awaited, lost := noneOf 8, deadline := .running, scrubSlot := none }

/-- A table whose holding of window 5 has been recalled. -/
def recalledFirst (h : Holding) : SlotTable := { holdsFirst h with recalled := [5] }

/-- After event 6. -/
def s6 : State :=
  { s5 with
    windows := [(5, ⟨1, some live5, some 0, ((noneOf 8).set 1 true).set 3 true⟩)]
    tables := ((Vector.replicate 8 SlotTable.initial).set 1 (recalledFirst ⟨5, .readWrite, .shared⟩)).set 3
      (recalledFirst ⟨5, .read, .shared⟩)
    entries := (Vector.replicate 16 none).set 0 (some (entry11 (((noneOf 8).set 1 true).set 3 true)))
    tags := [11] }

/-- After event 8: agent 1 has released, agent 3 has a lookup parked. -/
def s8 : State :=
  { s6 with
    windows := [(5, ⟨1, some live5, some 0, (noneOf 8).set 3 true⟩)]
    tables := ((Vector.replicate 8 SlotTable.initial).set 1 { SlotTable.initial with pointer := 1 }).set 3
      (recalledFirst ⟨5, .read, .shared⟩)
    entries := (Vector.replicate 16 none).set 0 (some (entry11 ((noneOf 8).set 3 true)))
    park := [{ agent := 3, tag := 2, window := 5, rights := .read }]
    ports := s6.ports.set 3 { portIn .admitted with tags := (noneOf 4).set 2 true } }

/-- The job of event 11, with a position and a tally. -/
def job5 (p : Option Position) (tally : Sparse (FinSet 16)) : Job :=
  { origin := .window 5, first := ⟨40, 4⟩, second := none, position := p, tally := tally, freed := 0, quarantined := 0 }

/-- Fill k of block 40.k in flight. -/
def fill40 (k : Fin 4) : Fill := { seq := BitVec.ofNat 16 k, frame := 40, block := Fin.ofNat 16 k }

/-- After event 11: the job ACTIVE in slot 0 with four fills in flight. -/
def s11 : State :=
  { s0 with
    windows := [(5, ⟨3, none, none, noneOf 8⟩)]
    frames := (List.range 4).map fun i => (40 + i, .scrubbing 0)
    scrub :=
      { slots := (Vector.replicate 16 .free).set 0 (.active (job5 (some ⟨false, 40, 4⟩) []))
        queue := [], engine := .running, fills := Vector.ofFn fun k => some (fill40 k), seq := 4 } }

/-- s11 SUSPENDING with one fill in flight. -/
def sStop : State :=
  { s11 with
    tags := [13]
    scrub :=
      { s11.scrub with engine := .suspending 13, fills := (Vector.replicate 4 none).set 3 (some (fill40 3)) } }

/-- The next state of a command. -/
def after (c : Instr) (s : State) : State :=
  match exec c s with
  | .next t => t
  | _ => s

/-! ## One step of each command -/

theorem test_create :
    after (.create 10 5 0 true 9 99 0x0048 40 4) s0 =
      { s1 with out := .onSup [.done 10 .applied (some 1) (noneOf 8) none none] } := by decide +kernel
/-- Checks in order: the class before the agent before the run (R15). -/
theorem test_create_bad_agent :
    (after (.create 10 5 1 true 8 0 0x0048 40 0) s0).out.sup = [.refused 0x22 10 .badAgent] := by decide
theorem test_lookup_grant :
    (after (.lookup 1 0 5 2) s1).out.agents[1] = [.grant 0 0 5 1 .shared ⟨40, 4⟩ .readWrite none] ∧
      ((after (.lookup 1 0 5 2) s1).table 1) = holdsFirst ⟨5, .readWrite, .shared⟩ := by decide
/-- Event 5: a refresh carries the rights held. -/
theorem test_lookup_refresh :
    (after (.lookup 1 2 5 1) s5).out.agents[1] = [.grant 2 0 5 1 .shared ⟨40, 4⟩ .readWrite none] := by decide
/-- Event 6. -/
theorem test_change_recalls :
    after (.change 11 5 none (some 0x0004) none none) s5 =
      { s6 with
        out :=
          { Outputs.onSup [.accepted 11] with
            agents := (Outputs.nothing.agents.set 1 [.recall 0 5 1]).set 3 [.recall 0 5 1] } } := by decide +kernel
/-- Event 7. -/
theorem test_lookup_parks : (after (.lookup 3 2 5 1) s6).park = [{ agent := 3, tag := 2, window := 5, rights := .read }] := by
  decide
/-- Event 8. -/
theorem test_released : (after (.released 1 5 1) s6).entry 0 = some (entry11 ((noneOf 8).set 3 true)) := by decide
theorem test_released_stale : (after (.released 1 5 0) s6).entry 0 = s6.entry 0 := by decide
/-- Event 9. -/
theorem test_expiry :
    (after (.recallDeadlineExpiry 0) s8).out.sup = [.done 11 .applied (some 2) ((noneOf 8).set 3 true) none none] ∧
      (after (.recallDeadlineExpiry 0) s8).out.agents[3] = [.fenced .timeout] ∧
      (after (.recallDeadlineExpiry 0) s8).outbox = [.port 3 .outside .timeout 1] := by decide +kernel
theorem test_expiry_window :
    (after (.recallDeadlineExpiry 0) s8).window 5 =
      ⟨2, some { live5 with rights := rights13 .read .none }, none, noneOf 8⟩ := by decide +kernel
/-- Event 11. -/
theorem test_retire :
    (after (.retire 12 5 none) { s1 with windows := [(5, ⟨2, some live5, none, noneOf 8⟩)] }).scrub = s11.scrub := by
  decide +kernel
theorem test_retire_no_window : (after (.retire 12 6 none) s1).out.sup = [.refused 0x24 12 .noWindow] := by decide
/-- Event 12. -/
theorem test_suspend : (after (.suspendScrub 13) s11).scrub.engine = .suspending 13 ∧ (after (.suspendScrub 13) s11).tags = [13] := by
  decide
/-- Event 13, while SUSPENDING. -/
theorem test_filled_ok :
    (after (.filled 1 0 0) { s11 with scrub := { s11.scrub with engine := .suspending 13 } }).slot 0 =
      .active (job5 (some ⟨false, 40, 4⟩) [(40, (noneOf 16).set 0 true)]) := by decide +kernel
/-- Event 14: the frame is QUARANTINED and the position passes to frame 41. -/
theorem test_filled_error :
    (after (.filled 2 1 1) { s11 with scrub := { s11.scrub with engine := .suspending 13 } }).slot 0 =
        .active { job5 (some ⟨false, 41, 0⟩) [] with quarantined := 1 } ∧
      (after (.filled 2 1 1) { s11 with scrub := { s11.scrub with engine := .suspending 13 } }).frame 40 = .quarantined := by
  decide +kernel
/-- Event 16: the last fill's deadline ends the suspension. -/
theorem test_fill_deadline :
    (after (.fillDeadlineExpiry 3) sStop).out.sup = [.done 13 .applied none (noneOf 8) none none] := by decide +kernel
/-- Event 17: four fills from the position on. -/
theorem test_resume :
    ((after (.resumeScrub 14)
        { s11 with
          frames := (40, .quarantined) :: (List.range 3).map fun i => (41 + i, .scrubbing 0)
          scrub :=
            { s11.scrub with
              slots := s11.scrub.slots.set 0 (.active (job5 (some ⟨false, 41, 0⟩) []))
              engine := .suspended, fills := Vector.replicate 4 none } }).out.mem.map fun m => (m.id, m.frame, m.block)) =
      [(0, 41, 0), (1, 41, 1), (2, 41, 2), (3, 41, 3)] := by decide +kernel
/-- Event 19. -/
theorem test_notice_credit :
    (after (.noticeCredit 15 4)
        { s0 with outbox := [.port 3 .outside .timeout 1, .scrub 0 (.window 5) ⟨40, 4⟩ none 3 1], noticeN := false }).out.sup =
      [.done 15 .applied none (noneOf 8) none (some 4), .notice (.port 3 .outside .timeout 1),
        .notice (.scrub 0 (.window 5) ⟨40, 4⟩ none 3 1)] := by decide
theorem test_notice_credit_stops : (after (.noticeCredit 15 255) { s0 with credit := 1 }).credit = 255 := by decide
theorem test_return_empty : (after (.returnSlot 1 0 63) s5).out.agents[1] = [.returned 63 false] := by decide
theorem test_return_held :
    (after (.returnSlot 1 0 0) s5).out.agents[1] = [.returned 0 true] ∧
      ((after (.returnSlot 1 0 0) s5).window 5).holders = (noneOf 8).set 3 true := by decide +kernel
theorem test_flush : (after (.flush 1 0) s5).table 1 = .initial := by decide +kernel
theorem test_switch_keeps_shared :
    (after (.switch 1 0 15) s5).out.agents[1] = [.switched 15 0] ∧ (after (.switch 1 0 15) s5).table 1 = s5.table 1 := by
  decide +kernel
theorem test_join : (after (.join 4) s0).port 4 = { portIn .waiting with reason := .linkUp } := by decide
theorem test_rejoin : (after (.join 1) s5).port 1 = { portIn .waiting with reason := .rejoin } := by decide +kernel
theorem test_admit : (after (.admitAgent 1 2) s0).out.agents[2] = [.admitted 2 0] ∧ (after (.admitAgent 1 2) s0).fenceN[2] = true := by
  decide
theorem test_fence : (after (.fence 1 1) s5).out.agents[1] = [.fenced .supervisor] ∧ (after (.fence 1 1) s5).outbox = [] := by
  decide +kernel
theorem test_configure_range : (after (.configure 1 65537 1 false 1 0) { State.reset with links := upLinks }).out.sup =
    [.refused 0x21 1 .badValue] := by decide
theorem test_abandon :
    (after (.abandon 12 11) s6).out.sup =
      [.done 11 .abandoned (some 1) (noneOf 8) none none, .done 12 .applied (some 1) (noneOf 8) none none] := by
  decide +kernel
theorem test_abandon_retakes :
    (after (.abandon 12 11) s8).out.agents[3] = [.grant 2 0 5 1 .shared ⟨40, 4⟩ .read none] := by decide +kernel
theorem test_group_open_bad : (after (.groupOpen 30 4) s0).out.sup = [.refused 0x26 30 .badValue] := by decide
theorem test_group_commit_free : (after (.groupCommit 30 0) s0).out.sup = [.refused 0x27 30 .noGroup] := by decide
theorem test_group_abandon_open :
    (after (.groupAbandon 30 0) { s0 with groups := s0.groups.set 0 ⟨.opened, []⟩ }).out.sup = [.plainDone 30] := by decide
theorem test_rescrub_busy : (after (.rescrub 9 40 1) s1).out.sup = [.refused 0x2D 9 .framesBusy] := by decide
theorem test_query_frames_range : (after (.queryFrames 9 0 65) s1).out.sup = [.refused 0x30 9 .badRange] := by decide
theorem test_query_window : (after (.queryWindow 9 4096) s1).out.sup = [.refused 0x2E 9 .badValue] := by decide
theorem test_query_agent : (after (.queryAgent 9 8) s1).out.sup = [.refused 0x2F 9 .badAgent] := by decide
theorem test_restart_keeps_links : (after (.restart 9) s11).links = upLinks ∧ (after (.restart 9) s11).scrub.seq = 4 := by
  decide +kernel
theorem test_reset : (after .resetN s8).out = .nothing ∧ (after .resetN s8).fenceN = noneOf 8 := by decide
theorem test_link_error : (after (.linkError (.agent 3) .crcMismatch) s5).outbox = [.port 3 .down .linkLost 1] := by
  decide +kernel
theorem test_carrier_lost_mem :
    (after (.carrierLost .mem) s11).slot 0 = .active (job5 (some ⟨false, 40, 0⟩) []) := by decide +kernel
theorem test_training : (after (.carrierDetected .sup) { State.reset with resetN := true }).out.parameterWords = [.sup] := by
  decide
theorem test_malformed :
    (after (.unknownKindMessage (.agent 1) 0x01 3 [0x00051234, 0]) s5).out.agents[1] = [.refuse 0x01 3 .malformed 5] := by
  decide

/-! ## The receive buffers -/

/-- s0 with the Port Controller one message behind on link A4. -/
def sBehind : State := { s0 with behind := [.agent 4] }

/-- A message waits and uses a credit (R163). -/
theorem test_message_waits : (after (.join 4) sBehind).link (.agent 4) = ⟨.up, 7, [.join 4]⟩ ∧
    (after (.join 4) sBehind).port 4 = portIn .outside := by decide
/-- The oldest message is taken first; its credit comes back (R163, R164). -/
theorem test_oldest_first : (after (.flush 4 0) (after (.join 4) sBehind)).link (.agent 4) = ⟨.up, 7, [.flush 4 0]⟩ ∧
    ((after (.flush 4 0) (after (.join 4) sBehind)).port 4).state = .waiting ∧
    (after (.flush 4 0) (after (.join 4) sBehind)).out.creditReturns = [.agent 4] := by decide
/-- A link error discards what waits (R162). -/
theorem test_link_error_discards :
    (after (.linkError (.agent 4) .crcMismatch) (after (.join 4) sBehind)).link (.agent 4) = ⟨.training, 8, []⟩ ∧
      ((after (.linkError (.agent 4) .crcMismatch) (after (.join 4) sBehind)).port 4).state = .down := by decide
/-- A message from a partner with no credit in hand is a link error (R162, R163). -/
theorem test_no_credit :
    (after (.join 4) { s0 with links := { upLinks with agents := upLinks.agents.set 4 ⟨.up, 0, []⟩ } }).link (.agent 4) =
      ⟨.training, 8, []⟩ := by decide
/-- RESET_N empties every receive buffer (R169). -/
theorem test_reset_empties : (after .resetN (after (.join 4) sBehind)).links = .initial := by decide
/-- With no command to come, what waits is taken. -/
theorem test_idle_takes :
    (match step (after (.join 4) sBehind) with
      | .next t => (t.port 4).state
      | _ => .down) = .waiting := by decide

/-! ## Witnesses: states and operands that meet the hypotheses of the statements -/

/-- A link of s0 in another state. -/
def s0Link (l : LinkId) (st : LinkState) : State := s0.setLink l (.fresh st)

theorem witness_StepTakesTheFront :
    { s0 with pending := [.flush 1 0] }.pending = .flush 1 0 :: [] ∧ s0.pending = [] ∧ ∀ l, (s0.link l).buffer = [] :=
  ⟨rfl, rfl, fun l => by cases l with | agent a => revert a; decide | _ => rfl⟩

/-- s0 with the Scrub Engine one message behind on M. -/
def sLate : State := { s0 with behind := [.mem] }

/-- s0 with a fill's completion waiting in the receive buffer of M. -/
def sWaits : State :=
  { s0.setLink .mem ⟨.up, 7, [.filled 1 0 0]⟩ with behind := [.mem] }

theorem witness_MessagesWait :
    (commandMessage (.filled 2 1 0)).map Prod.fst = some .mem ∧ s0.receives .mem ∧
      (sLate.isUp .mem = true ∧ (sLate.link .mem).credits ≠ 0 ∧
        (sLate.link .mem).buffer.length < sLate.behind.count .mem) ∧
      (sWaits.isUp .mem = true ∧ (sWaits.link .mem).credits ≠ 0 ∧
        sWaits.behind.count .mem ≤ (sWaits.link .mem).buffer.length ∧
        (sWaits.link .mem).buffer = .filled 1 0 0 :: []) ∧
      (s0Link .mem .down).isUp .mem = false ∧ sWaits.pending = [] ∧
      ∀ k, (∃ a b, linkOrder = a ++ k :: b ∧ LinkId.mem ∈ b) → (sWaits.link k).buffer = [] := by
  refine ⟨by decide, by decide, by decide, by decide, by decide, by decide, fun k ⟨a, b, h, hb⟩ => ?_⟩
  have hn : (a ++ k :: b).Nodup := h ▸ by decide
  have hk : k ≠ .mem := by
    rintro rfl
    exact (List.nodup_cons.mp (List.nodup_append.mp hn).2.1).1 hb
  cases k with
  | agent c => exact (by decide : ∀ c : AgentId, (sWaits.link (.agent c)).buffer = []) c
  | sup => rfl
  | mem => exact absurd rfl hk

theorem witness_FramesDecodeToTheirCommands :
    (Instr.lookup 1 2 5 2).wellFormed = true ∧
      commandFrame (.lookup 1 2 5 2) = some (.agent 1, [0x01020400, 0x00050002, 0x306C585B]) := by decide +kernel
theorem witness_RestartResets :
    s0.receives .sup ∧ (∀ a, (s0.port a).state ≠ .down → s0.isUp (.agent a) = true) ∧ (s0.port 7).state = .down ∧
      (s0.port 4).state = .outside := by decide

/-! ### Blocks to send -/

/-- Block b of a frame of a job's first run. -/
def blk (f b : Nat) : Position := { second := false, frame := f, block := Fin.ofNat 16 b }

theorem before_blk {f b : Nat} {r : Position} (hb : b + 1 < 16) (h : (blk f b).before r) : ¬r.before (blk f (b + 1)) := by
  have e1 : b % 16 = b := Nat.mod_eq_of_lt (by omega)
  have e2 : (b + 1) % 16 = b + 1 := Nat.mod_eq_of_lt hb
  simp only [Position.before, blk, Fin.lt_def, Fin.ofNat, e1, e2] at h ⊢
  rintro (⟨h1, h2⟩ | ⟨h1, h2 | ⟨h2, h3⟩⟩)
  · simp at h2
  · rcases h with ⟨-, h4⟩ | ⟨h4, h5 | ⟨h5, h6⟩⟩
    · rw [h1] at h4; cases h4
    · omega
    · omega
  · rcases h with ⟨-, h4⟩ | ⟨h4, h5 | ⟨h5, h6⟩⟩
    · rw [h1] at h4; cases h4
    · omega
    · omega

/-- The blocks of one frame that has none filled, from a block on, are the next to send. -/
theorem next_blk (s : State) (i : Fin 16) (j : Job) (f : Nat) (hw : ∀ b, s.wants i j (blk f b)) :
    ∀ n b ok, b + n < 16 → ok (blk f b) → (∀ r, ok r → ¬r.before (blk f b)) →
      s.nextBlocks i j ok ((List.range' b n).map (blk f)) (some (blk f (b + n)))
  | 0, b, _, _, h, hf => ⟨hw b, h, fun p _ hp => hf p hp⟩
  | n + 1, b, _, hb, h, hf =>
    ⟨⟨hw b, h, fun p _ hp => hf p hp⟩, by
      have := next_blk s i j f hw n (b + 1) (blk f b).before (by omega)
        (.inr ⟨rfl, .inr ⟨rfl, by
          show (Fin.ofNat 16 b).val < (Fin.ofNat 16 (b + 1)).val
          simp only [Fin.ofNat]
          rw [Nat.mod_eq_of_lt (by omega), Nat.mod_eq_of_lt (by omega)]
          omega⟩⟩)
        (fun r hr => before_blk (by omega) hr)
      rwa [show b + 1 + n = b + (n + 1) by omega] at this⟩

/-- A job at block 0 of a frame with none filled sends as many blocks as there are ids free. -/
theorem sends_blk (s : State) (i : Fin 16) (j : Job) (f n : Nat) (hp : j.position = some (blk f 0)) (h2 : j.second = none)
    (hf : j.first.has f) (hs : s.frame f = .scrubbing i) (ht : j.tally = []) (hn : s.freeIds.length = n)
    (h1 : n ≠ 0) (hl : n < 16) : s.Sends i j ((List.range' 0 n).map (blk f)) (some (blk f n)) := by
  have hw : ∀ b, s.wants i j (blk f b) := fun b =>
    ⟨by simpa [Job.names, blk] using hf, hs, by
      show (j.filled f)[Fin.ofNat 16 b] = false
      simp [Job.filled, ht, noneOf]⟩
  refine ⟨by simpa using h1, ⟨_, hp, (hw 0).1, ?_⟩, by simp [h2], .inl (by simp [hn])⟩
  have := next_blk s i j f hw n 0 (fun b => ¬b.before (blk f 0)) (by omega) (by simp [Position.before])
    (fun r hr => hr)
  rwa [Nat.zero_add] at this

/-- s11 before its job has sent anything, with M in some state and the engine in some state. -/
def sFirst (st : LinkState) (e : Engine) : State :=
  { s11.setLink .mem (.fresh st) with
    scrub :=
      { s11.scrub with
        slots := s11.scrub.slots.set 0 (.active (job5 (some (blk 40 0)) [])), engine := e
        fills := Vector.replicate 4 none } }

theorem sFirst_sends (st : LinkState) (e : Engine) :
    (sFirst st e).Sends 0 (job5 (some (blk 40 0)) []) ((List.range' 0 4).map (blk 40)) (some (blk 40 4)) :=
  sends_blk _ _ _ 40 4 rfl rfl (by decide) rfl rfl rfl (by decide) (by decide)

/-! ### Links and ports -/

theorem witness_ParameterWordTrains :
    ({ State.reset with resetN := true }.resetN = true ∧ ({ State.reset with resetN := true }.link .mem).state = .down ∧
        State.reset.resetN = false ∧ (s0.link .mem).state ≠ .down) ∧
      ((s0Link (.agent 7) .training).link (.agent 7)).state = .training ∧ (3 : BitVec 4) ≠ roleOf (.agent 7) ∧
      (s0Link .sup .training).links.sup.state = .training ∧
      ((s0Link .mem .training).links.mem.state = .training ∧ (s0Link .mem .training).scrub.engine ≠ .running ∧
        (s0Link .mem .training).active = none) ∧
      ((sFirst .training .running).links.mem.state = .training ∧ (sFirst .training .running).scrub.engine = .running ∧
        (sFirst .training .running).active = some (0, job5 (some (blk 40 0)) []) ∧
        (sFirst .training .running).Sends 0 (job5 (some (blk 40 0)) []) ((List.range' 0 4).map (blk 40))
          (some (blk 40 4))) :=
  ⟨by decide, by decide, by decide, by decide, by decide, by decide, by decide, by decide, sFirst_sends ..⟩
theorem witness_LinkErrorsAreAlike :
    (s0.isUp (.agent 1) = true ∧ s0.isUp .sup = true ∧ s0.isUp .mem = true) ∧
      ((commandMessage (.join 1)).map Prod.fst = some (.agent 1) ∧
        (s0.setLink (.agent 1) ⟨.up, 0, []⟩).isUp (.agent 1) = true ∧
        ((s0.setLink (.agent 1) ⟨.up, 0, []⟩).link (.agent 1)).credits = 0) := by decide
theorem witness_LossOfALinkWithoutHoldings :
    { s0 with credit := 255 }.isUp .sup = true ∧
      (s0.isUp (.agent 4) = true ∧ (s0.port 4).state = .outside ∧ s0.isUp (.agent 2) = true ∧
        (s0.port 2).state = .waiting ∧ s0.mute) := by decide
theorem witness_LossOfTheMemoryLink :
    s11.isUp .mem = true ∧ s11.active = some (0, job5 (some ⟨false, 40, 4⟩) []) ∧
      s11.hasScrubbing 0 (job5 (some ⟨false, 40, 4⟩) []) = true ∧ ∀ t, s11.scrub.engine ≠ .suspending t := by
  exact ⟨by decide, by decide, by decide +kernel, fun t => nofun⟩
theorem witness_DisregardedWords :
    (s0.isUp (.agent 7) = false ∧ ((s0Link .sup .training).link .sup).state = .training ∧
        (s0.link (.agent 7)).state = .down) ∧
      s11.receives .mem ∧ (∀ f ∈ s11.fill 3, f.seq ≠ 4) ∧ ((0 : BitVec 8) ≠ 1 ∧ (0 : BitVec 8) ≠ 2) ∧
      s0.fill 0 = none := by decide
theorem witness_PortPostings :
    (s0.mute ∧ s0.outbox.any (Notice.isPortOf 4) = false) ∧
      ({ s0 with outbox := [.port 3 .down .linkLost 1, .port 4 .waiting .linkUp 255] }.mute ∧
        { s0 with outbox := [.port 3 .down .linkLost 1, .port 4 .waiting .linkUp 255] }.outbox =
          [.port 3 .down .linkLost 1] ++ .port 4 .waiting .linkUp 255 :: [] ∧
        ([Notice.port 3 .down .linkLost 1] ++ []).any (Notice.isPortOf 4) = false) ∧
      ({ s0 with credit := 1 }.isUp .sup = true ∧ 0 < { s0 with credit := 1 }.credit ∧
        { s0 with credit := 1 }.outbox = []) := by decide
theorem witness_AdmitAndFence :
    (s0.serves 255 ∧ (s0.port 2).state = .waiting ∧ s0.isUp (.agent 2) = true) ∧ (s0.port 1).state ≠ .waiting ∧
      (s0.port 4).state = .outside ∧ (s0.port 7).state = .down := by decide
theorem witness_DeparturesEmptyThePort :
    (s8.port 3).state = .admitted ∧ s8.receives (.agent 3) ∧ s8.serves 10 ∧ s8.isUp (.agent 3) = true ∧
      ((s6.port 1).state = .admitted ∧ s6.receives (.agent 1) ∧ s6.serves 10 ∧ s6.outwaited 1) := by decide +kernel
theorem witness_NotAdmittedRequests :
    (s0.receives (.agent 4) ∧ (s0.port 4).state ≠ .admitted ∧ (s0.port 4).state = .outside) ∧
      s0.receives (.agent 2) ∧ (s0.port 2).state ≠ .admitted ∧ (s0.port 2).state = .waiting := by decide

/-! ### Lookups and slots -/

theorem witness_LookupsPark :
    (s6.hears 3 ∧ (5 : BitVec 16).toNat < 4096 ∧ Rights.read ≠ .none ∧ (s6.port 3).tags[(3 : Fin 4)] = false ∧
        (s6.window 5).live ≠ none ∧ s6.condition 5 = .inRecall ∧ s6.park.length < 16) ∧
      ({ s6 with park := List.replicate 16 ⟨1, 0, 5, .read⟩ }.condition 5 = .inRecall ∧
        16 ≤ { s6 with park := List.replicate 16 ⟨1, 0, 5, .read⟩ }.park.length) := by decide +kernel
theorem witness_LookupRefusals :
    (s8.hears 3 ∧ (2 : BitVec 8) = BitVec.ofNat 8 (2 : Fin 4) ∧ (s8.port 3).tags[(2 : Fin 4)] = true) ∧
      (∀ t : Fin 4, (4 : BitVec 8) = BitVec.ofNat 8 t → (s8.port 3).tags[t] = false) ∧
      (∀ t : Fin 4, (3 : BitVec 8) = BitVec.ofNat 8 t → (s8.port 3).tags[t] = false) ∧
      ((s8.window 4095).live = none ∧ (4095 : BitVec 16).toNat < 4096) ∧
      (s5.hears 3 ∧ live5 ∈ (s5.window 5).live ∧ s5.condition 5 ≠ .inRecall ∧ live5.rights[(3 : AgentId)] ≠ .readWrite) := by
  decide +kernel
theorem witness_LookupsInstall :
    s1.hears 3 ∧ (5 : BitVec 16).toNat < 4096 ∧ Rights.read ≠ .none ∧ (s1.port 3).tags[(3 : Fin 4)] = false ∧
      s1.grants 3 5 .read live5 ∧ (∀ j, ∀ h ∈ s1.held 3 j, h.window ≠ 5) ∧ (0 : Fin 64) = (s1.table 3).pointer + 0 ∧
      s1.held 3 0 = none ∧ ∀ n < (0 : Fin 64), s1.held 3 ((s1.table 3).pointer + n) ≠ none := by decide +kernel

/-- Agent 3 with slots 63 and 0 HELD, the pointer at 63: the next EMPTY slot is 1. -/
def sWrap : State :=
  { s1 with
    tables := s1.tables.set 3
      { SlotTable.initial with
        slots := ((Vector.replicate 64 none).set 63 (some ⟨9, .read, .shared⟩)).set 0 (some ⟨8, .read, .shared⟩)
        pointer := 63 } }

/-- The slot search wraps past 63. -/
theorem witness_LookupsInstall_wrap :
    s1.grants 3 5 .read live5 ∧ (∀ j, ∀ h ∈ sWrap.held 3 j, h.window ≠ 5) ∧ (1 : Fin 64) = (sWrap.table 3).pointer + 2 ∧
      sWrap.held 3 1 = none ∧ ∀ n < (2 : Fin 64), sWrap.held 3 ((sWrap.table 3).pointer + n) ≠ none := by decide +kernel
theorem witness_LookupsRefresh :
    s5.hears 1 ∧ (s5.port 1).tags[(0 : Fin 4)] = false ∧ s5.grants 1 5 .readWrite live5 ∧
      s5.held 1 0 = some ⟨5, .readWrite, .shared⟩ ∧ (∀ j, ∀ k ∈ s5.held 1 j, k.window = 5 → j = 0) ∧
      Rights.readWrite ≠ .none := by decide +kernel

/-- Agent 1 with 64 HELD slots and its pointer at 63. -/
def sFull : State :=
  { s1 with
    tables := s1.tables.set 1
      { SlotTable.initial with
        slots := Vector.ofFn fun i : Fin 64 => some ⟨100 + i.val, .read, .shared⟩, pointer := 63 } }

theorem witness_LookupsEvict :
    sFull.hears 1 ∧ (sFull.port 1).tags[(0 : Fin 4)] = false ∧ sFull.grants 1 5 .readWrite live5 ∧
      (∀ i, sFull.held 1 i ≠ none) ∧ (∀ i, ∀ k ∈ sFull.held 1 i, k.window ≠ 5) ∧
      sFull.held 1 (sFull.table 1).pointer = some ⟨163, .read, .shared⟩ ∧ sFull.unawaited 1 := by decide +kernel
theorem witness_ReturnEmptiesASlot :
    (s5.hears 1 ∧ ⟨5, .readWrite, .shared⟩ ∈ s5.held 1 0 ∧ s5.unawaited 1) ∧ s5.held 1 63 = none ∧
      64 ≤ (64 : BitVec 9).toNat := by decide +kernel
theorem witness_FlushEmptiesTheTable : s5.hears 1 ∧ s5.unawaited 1 := by decide +kernel
theorem witness_SwitchDropsBound : s5.hears 1 ∧ s5.unawaited 1 ∧ 16 ≤ (16 : BitVec 9).toNat := by decide +kernel
theorem witness_ReleasedIsCountedOrStale :
    (s5.hears 1 ∧ ⟨5, .readWrite, .shared⟩ ∈ s5.held 1 0 ∧ (∀ j, ∀ k ∈ s5.held 1 j, k.window = 5 → j = 0) ∧
        (1 : BitVec 16) = (s5.window 5).generation ∧ 5 ∉ (s5.table 1).regranted ∧ s5.unawaited 1) ∧
      (∀ i, ∀ h ∈ s5.held 1 i, h.window ≠ 4095) ∧ 4096 ≤ (4096 : BitVec 16).toNat ∧
      (0 : BitVec 16) ≠ (s5.window 5).generation := by decide +kernel

/-- Agent 1's holding of window 5. -/
def hold5 : Holding := ⟨5, .readWrite, .shared⟩
/-- The agents 1 and 3. -/
def both13 : FinSet 8 := ((noneOf 8).set 1 true).set 3 true
/-- The agent 3. -/
def only3 : FinSet 8 := (noneOf 8).set 3 true

/-- s6 with agent 1's holding BOUND. -/
def s6Bound : State :=
  { s6 with tables := s6.tables.set 1 (recalledFirst ⟨5, .readWrite, .bound⟩) }

/-- Window 7, LIVE with room for agents 1 and 3. -/
def live7 : LiveFields := ⟨.shared, ⟨60, 1⟩, rights13 .read .read, false⟩

/-- A table with 64 holdings, its pointer on that of window 5 in slot 63. -/
def fullTable (r : Rights) : SlotTable :=
  { slots := Vector.ofFn fun i : Fin 64 => some ⟨if i = 63 then 5 else 100 + i.val, r, .shared⟩
    pointer := 63, recalled := [5], regranted := [] }

/-- A state with agent a's table full, window 5 at its pointer, and window 7 LIVE. -/
def sEvict (s : State) (a : AgentId) (r : Rights) : State :=
  (s.setWindow 7 ⟨1, some live7, none, noneOf 8⟩).setTable a (fullTable r)

/-- s6 and variants: a change that awaits agents 1 and 3, and each of the five forms of removal of agent 1's holding. -/
theorem witness_ARemovalIsARelease :
    (s6.hears 1 ∧ s6.held 1 0 = some hold5 ∧ (s6.window 5).pending = some 0 ∧ s6.entry 0 = some (entry11 both13) ∧
        (entry11 both13).state ≠ .held ∧ (entry11 both13).awaited[(1 : AgentId)] = true ∧ (3 : AgentId) ≠ 1 ∧
        (entry11 both13).awaited[(3 : AgentId)] = true) ∧
      (∃ u, s6.GivesBack 1 0 hold5 0 (entry11 both13) (.returnSlot 1 9 (BitVec.ofNat 9 (0 : Fin 64))) u) ∧
      (∃ u, s6.GivesBack 1 0 hold5 0 (entry11 both13) (.released 1 5 1) u) ∧
      (∃ u, s6.GivesBack 1 0 hold5 0 (entry11 both13) (.flush 1 9) u) ∧
      s6.outwaited 1 :=
  ⟨by decide +kernel, ⟨_, .inl ⟨9, rfl, rfl⟩⟩,
    ⟨_, .inr (.inl ⟨5, 1, rfl, rfl, by decide, by decide +kernel, by decide +kernel, by decide +kernel, rfl⟩)⟩,
    ⟨_, .inr (.inr (.inl ⟨9, rfl, by decide +kernel, rfl⟩))⟩, by decide +kernel⟩
theorem witness_ARemovalIsARelease_switch :
    (s6Bound.hears 1 ∧ s6Bound.held 1 0 = some ⟨5, .readWrite, .bound⟩ ∧ (s6Bound.window 5).pending = some 0 ∧
        s6Bound.entry 0 = some (entry11 both13) ∧ s6Bound.outwaited 1) ∧
      ∃ u, s6Bound.GivesBack 1 0 ⟨5, .readWrite, .bound⟩ 0 (entry11 both13)
        (.switch 1 9 (BitVec.ofNat 9 (15 : Fin 16))) u :=
  ⟨by decide +kernel, _, .inr (.inr (.inr (.inl ⟨9, 15, rfl, rfl, by decide +kernel, rfl⟩)))⟩
theorem witness_ARemovalIsARelease_evict :
    ((sEvict s6 1 .read).hears 1 ∧ (sEvict s6 1 .read).held 1 63 = some ⟨5, .read, .shared⟩ ∧
        ((sEvict s6 1 .read).window 5).pending = some 0 ∧ (sEvict s6 1 .read).entry 0 = some (entry11 both13)) ∧
      ∃ u, (sEvict s6 1 .read).GivesBack 1 63 ⟨5, .read, .shared⟩ 0 (entry11 both13)
        (.lookup 1 (BitVec.ofNat 8 (3 : Fin 4)) 7 Rights.read.code) u :=
  ⟨by decide +kernel, _, .inr (.inr (.inr (.inr ⟨3, 7, .read, live7, rfl, by decide, by decide, by decide +kernel,
    by decide +kernel, by decide +kernel, by decide +kernel, rfl, rfl⟩)))⟩

/-! ### Changes -/

theorem run_forall {b n : Nat} {P : Nat → Prop} (h : ∀ d < n, P (b + d)) : ∀ f, Run.has ⟨b, n⟩ f → P f := by
  rintro f ⟨h1, h2⟩
  have := h (f - b) (by dsimp only at h1 h2; omega)
  rwa [Nat.add_sub_cancel' h1] at this

/-- The agreement of pending changes and entries, read from the windows listed. -/
theorem pendingLaw_of {s : State} (h1 : ∀ e, ∀ x ∈ s.entry e, (s.window x.window).pending = some e)
    (h2 : ∀ p ∈ s.windows, ∀ e ∈ p.2.pending, ∃ x ∈ s.entry e, x.window = p.1) : PendingLaw s :=
  ⟨h1, fun w e h => by
    rcases sparseGet_mem Window.initial s.windows w with hd | hm
    · rw [State.window, hd] at h; cases h
    · exact h2 _ hm e h⟩

/-- The limits on entries and groups, with the states of each group's members told by cases. -/
theorem groupLaw_of {s : State} (h1 : ∀ e, ∀ x ∈ s.entry e, x.window < 4096 ∧ (s.window x.window).live ≠ none)
    (h2 : ∀ e, ∀ x ∈ s.entry e, x.group = none → x.state = .recalling)
    (h3 : ∀ e g, e ∈ (s.group g).members ↔ ∃ x ∈ s.entry e, x.group = some g)
    (h4 : ∀ g, (s.group g).members.length ≤ 8 ∧ (s.group g).members.Nodup)
    (h5 : ∀ g, (s.group g).state = .free ∧ (s.group g).members = [] ∨
      (s.group g).state = .opened ∧ (∀ e ∈ (s.group g).members, ∀ x ∈ s.entry e, x.state = .held) ∨
      (s.group g).state ≠ .free ∧ (s.group g).state ≠ .opened ∧
        (∀ e ∈ (s.group g).members, ∀ x ∈ s.entry e, x.state ≠ .held) ∧
        ∃ e ∈ (s.group g).members, ∃ x ∈ s.entry e, x.state ≠ .ready) : GroupLaw s := by
  refine ⟨h1, h2, h3, h4, fun g h => ?_, fun g h => ?_, fun g t h => ?_⟩ <;>
    rcases h5 g with ⟨k, h'⟩ | ⟨k, h'⟩ | ⟨k, k', h'⟩
  · exact h'
  · cases k.symm.trans h
  · exact absurd h k
  · cases k.symm.trans h
  · exact h'
  · exact absurd h k'
  · cases k.symm.trans h
  · cases k.symm.trans h
  · exact h'

/-- The state that a removal leaves, in the form of its RETURN. -/
def sReturned (s : State) (a : AgentId) (i : Fin 64) (h : Holding) (x : Entry) : State :=
  { s.without a i h 0 x with out := .onAgent a [.returned i true] }

/-- s8: the last awaited agent gives its holding back, with its own lookup parked. -/
theorem witness_TheLastReleaseApplies :
    (s8.hears 3 ∧ s8.parkSound ∧ s8.held 3 0 = some ⟨5, .read, .shared⟩ ∧ (s8.window 5).pending = some 0 ∧
        s8.entry 0 = some (entry11 only3) ∧ (∀ b : AgentId, (entry11 only3).awaited[b] = decide (b = 3)) ∧
        ∀ d, d ≠ 0 → ∀ y ∈ s8.entry d, y.awaited[(3 : AgentId)] = false) ∧
      s8.GivesBack 3 0 ⟨5, .read, .shared⟩ 0 (entry11 only3) (.returnSlot 3 9 (BitVec.ofNat 9 (0 : Fin 64)))
        (sReturned s8 3 0 ⟨5, .read, .shared⟩ (entry11 only3)) ∧
      (sReturned s8 3 0 ⟨5, .read, .shared⟩ (entry11 only3)).Applicable 0 ((entry11 only3).released 3 false) live5 ∧
      (∃ u, s8.GivesBack 3 0 ⟨5, .read, .shared⟩ 0 (entry11 only3) (.released 3 5 1) u) ∧
      ∃ u, s8.GivesBack 3 0 ⟨5, .read, .shared⟩ 0 (entry11 only3) (.flush 3 9) u :=
  ⟨by decide +kernel, .inl ⟨9, rfl, rfl⟩,
    ⟨by decide +kernel, by decide +kernel, by decide +kernel, by decide +kernel,
      by unfold ChangeKind.slotFits; decide +kernel, by decide +kernel⟩,
    ⟨_, .inr (.inl ⟨5, 1, rfl, rfl, by decide, by decide +kernel, by decide +kernel, by decide +kernel, rfl⟩)⟩,
    ⟨_, .inr (.inr (.inl ⟨9, rfl, by decide +kernel, rfl⟩))⟩⟩

/-- s8 with its entry a member of group 0, which is RECALLING, beside a member of window 6 that awaits agent 1 or is
READY. -/
def sGroup (ready : Bool) : State :=
  { s8 with
    windows :=
      [(5, ⟨1, some live5, some 0, only3⟩),
        (6, ⟨1, some ⟨.shared, ⟨50, 1⟩, rights13 .read .none, false⟩, some 1, (noneOf 8).set 1 true⟩)]
    park := []
    groups := s8.groups.set 0 ⟨.recalling 33, [0, 1]⟩
    entries := (s8.entries.set 0 (some { entry11 only3 with group := some 0 })).set 1 (some
      { entry11 (if ready then noneOf 8 else (noneOf 8).set 1 true) with
        tag := 12, window := 6, group := some 0, state := if ready then .ready else .recalling }) }

theorem witness_TheLastReleaseApplies_group :
    (∀ r : Bool, (sGroup r).hears 3 ∧ (sGroup r).parkSound ∧ (sGroup r).held 3 0 = some ⟨5, .read, .shared⟩ ∧
        ((sGroup r).window 5).pending = some 0 ∧ (sGroup r).entry 0 = some { entry11 only3 with group := some 0 } ∧
        0 ∈ ((sGroup r).group 0).members) ∧
      (∃ d ∈ ((sGroup false).group 0).members, d ≠ 0 ∧ ∀ y ∈ (sGroup false).entry d, y.state ≠ .ready) ∧
      (((sGroup true).group 0).state = .recalling 33 ∧ ((sGroup true).group 0).members.Nodup ∧ PendingLaw (sGroup true) ∧
        GroupLaw (sGroup true)) ∧
      ((sReturned (sGroup true) 3 0 ⟨5, .read, .shared⟩ { entry11 only3 with group := some 0 }).Applicable 0
          ({ entry11 only3 with group := some 0 } |>.released 3 false) live5 ∧
        (sReturned (sGroup true) 3 0 ⟨5, .read, .shared⟩ { entry11 only3 with group := some 0 }).Applicable 1
          { entry11 (noneOf 8) with tag := 12, window := 6, group := some 0, state := .ready }
          ⟨.shared, ⟨50, 1⟩, rights13 .read .none, false⟩) :=
  ⟨by decide +kernel, by decide +kernel, ⟨by decide +kernel, by decide +kernel,
      pendingLaw_of (by decide +kernel) (by decide +kernel),
      groupLaw_of (by decide +kernel) (by decide +kernel) (by decide +kernel) (by decide +kernel) (by decide +kernel)⟩,
    ⟨by decide +kernel, by decide +kernel, by decide +kernel, by decide +kernel,
      by unfold ChangeKind.slotFits; decide +kernel, by decide +kernel⟩,
    ⟨by decide +kernel, by decide +kernel, by decide +kernel, by decide +kernel,
      by unfold ChangeKind.slotFits; decide +kernel, by decide +kernel⟩⟩
theorem rights5_named : rightsNamed 0x0048 (rights13 .readWrite .read) := by unfold rightsNamed; decide
theorem rights11_named : rightsNamed 0x0004 (rights13 .read .none) := by unfold rightsNamed; decide
theorem rights_wide_named : rightsNamed 0x0088 (rights13 .readWrite .readWrite) := by unfold rightsNamed; decide
/-- 3 is no rights entry. -/
theorem rights_bad_unnamed : ¬∃ r, rightsNamed 0x0003 r := by
  rintro ⟨r, h⟩
  have := h 0
  revert this
  cases r[(0 : AgentId)] <;> decide

theorem witness_CreateMakesAWindow :
    (s0.serves 10 ∧ (4095 : BitVec 16).toNat < 4096 ∧ (252 : Word).toNat < 65536 ∧ 1 ≤ (4 : Word).toNat ∧
        (4 : Word).toNat ≤ 4096 ∧ (252 : Word).toNat + (4 : Word).toNat ≤ s0.frameCount ∧ (s0.window 4095).live = none) ∧
      rightsNamed 0x0048 (rights13 .readWrite .read) ∧ (∀ f, Run.has ⟨252, 4⟩ f → s0.frame f = .free) ∧
      (WindowClass.bound 7 15 = .bound 7 15 ∧ (7 : BitVec 8) = BitVec.ofNat 8 (7 : AgentId) ∧
        (15 : BitVec 8) = BitVec.ofNat 8 (15 : Fin 16)) :=
  ⟨by decide, rights5_named, fun _ _ => rfl, by decide⟩
/-- The refusals, each at a boundary of its condition. -/
theorem witness_CreateMakesAWindow_refused :
    (¬(4096 : BitVec 16).toNat < 4096 ∧ ¬(2 : BitVec 8).toNat ≤ 1 ∧ ¬∃ r, rightsNamed 0x0003 r) ∧
      (8 ≤ (8 : BitVec 8).toNat ∧ (7 : BitVec 8).toNat < 8 ∧ 16 ≤ (16 : BitVec 8).toNat ∧ (15 : BitVec 8).toNat < 16) ∧
      (65536 ≤ (65536 : Word).toNat ∧ (65535 : Word).toNat < 65536 ∧ ¬1 ≤ (0 : Word).toNat ∧
        ¬(4097 : Word).toNat ≤ 4096 ∧ ¬(253 : Word).toNat + (4 : Word).toNat ≤ s0.frameCount) ∧
      (s1.serves 10 ∧ (s1.window 5).live ≠ none ∧ (s1.window 6).live = none ∧ Run.has ⟨43, 1⟩ 43 ∧ s1.frame 43 ≠ .free) :=
  ⟨⟨by decide, by decide, rights_bad_unnamed⟩, by decide, by decide, by decide +kernel⟩
theorem witness_QueriesReport :
    (s6.serves 9 ∧ (5 : BitVec 16).toNat < 4096 ∧ (s6.window 5).pending = some 0 ∧ (s6.window 4095).pending = none ∧
        s6.entry 0 = some (entry11 (((noneOf 8).set 1 true).set 3 true)) ∧ s6.receives .sup ∧ s6.tagInUse 9 = false ∧
        (192 : Word).toNat + (64 : Word).toNat ≤ s6.frameCount) ∧
      ((4096 : BitVec 16).toNat = 4096 ∧ (8 : BitVec 9).toNat = 8 ∧ (65536 : Word).toNat = 65536 ∧
        (0 : Word).toNat < 1 ∧ 64 < (65 : Word).toNat ∧ s6.frameCount < (193 : Word).toNat + (64 : Word).toNat) ∧
      ∃ record : ScrubSlot → SlotReport, record .free = .free ∧ (∀ e, record (.reserved e) = .reserved e) ∧ ∀ j,
        record (.queued j) = .queued j.origin j.first j.second j.freed j.quarantined ∧
          record (.active j) = .active j.origin j.first j.second j.freed j.quarantined j.position ∧
          record (.ended j) = .ended j.origin j.first j.second j.freed j.quarantined :=
  ⟨by decide +kernel, by decide, ScrubSlot.report, rfl, fun _ => rfl, fun _ => ⟨rfl, rfl, rfl⟩⟩
theorem witness_RefusalsChangeNothing :
    s0.receives .sup ∧ (commandMessage (.retire 12 6 none)).map Prod.fst = some .sup ∧
      .refused 0x24 12 .noWindow ∈ (after (.retire 12 6 none) s0).out.sup := by decide
theorem witness_CommonChecks :
    (s0.receives (.agent 1) ∧ s0.receives .sup ∧ s0.receives .mem) ∧
      (commandMessage (.retire 12 6 none) = some (.sup, 0x24, 12, 0, [0x00060000]) ∧ (Instr.retire 12 6 none).wellFormed = true ∧
        bodyWords .sup 0x24 = some 1 ∧ s0.receives .sup) ∧
      ({ s0 with device := .unconfigured }.device = .unconfigured ∧ 0x24#8 ∉ [0x21#8, 0x2F#8, 0x32#8, 0x33#8]) ∧
      (s6.device ≠ .unconfigured ∧ s6.tagInUse 11 = true ∧ 0x24#8 ≠ 0x33#8) :=
  ⟨by decide, by decide, by decide, by decide +kernel⟩

/-- s1 with the engine SUSPENDED and a lookup of window 5 parked. -/
def sIdle : State :=
  { s1.setEngine .suspended with
    park := [⟨3, 2, 5, .read⟩], ports := s1.ports.set 3 { portIn .admitted with tags := (noneOf 4).set 2 true } }

theorem sIdle_held : ∀ a i, sIdle.held a i = none := by decide +kernel

/-- A CHANGE that moves window 5 within its run, so that a frame below and one above are scrubbed in slot 0. -/
theorem witness_ChangeAppliesAtOnce :
    (sIdle.serves 11 ∧ sIdle.parkSound ∧ SparseWf .free sIdle.frames ∧ sIdle.scrub.engine ≠ .idle) ∧
      sIdle.asks (.change 11 5 none none (some (41, 2)) none) 11 5 none (.change none (some ⟨41, 2⟩) none) ∧
      sIdle.Admits 5 (.change none (some ⟨41, 2⟩) none) live5 0 (some 0) ∧
      (∀ a i, ∀ h ∈ sIdle.held a i, h.window = 5 →
        ¬ChangeKind.hits (.change none (some ⟨41, 2⟩) none) live5 a h.rights) ∧
      ChangeKind.leaves (.change none (some ⟨41, 2⟩) none) live5 = [⟨40, 1⟩, ⟨43, 1⟩] :=
  ⟨by decide +kernel,
    ⟨none, some (41, 2), rfl, .inl ⟨rfl, rfl⟩, .inr ⟨41, 2, ⟨41, 2⟩, rfl, rfl, by unfold runNamed; decide⟩⟩,
    ⟨by decide +kernel, by decide +kernel, by decide +kernel,
      fun r hr => by cases hr; exact run_forall (by decide +kernel),
      by unfold ChangeKind.slotFits; decide +kernel, by decide +kernel⟩,
    (fun a i h hh => by rw [sIdle_held a i] at hh; cases hh), by decide⟩

theorem s5_held_first : ∀ a i, ∀ h ∈ s5.held a i, i = 0 := by decide +kernel
theorem s5_held_once : ∀ a i j, ∀ h ∈ s5.held a i, ∀ k ∈ s5.held a j, h.window = 5 → k.window = 5 → i = j :=
  fun a i j h hh k hk _ _ => (s5_held_first a i h hh).trans (s5_held_first a j k hk).symm

/-- A CHANGE to a run partly FREE, and a RETIRE of a window with its flag set, whose slot is RESERVED. -/
theorem witness_RecallStarts :
    (s5.serves 11 ∧ (∃ a : AgentId, both13[a] = true) ∧ ∀ a : AgentId, both13[a] = true → s5.isUp (.agent a) = true) ∧
      (s5.asks (.change 11 5 none (some 0x0004) (some (40, 5)) none) 11 5 none
          (.change (some (rights13 .read .none)) (some ⟨40, 5⟩) none) ∧
        s5.Admits 5 (.change (some (rights13 .read .none)) (some ⟨40, 5⟩) none) live5 0 none ∧
        s5.Affected 5 both13 (fun _ => 0) (ChangeKind.hits (.change (some (rights13 .read .none)) (some ⟨40, 5⟩) none) live5)) ∧
      s5.asks (.retire 11 5 none) 11 5 none .retire ∧ s5.Admits 5 .retire live5 0 (some 0) ∧
        s5.Affected 5 both13 (fun _ => 0) (ChangeKind.hits .retire live5) := by
  refine ⟨by decide +kernel, ⟨⟨_, _, rfl, .inr ⟨_, _, rfl, rfl, rights11_named⟩, .inr ⟨40, 5, ⟨40, 5⟩, rfl, rfl,
      by unfold runNamed; decide⟩⟩, ⟨by decide +kernel, by decide +kernel, by decide +kernel,
      fun r hr => by cases hr; exact run_forall (by decide +kernel),
      by unfold ChangeKind.slotFits; decide +kernel, by decide +kernel⟩, ⟨?_, ?_, s5_held_once⟩⟩, rfl,
    ⟨by decide +kernel, by decide +kernel, by decide +kernel, (fun r hr => by cases hr),
      by unfold ChangeKind.slotFits; decide +kernel, by decide +kernel⟩, ⟨?_, ?_, s5_held_once⟩⟩
  all_goals dsimp only [ChangeKind.hits]; decide +kernel

/-- s5 with group 3 OPEN and holding a number of members. -/
def s5Group (n : Nat) : State := { s5 with groups := s5.groups.set 3 ⟨.opened, List.replicate n 7⟩ }

/-- s1 with every entry of the Change Table, or every scrub slot, in use. -/
def sTaken (entries slots : Bool) : State :=
  { s1 with
    entries := if entries then Vector.replicate 16 (some { entry11 (noneOf 8) with window := 6 }) else s1.entries
    scrub := { s1.scrub with slots := if slots then Vector.replicate 16 (.ended (job5 none [])) else s1.scrub.slots } }

/-- The refusals, each at a boundary of its condition. -/
theorem witness_RecallStarts_refused :
    (¬(4096 : BitVec 16).toNat < 4096 ∧ 4 ≤ (4 : BitVec 8).toNat ∧ (3 : BitVec 8).toNat < 4 ∧ ¬∃ r, rightsNamed 0x0003 r) ∧
      (65536 ≤ (65536 : Word).toNat ∧ (0 : Word).toNat < 1 ∧ 4096 < (4097 : Word).toNat ∧
        s1.frameCount < (253 : Word).toNat + (4 : Word).toNat) ∧
      (s1.asks (.retire 11 6 none) 11 6 none .retire ∧ (s1.window 6).live = none) ∧
      (s6.serves 12 ∧ live5 ∈ (s6.window 5).live ∧ (s6.window 5).pending ≠ none) ∧
      ((s5Group 7).group 3).state = .opened ∧ ((s5Group 7).group 3).members.length < 8 ∧
      ((sTaken true false).serves 12 ∧ live5 ∈ ((sTaken true false).window 5).live ∧
        ((sTaken true false).window 5).pending = none ∧ ∀ e, (sTaken true false).entry e ≠ none) ∧
      (s1.asks (.change 12 5 none none (some (0, 256)) none) 12 5 none (.change none (some ⟨0, 256⟩) none) ∧
        s1.entry 0 = none ∧
        Run.has ⟨0, 256⟩ 255 ∧ { s1 with frames := [(255, .quarantined)] }.frame 255 ≠ .free ∧
        { s1 with frames := [(255, .quarantined)] }.frame 255 ≠ .bound 5) ∧
      ((sTaken false true).serves 12 ∧ live5 ∈ ((sTaken false true).window 5).live ∧ live5.scrub = true ∧
        ChangeKind.leaves .retire live5 ≠ [] ∧ ∀ i, (sTaken false true).slot i ≠ .free) :=
  ⟨⟨by decide, by decide, by decide, rights_bad_unnamed⟩, by decide, ⟨rfl, by decide⟩, by decide +kernel, by decide,
    by decide, by decide +kernel,
    ⟨⟨none, _, rfl, .inl ⟨rfl, rfl⟩, .inr ⟨0, 256, ⟨0, 256⟩, rfl, rfl, by unfold runNamed; decide⟩⟩,
      by decide, by decide, by decide, by decide⟩, by decide +kernel⟩

/-- s1 with window 5's scrub flag clear. -/
def s1Clear : State := { s1 with windows := [(5, ⟨1, some { live5 with scrub := false }, none, noneOf 8⟩)] }

theorem witness_RetireAppliesAtOnce :
    (s1Clear.serves 12 ∧ s1Clear.parkSound ∧ (s1Clear.window 5).live = some { live5 with scrub := false } ∧
        (s1Clear.window 5).pending = none ∧ s1Clear.nextEntry 0 ∧ ∀ a i, ∀ h ∈ s1Clear.held a i, h.window ≠ 5) ∧
      (sIdle.serves 12 ∧ sIdle.parkSound ∧ (sIdle.window 5).live = some live5 ∧ (sIdle.window 5).pending = none ∧
        sIdle.nextEntry 0 ∧ (∀ a i, ∀ h ∈ sIdle.held a i, h.window ≠ 5) ∧ sIdle.nextSlot 0 ∧ sIdle.scrub.engine ≠ .idle) ∧
      (s1.serves 12 ∧ s1.parkSound ∧ (s1.window 5).live = some live5 ∧ s1.nextEntry 0 ∧ s1.nextSlot 0 ∧
        (∀ a i, ∀ h ∈ s1.held a i, h.window ≠ 5) ∧ s1.scrub.engine = .idle ∧ s1.active = none ∧ s1.scrub.queue = [] ∧
        1 ≤ live5.run.count ∧ s1.isUp .mem = true) :=
  ⟨by decide +kernel, by decide +kernel, by decide +kernel⟩
/-- The job that the RETIRE of window 5 makes ACTIVE has four blocks to send. -/
theorem witness_RetireAppliesAtOnce_sends :
    (sFirst .up .running).Sends 0 (Job.start (.window 5) live5.run) ((List.range' 0 4).map (blk 40)) (some (blk 40 4)) :=
  sFirst_sends ..

theorem witness_MembersJoin :
    ((s5Group 7).serves 31 ∧ ((s5Group 7).group 3).state = .opened ∧ ((s5Group 7).group 3).members.length < 8) ∧
      (s5Group 7).asks (.retire 31 5 (some (BitVec.ofNat 8 (3 : Fin 4)))) 31 5 (some (BitVec.ofNat 8 (3 : Fin 4))) .retire ∧
      (s5Group 7).Admits 5 .retire live5 0 (some 0) ∧
      (s5.group 3).state ≠ .opened ∧ (s5.window 5).live ≠ none ∧ (s5.window 5).pending = none ∧
      8 ≤ ((s5Group 8).group 3).members.length :=
  ⟨by decide +kernel, rfl, ⟨by decide +kernel, by decide +kernel, by decide +kernel, (fun r hr => by cases hr),
      by unfold ChangeKind.slotFits; decide +kernel, by decide +kernel⟩,
    by decide +kernel, by decide +kernel, by decide +kernel, by decide +kernel⟩

/-- s8 with agent 3's parked lookup asking for more than its entry. -/
def sDenied : State := { s8 with park := [⟨3, 2, 5, .readWrite⟩] }

theorem witness_AbandonDropsTheChange :
    (s8.serves 12 ∧ s8.entry 0 = some (entry11 only3) ∧ (∀ d, ∀ y ∈ s8.entry d, y.tag = 11 → d = 0) ∧
        s8.parkSound ∧ SparseWf .free s8.frames) ∧
      (sDenied.serves 12 ∧ sDenied.parkSound ∧ live5 ∈ (sDenied.window 5).live ∧
        ∀ p ∈ sDenied.park, p.window = 5 → sDenied.isUp (.agent p.agent) = true ∧
          (live5.cls.allows p.agent (sDenied.port p.agent).context = false ∨
            p.rights.exceeds live5.rights[p.agent] = true)) ∧
      ((sGroup true).serves 13 ∧ (sGroup true).entry 1 =
          some { entry11 (noneOf 8) with tag := 12, window := 6, group := some 0, state := .ready } ∧
        (∀ d, ∀ y ∈ (sGroup true).entry d, y.tag = 12 → d = 1)) ∧
      ((∀ d, ∀ y ∈ (sGroup true).entry d, y.tag ≠ 33) ∧ ((sGroup true).group 0).state = .recalling 33) ∧
      (∀ d, ∀ y ∈ s6.entry d, y.tag ≠ 13) ∧ ∀ g, (s6.group g).state ≠ .recalling 13 := by decide +kernel
/-- The expiry of event 9: agent 3, with a lookup parked, is the only one awaited. -/
theorem witness_DeadlinePutsOutside :
    (∀ x ∈ s6.entry 15, x.deadline ≠ .running) ∧
      (entry11 (noneOf 8) ∈ { s6 with entries := s6.entries.set 15 (some (entry11 (noneOf 8))) }.entry 15 ∧
        ∀ a : AgentId, (entry11 (noneOf 8)).awaited[a] = false) ∧
      (entry11 only3 ∈ s8.entry 0 ∧ (entry11 only3).deadline = .running ∧
        ∀ a : AgentId, (entry11 only3).awaited[a] = true → (s8.port a).state = .admitted ∧ s8.isUp (.agent a) = true) ∧
      (s8.mute ∧ s8.parkSound ∧ (entry11 only3).group = none ∧ (entry11 only3).state ≠ .held ∧
        (s8.window 5).pending = some 0 ∧ (∃ a : AgentId, (entry11 only3).awaited[a] = true) ∧
        ∀ a : AgentId, (entry11 only3).awaited[a] = true →
          (∃ i, ∃ h ∈ s8.held a i, h.window = 5) ∧ ∀ d, d ≠ 0 → ∀ y ∈ s8.entry d, y.awaited[a] = false) ∧
      s8.Applicable 0 (entry11 only3) live5 :=
  ⟨by decide +kernel, by decide +kernel, by decide +kernel, by decide +kernel,
    ⟨by decide +kernel, by decide +kernel, by decide +kernel, by decide +kernel,
      by unfold ChangeKind.slotFits; decide +kernel, by decide +kernel⟩⟩

/-! ### Groups -/

theorem witness_GroupOpens :
    (s0.serves 30 ∧ 4 ≤ (4 : BitVec 9).toNat ∧ (s0.group 3).state = .free ∧ ((s5Group 0).group 3).state ≠ .free) ∧
      (State.receives { s0 with device := .unconfigured } .sup ∧ { s0 with device := .unconfigured }.isServing = false) ∧
      (s6.isServing = true ∧ s6.tagInUse 11 = true) := by decide +kernel

/-- Group 0 OPEN with two members, of which the one of window 5 will await agents or none. -/
def sCommit (r : RightsSet) : State :=
  { s5 with
    windows :=
      [(5, ⟨1, some live5, some 0, both13⟩), (6, ⟨1, some ⟨.shared, ⟨50, 1⟩, rights13 .read .none, false⟩, some 1, noneOf 8⟩)]
    groups := s5.groups.set 0 ⟨.opened, [0, 1]⟩
    entries := (s5.entries.set 0 (some
      { entry11 (noneOf 8) with
        kind := .change (some r) none none, group := some 0, state := .held, deadline := .stopped })).set 1 (some
      { entry11 (noneOf 8) with tag := 12, window := 6, group := some 0, state := .held, deadline := .stopped })
    tags := [11, 12] }

theorem witness_GroupCommits :
    (s5.serves 33 ∧ 4 ≤ (4 : BitVec 9).toNat ∧ (s5.group 3).state ≠ .opened ∧ (s5Group 0).serves 33 ∧
        ((s5Group 0).group 3).state = .opened ∧ ((s5Group 0).group 3).members = []) ∧
      ((sCommit (rights13 .read .none)).serves 33 ∧ ((sCommit (rights13 .read .none)).group 0).state = .opened ∧
        (∀ d ∈ ((sCommit (rights13 .read .none)).group 0).members, (sCommit (rights13 .read .none)).entry d ≠ none) ∧
        (∃ d ∈ ((sCommit (rights13 .read .none)).group 0).members, ∃ x ∈ (sCommit (rights13 .read .none)).entry d,
          ∃ a : AgentId, ((sCommit (rights13 .read .none)).affectedAgents x.kind x.window)[a] = true) ∧
        (∀ a i, ∀ h ∈ (sCommit (rights13 .read .none)).held a i, (0 : Fin 64) = i) ∧
        ∀ a : AgentId, both13[a] = true → (sCommit (rights13 .read .none)).isUp (.agent a) = true) ∧
      ((sCommit (rights13 .readWrite .read)).group 0 = ⟨.opened, [0, 1]⟩ ∧
        (sCommit (rights13 .readWrite .read)).parkSound ∧
        ((sCommit (rights13 .readWrite .read)).group 0).members.Nodup) :=
  ⟨by decide +kernel, ⟨by decide +kernel, by decide +kernel, by decide +kernel, by decide +kernel, by decide +kernel,
    by decide +kernel⟩, by decide +kernel⟩
theorem witness_GroupCommits_applies :
    (PendingLaw (sCommit (rights13 .readWrite .read)) ∧ GroupLaw (sCommit (rights13 .readWrite .read))) ∧
      ∀ d ∈ ((sCommit (rights13 .readWrite .read)).group 0).members, ∃ x l,
        (sCommit (rights13 .readWrite .read)).Applicable d x l ∧ x.state = .held ∧
          ∀ a i, ∀ h ∈ (sCommit (rights13 .readWrite .read)).held a i, h.window = x.window → ¬x.kind.hits l a h.rights := by
  refine ⟨⟨pendingLaw_of (by decide +kernel) (by decide +kernel), groupLaw_of (by decide +kernel) (by decide +kernel)
    (by decide +kernel) (by decide +kernel) (by decide +kernel)⟩, fun d hd => ?_⟩
  have hd : d ∈ [0, 1] := hd
  simp only [List.mem_cons, List.not_mem_nil, or_false] at hd
  rcases hd with rfl | rfl
  · refine ⟨_, live5, ⟨rfl, by decide +kernel, by decide +kernel, by decide +kernel,
      by unfold ChangeKind.slotFits; decide +kernel, by decide +kernel⟩, by decide, ?_⟩
    dsimp only [ChangeKind.hits]
    decide +kernel
  · refine ⟨_, ⟨.shared, ⟨50, 1⟩, rights13 .read .none, false⟩, ⟨rfl, by decide +kernel, by decide +kernel,
      by decide +kernel, by unfold ChangeKind.slotFits; decide +kernel, by decide +kernel⟩, by decide, fun a i h hh hw =>
      absurd hw ((by decide +kernel :
        ∀ a i, ∀ h ∈ (sCommit (rights13 .readWrite .read)).held a i, h.window ≠ 6) a i h hh)⟩
theorem witness_GroupAbandons :
    (s5.serves 33 ∧ 4 ≤ (4 : BitVec 9).toNat ∧ (s5.group 3).state = .free) ∧
      ((sCommit (rights13 .read .none)).serves 33 ∧ ((sCommit (rights13 .read .none)).group 0).state ≠ .free ∧
        (sCommit (rights13 .read .none)).park = [] ∧ SparseWf .free (sCommit (rights13 .read .none)).frames ∧
        ((sCommit (rights13 .read .none)).group 0).members.Nodup ∧
        ∀ d ∈ ((sCommit (rights13 .read .none)).group 0).members, (sCommit (rights13 .read .none)).entry d ≠ none) := by
  decide +kernel

/-- The RECALLING group 0 with agent 1's lookup for window 5 parked; agent 1's table is full and its pointer stands at
its holding of window 6, which the second member awaits. -/
def sRetake : State :=
  { (sGroup false).setTable 1
      { slots := Vector.ofFn fun i : Fin 64 => some ⟨if i = 63 then 6 else 100 + i.val, .read, .shared⟩
        pointer := 63, recalled := [6], regranted := [] } with
    park := [⟨1, 2, 5, .read⟩]
    ports := s0.ports.set 1 { portIn .admitted with tags := (noneOf 4).set 2 true } }

theorem witness_GroupAbandons_parked :
    sRetake.serves 40 ∧ (sRetake.group 0).state ≠ .free ∧ GroupLaw sRetake ∧ PendingLaw sRetake ∧ sRetake.parkSound ∧
      SparseWf .free sRetake.frames :=
  ⟨by decide +kernel, by decide +kernel, groupLaw_of (by decide +kernel) (by decide +kernel) (by decide +kernel)
      (by decide +kernel) (by decide +kernel), pendingLaw_of (by decide +kernel) (by decide +kernel), by decide +kernel,
    by decide +kernel⟩
/-- The GRANT that evicts the last holding awaited is no release inside the abandonment: both members are abandoned
(R97). -/
theorem test_group_abandon_evicts :
    (after (.groupAbandon 40 0) sRetake).out.agents[1] = [.grant 2 63 5 1 .shared ⟨40, 4⟩ .read (some 6)] ∧
      (after (.groupAbandon 40 0) sRetake).out.sup =
        [.done 11 .abandoned (some 1) (noneOf 8) none none, .done 12 .abandoned (some 1) (noneOf 8) none none,
          .done 33 .abandoned none (noneOf 8) none none, .plainDone 40] := by decide +kernel

/-! ### Scrubbing -/

/-- s0 with frame 40 QUARANTINED and the engine in some state, M in another. -/
def sBad (st : LinkState) (e : Engine) : State :=
  { s0.setLink .mem (.fresh st) with frames := [(40, .quarantined)], scrub := { s0.scrub with engine := e } }

/-- The state in which RESCRUB of frame 40 of `sBad` sends its first fills. -/
def sRescrub : State :=
  { s0 with
    frames := [(40, .scrubbing 0)]
    scrub := { s0.scrub with slots := s0.scrub.slots.set 0 (.active (Job.start .rescrub ⟨40, 1⟩)), engine := .running } }

theorem witness_RescrubQueues :
    (65536 ≤ (65536 : Word).toNat ∧ (65535 : Word).toNat < 65536 ∧ (0 : Word).toNat < 1 ∧ 4096 < (4097 : Word).toNat ∧
        s0.frameCount < (256 : Word).toNat + (1 : Word).toNat) ∧
      runNamed s0.frameCount 40 1 ⟨40, 1⟩ ∧
      ((sBad .up .suspended).serves 9 ∧ (∀ f, Run.has ⟨40, 1⟩ f → (sBad .up .suspended).frame f = .quarantined) ∧
        (sBad .up .suspended).nextSlot 0 ∧ (sBad .up .suspended).scrub.engine ≠ .idle) ∧
      ((sBad .down .idle).serves 9 ∧ (sBad .down .idle).scrub.engine = .idle ∧ (sBad .down .idle).active = none ∧
        (sBad .down .idle).scrub.queue = [] ∧ (sBad .down .idle).isUp .mem = false) ∧
      (Run.has ⟨41, 1⟩ 41 ∧ (sBad .up .idle).frame 41 ≠ .quarantined ∧ ∀ i, (sTaken false true).slot i ≠ .free) ∧
      sRescrub.Sends 0 (Job.start .rescrub ⟨40, 1⟩) ((List.range' 0 4).map (blk 40)) (some (blk 40 4)) :=
  ⟨by decide, by unfold runNamed; decide, ⟨by decide, run_forall (by decide), by decide, by decide⟩, by decide +kernel,
    by decide, sends_blk _ _ _ 40 4 rfl rfl (by decide) rfl rfl rfl (by decide) (by decide)⟩
theorem witness_SuspendScrub :
    (s0.serves 13 ∧ s0.scrub.engine = .idle) ∧
      (s11.serves 13 ∧ s11.scrub.engine = .running ∧ ∃ k, s11.fill k ≠ none) ∧
      (s11.setScrub { s11.scrub with fills := Vector.replicate 4 none }).scrub.engine = .running ∧
      (∀ k, (s11.setScrub { s11.scrub with fills := Vector.replicate 4 none }).fill k = none) ∧
      (sStop.scrub.engine = .suspending 13 ∧ sStop.fill 3 = some (fill40 3) ∧ (∀ k', k' ≠ 3 → sStop.fill k' = none) ∧
        sStop.receives .mem ∧ sStop.serves 14) ∧
      (s11.setEngine .suspended).scrub.engine = .suspended := by decide

/-- The state in which the job at the head of the queue becomes ACTIVE. -/
def sQueued (st : LinkState) : State :=
  { sFirst st .suspended with
    scrub :=
      { (sFirst st .suspended).scrub with
        slots := s11.scrub.slots.set 0 (.queued (job5 (some (blk 40 0)) [])), queue := [0] } }

theorem witness_ResumeScrub :
    (s0.serves 14 ∧ s0.scrub.engine = .idle) ∧
      ((s0.setEngine .suspended).active = none ∧ (s0.setEngine .suspended).scrub.queue = []) ∧
      ((s11.setEngine (.suspending 13)).active = some (0, job5 (some ⟨false, 40, 4⟩) []) ∧
        (s11.setEngine (.suspending 13)).hasScrubbing 0 (job5 (some ⟨false, 40, 4⟩) []) = true ∧
        ∀ k, (s11.setEngine (.suspending 13)).fill k ≠ none) ∧
      ((sFirst .up .suspended).serves 14 ∧ (sFirst .up .suspended).scrub.engine = .suspended ∧
        (sFirst .up .suspended).active = some (0, job5 (some (blk 40 0)) []) ∧
        (sFirst .up .suspended).Sends 0 (job5 (some (blk 40 0)) []) ((List.range' 0 4).map (blk 40)) (some (blk 40 4))) ∧
      ((sQueued .up).serves 14 ∧ (sQueued .up).scrub.engine = .suspended ∧ (sQueued .up).active = none ∧
        (sQueued .up).scrub.queue = 0 :: [] ∧ (sQueued .up).slot 0 = .queued (job5 (some (blk 40 0)) []) ∧
        (sQueued .up).isUp .mem = true) ∧
      ((sQueued .down).hasScrubbing 0 (job5 (some (blk 40 0)) []) = true ∧ (sQueued .down).isUp .mem = false) ∧
      (sFirst .up .running).Sends 0 (job5 (some (blk 40 0)) []) ((List.range' 0 4).map (blk 40)) (some (blk 40 4)) :=
  ⟨by decide, by decide, by decide +kernel, ⟨by decide, by decide, by decide, sFirst_sends ..⟩, by decide,
    by decide +kernel, sFirst_sends ..⟩
theorem witness_FillsMoveFrames : s11.fill 3 = some (fill40 3) ∧ s11.receives .mem := by decide

/-- The job of s11 SUSPENDING, with every block of frame 40 but block 3 filled, and a position past the frame. -/
def sLast (p : Option Position) : State :=
  { s11 with
    scrub :=
      { s11.scrub with
        slots := s11.scrub.slots.set 0 (.active (job5 p [(40, (Vector.replicate 16 true).set 3 false)]))
        engine := .suspending 13 } }

theorem witness_FillsCount :
    (s11.setEngine (.suspending 13)).fill 0 = some (fill40 0) ∧ (3 : Fin 4) ≠ 0 ∧
      (s11.setEngine (.suspending 13)).fill 3 ≠ none ∧ (s11.setEngine (.suspending 13)).scrub.engine ≠ .running ∧
      (s11.setEngine (.suspending 13)).scrubs (fill40 0) 0 (job5 (some ⟨false, 40, 4⟩) []) ∧
      (s11.setEngine (.suspending 13)).receives .mem ∧ ¬(job5 (some ⟨false, 40, 4⟩) []).lastBlock (fill40 0) := by
  decide +kernel
theorem witness_FillsCount_last :
    (sLast (some ⟨false, 41, 0⟩)).fill 3 = some (fill40 3) ∧ (sLast (some ⟨false, 41, 0⟩)).fill 0 ≠ none ∧
      (sLast (some ⟨false, 41, 0⟩)).scrubs (fill40 3) 0
        (job5 (some ⟨false, 41, 0⟩) [(40, (Vector.replicate 16 true).set 3 false)]) ∧
      (job5 (some ⟨false, 41, 0⟩) [(40, (Vector.replicate 16 true).set 3 false)]).lastBlock (fill40 3) ∧
      ∀ p ∈ some (⟨false, 41, 0⟩ : Position), p.frame ≠ (fill40 3).frame := by decide +kernel

/-- A job at block 0 of frame 41 with the fills of frame 40 in flight, after fill 0 has failed. -/
def sFailed : State :=
  { s11 with
    frames := sparseSet .free s11.frames 40 .quarantined
    scrub :=
      { s11.scrub with
        slots := s11.scrub.slots.set 0 (.active { job5 (some (blk 41 0)) [] with quarantined := 1 })
        fills := s11.scrub.fills.set 0 none } }

/-- After a failed fill a RUNNING engine sends the next block in the fill id that it left free. -/
theorem witness_FillsCount_sends :
    sFailed.scrub.engine = .running ∧ sFailed.isUp .mem = true ∧
      sFailed.Sends 0 { job5 (some (blk 41 0)) [] with quarantined := 1 } ((List.range' 0 1).map (blk 41))
        (some (blk 41 1)) :=
  ⟨rfl, by decide, sends_blk _ _ _ 41 1 rfl rfl (by decide) (by decide) rfl (by decide) (by decide) (by decide)⟩

/-- The last fill of the last SCRUBBING frame of a job, the engine RUNNING. -/
def sEnd : State :=
  { sLast none with
    frames := [(40, .scrubbing 0)]
    scrub := { (sLast none).scrub with engine := .running, fills := (Vector.replicate 4 none).set 3 (some (fill40 3)) } }

theorem witness_LastFillEndsTheJob :
    (sEnd.receives .mem ∧ sEnd.mute ∧ sEnd.fill 3 = some (fill40 3) ∧ (∀ k', k' ≠ 3 → sEnd.fill k' = none) ∧
        sEnd.scrub.engine = .running ∧ sEnd.scrub.queue = [] ∧
        sEnd.scrubs (fill40 3) 0 (job5 none [(40, (Vector.replicate 16 true).set 3 false)]) ∧
        (job5 none [(40, (Vector.replicate 16 true).set 3 false)]).lastBlock (fill40 3) ∧ SparseWf .free sEnd.frames) ∧
      (∀ i' j', sEnd.slot i' = .active j' → i' = 0) ∧
      ∀ g, g ≠ (fill40 3).frame → sEnd.frame g = .scrubbing 0 →
        (job5 none [(40, (Vector.replicate 16 true).set 3 false)]).covers g = false := by
  refine ⟨by decide +kernel, fun i' j' h => ?_, fun g hg h => ?_⟩
  · have key : ∀ i : Fin 16, i ≠ 0 → sEnd.slot i = .free := by decide +kernel
    by_contra hne
    rw [key i' hne] at h
    cases h
  · have : sEnd.frame g = .free := by
      have hg' : g ≠ 40 := hg
      simp [State.frame, sEnd, sparseGet, hg']
    rw [this] at h
    cases h

/-- The job that waits behind the one of `sEnd`, made ACTIVE. -/
def sNext : State :=
  { sEnd with
    frames := [(50, .scrubbing 1)]
    scrub :=
      { sEnd.scrub with
        slots := sEnd.scrub.slots.set 1 (.active (Job.start .rescrub ⟨50, 1⟩)), fills := Vector.replicate 4 none } }

theorem witness_LastFillEndsTheJob_next :
    sNext.Sends 1 (Job.start .rescrub ⟨50, 1⟩) ((List.range' 0 4).map (blk 50)) (some (blk 50 4)) :=
  sends_blk _ _ _ 50 4 rfl rfl (by decide) rfl rfl rfl (by decide) (by decide)
theorem witness_ConfigureServes :
    (s0.receives .sup ∧ s0.tagInUse 1 = false ∧ s0.device ≠ .unconfigured) ∧
      ({ s0 with device := .unconfigured }.device = .unconfigured ∧ 65536 < (65537 : Word).toNat ∧
        (65536 : Word).toNat ≤ 65536 ∧ (10000 : Word).toNat ≤ 10000 ∧ (100 : BitVec 8).toNat ≤ 100) ∧
      s0.scrub = { Scrub.initial with seq := 0 } ∧ s0.isUp .mem = true ∧ (s0Link .mem .down).isUp .mem = false := by decide
theorem witness_NoticeCreditDelivers :
    (s0.receives .sup ∧ s0.tagInUse 15 = false ∧ 255 < (256 : Word).toNat) ∧
      ((255 : Word).toNat ≤ 255 ∧ (s0.noticeN = true ↔ s0.outbox = [])) ∧
      ({ s0 with outbox := [.scrub 0 .rescrub ⟨40, 1⟩ none 1 0], noticeN := false }.noticeN = true ↔
        { s0 with outbox := [.scrub 0 .rescrub ⟨40, 1⟩ none 1 0], noticeN := false }.outbox = []) ∧
      min (s0.credit + (1 : Word).toNat) 255 = 1 := by decide
theorem witness_CascadeDepthSuffices : s8.awaits 15 = false ∧ (sGroup true).awaits 1 = false := by decide +kernel

/-! ### The laws -/

/-- s8 with a JOIN waiting in the receive buffer of link A4, a job of frame 50 ACTIVE in slot 2 with one fill in flight, a
job ENDED in slot 3 with its notice in the outbox, and a RETURN to come. -/
def sLaws : State :=
  { s8.setLink (.agent 4) ⟨.up, 7, [.join 4]⟩ with
    frames := boundTo 5 40 4 ++ [(50, .scrubbing 2)]
    scrub :=
      { s8.scrub with
        slots := (s8.scrub.slots.set 2 (.active { Job.start .rescrub ⟨50, 1⟩ with position := some (blk 50 1) })).set 3
          (.ended { Job.start .rescrub ⟨60, 1⟩ with position := none, freed := 1 })
        engine := .running, fills := (Vector.replicate 4 none).set 0 (some ⟨6, 50, 0⟩), seq := 7 }
    outbox := [.scrub 3 .rescrub ⟨60, 1⟩ none 1 0], noticeN := false
    behind := [.agent 4], pending := [.returnSlot 3 0 0] }

theorem links_forall {P : LinkId → Prop} (h : ∀ a, P (.agent a)) (hs : P .sup) (hm : P .mem) : ∀ l, P l
  | .agent a => h a
  | .sup => hs
  | .mem => hm

theorem sLaws_window (w : Nat) (h : w ≠ 5) : sLaws.window w = Window.initial := by
  show sparseGet Window.initial [(5, _)] w = _
  simp [sparseGet, h]
theorem sLaws_frame (f : Nat) :
    sLaws.frame f = if 40 ≤ f ∧ f < 44 then .bound 5 else if f = 50 then .scrubbing 2 else .free := by
  show sparseGet (.free : FrameState)
    [(40, .bound 5), (41, .bound 5), (42, .bound 5), (43, .bound 5), (50, .scrubbing 2)] f = _
  simp only [sparseGet]
  split_ifs <;> first | rfl | omega
theorem sLaws_held : ∀ a i, ∀ h ∈ sLaws.held a i, a = 3 ∧ i = 0 ∧ h = ⟨5, .read, .shared⟩ := by decide +kernel
theorem sLaws_entry : ∀ e, ∀ x ∈ sLaws.entry e, e = 0 ∧ x = entry11 only3 := by decide +kernel
theorem sLaws_slot : ∀ i, i ≠ 2 → i ≠ 3 → sLaws.slot i = .free := by decide +kernel
theorem sLaws_live : (sLaws.window 5).live = some live5 := by decide

theorem sLaws_ports : PortLaw sLaws :=
  ⟨by decide, by decide, links_forall (by decide) (by decide) (by decide), links_forall (by decide) nofun nofun,
    links_forall (by decide) nofun nofun⟩
theorem sLaws_emptyPorts : EmptyPortLaw sLaws := by unfold EmptyPortLaw; decide +kernel
theorem sLaws_outbox : OutboxLaw sLaws := ⟨by decide, by decide, by decide, by decide, by decide⟩
theorem sLaws_holders : HolderLaw sLaws := by
  refine ⟨fun a w => ⟨fun h => ?_, fun ⟨i, h, hh, hw⟩ => ?_⟩, fun a i j h k hh hk _ =>
    ((sLaws_held a i h hh).2.1).trans (sLaws_held a j k hk).2.1.symm⟩
  · by_cases hw : w = 5
    · subst hw
      have : ∀ a : AgentId, (sLaws.window 5).holders[a] = true → ∃ i, ∃ h ∈ sLaws.held a i, h.window = 5 := by decide +kernel
      obtain ⟨i, h, hh, hw⟩ := this a h
      exact ⟨i, h, hh, hw⟩
    · rw [sLaws_window w hw] at h
      exact absurd h ((by decide : ∀ a : AgentId, ¬Window.initial.holders[a] = true) a)
  · obtain ⟨rfl, rfl, rfl⟩ := sLaws_held a i h hh
    subst hw
    decide
theorem sLaws_pendingLaw : PendingLaw sLaws := pendingLaw_of (by decide +kernel) (by decide +kernel)
theorem sLaws_park : ParkLaw sLaws := ⟨by decide, by decide, by decide +kernel⟩
theorem sLaws_rights : RightsLaw sLaws := by
  intro a i h hh
  obtain ⟨rfl, rfl, rfl⟩ := sLaws_held a i h hh
  exact ⟨by decide, by decide, live5, sLaws_live, by decide, by decide, by decide⟩
theorem sLaws_groups : GroupLaw sLaws := by
  have hg : ∀ g, sLaws.group g = Group.initial := by decide +kernel
  refine ⟨by decide +kernel, by decide +kernel, by decide +kernel, by decide +kernel, by decide +kernel,
    fun g h => ?_, fun g t h => ?_⟩ <;> (rw [hg g] at h; cases h)
theorem sLaws_rounds : RoundLaw sLaws :=
  ⟨by decide +kernel, fun e a i x hx _ _ h hh _ _ _ => by
    obtain ⟨rfl, rfl⟩ := sLaws_entry e x hx
    obtain ⟨rfl, rfl, rfl⟩ := sLaws_held a i h hh
    decide, by decide +kernel, by decide +kernel, by decide +kernel⟩
theorem sLaws_frames : FrameLaw sLaws := by
  refine ⟨fun f w => ?_, fun f w => ⟨fun h => ?_, fun ⟨e, _, x, hx, r, hr, _⟩ => ?_⟩, fun f i h => ?_, fun f h => ?_,
    fun w l hl => ?_, fun e x hx r hr => ?_⟩
  · rw [sLaws_frame]
    by_cases hw : w = 5
    · subst hw
      rw [sLaws_live]
      simp only [Option.mem_def, Option.some.injEq, exists_eq_left']
      show _ ↔ 40 ≤ f ∧ f < 40 + 4
      split_ifs with h1 h2 <;> simp_all
    · rw [sLaws_window w hw]
      constructor
      · intro h; split_ifs at h; simp_all
      · rintro ⟨l, hl, -⟩; cases hl
  · rw [sLaws_frame] at h; split_ifs at h
  · obtain ⟨rfl, rfl⟩ := sLaws_entry e x hx
    cases hr
  · rw [sLaws_frame] at h
    split_ifs at h with h1 h2
    · cases h
      subst h2
      exact ⟨_, .inr rfl, .inl (by decide)⟩
  · rw [sLaws_frame] at h
    show f < 256
    split_ifs at h with h1 h2
    · omega
    · omega
    · exact absurd rfl h
  · by_cases hw : w = 5
    · subst hw; rw [sLaws_live] at hl; cases hl; decide
    · rw [sLaws_window w hw] at hl; cases hl
  · obtain ⟨rfl, rfl⟩ := sLaws_entry e x hx
    cases hr
theorem sLaws_scrub : ScrubLaw sLaws := by
  have hs : ∀ i j, sLaws.slot i = .queued j ∨ sLaws.slot i = .active j →
      i = 2 ∧ j = { Job.start .rescrub ⟨50, 1⟩ with position := some (blk 50 1) } := by
    intro i j h
    by_cases h2 : i = 2
    · subst h2; rcases h with h | h <;> cases h; exact ⟨rfl, rfl⟩
    · by_cases h3 : i = 3
      · subst h3; rcases h with h | h <;> cases h
      · rw [sLaws_slot i h2 h3] at h; rcases h with h | h <;> cases h
  have ha : sLaws.active = some (2, { Job.start .rescrub ⟨50, 1⟩ with position := some (blk 50 1) }) := by decide +kernel
  refine ⟨by decide +kernel, fun e x hx l hl => ?_, ⟨by decide, fun i => ⟨nofun, fun ⟨j, h⟩ => ?_⟩⟩,
    fun i k j j' h h' => ((hs i j (.inr h)).1).trans (hs k j' (.inr h')).1.symm, fun _ => by rw [ha]; simp, nofun,
    fun k f hf => ⟨_, _, ha, .inl ?_⟩, nofun, nofun, fun i j h => ?_, fun i o r q x y => ⟨fun h => ?_, fun ⟨j, h, hj⟩ => ?_⟩,
    by decide +kernel, nofun⟩
  · obtain ⟨rfl, rfl⟩ := sLaws_entry e x hx
    cases sLaws_live.symm.trans hl
    unfold ChangeKind.slotFits
    decide
  · obtain ⟨rfl, rfl⟩ := hs i j (.inl h)
    cases h
  · have : ∀ k, ∀ f ∈ sLaws.fill k, f = ⟨6, 50, 0⟩ := by decide +kernel
    rw [this k f hf]
    decide
  · obtain ⟨rfl, rfl⟩ := hs i j h
    exact ⟨by decide, nofun, fun p hp => by cases hp; unfold Job.names; decide⟩
  · rcases List.mem_singleton.mp h with h
    cases h
    exact ⟨_, rfl, rfl, rfl, rfl, rfl, rfl⟩
  · obtain ⟨rfl, rfl, rfl, rfl, rfl⟩ := hj
    by_cases h3 : i = 3
    · subst h3; cases h; exact List.mem_singleton.mpr rfl
    · by_cases h2 : i = 2
      · subst h2; cases h
      · rw [sLaws_slot i h2 h3] at h; cases h
theorem sLaws_canonical : Canonical sLaws := by
  refine ⟨by decide, by decide, by decide, by decide, by decide, fun i j h => ?_⟩
  have ht : j.tally = [] := by
    by_cases h2 : i = 2
    · subst h2; rcases h with h | h | h <;> cases h; rfl
    · by_cases h3 : i = 3
      · subst h3; rcases h with h | h | h <;> cases h; rfl
      · rw [sLaws_slot i h2 h3] at h; rcases h with h | h | h <;> cases h
  rw [ht]
  decide

/-- A state that meets every law, with a step from it: the premises of the laws that every step keeps. -/
theorem sLaws_laws : DeviceLaw sLaws ∧ ∃ t, step sLaws = .next t :=
  ⟨⟨sLaws_ports, sLaws_emptyPorts, sLaws_outbox, sLaws_holders, sLaws_pendingLaw, sLaws_park, sLaws_rights, sLaws_groups,
    sLaws_rounds, sLaws_frames, sLaws_scrub, sLaws_canonical⟩, _, rfl⟩
theorem witness_PortLawKept : PortLaw sLaws ∧ ∃ t, step sLaws = .next t := ⟨sLaws_ports, _, rfl⟩
theorem witness_EmptyPortLawKept : (PortLaw sLaws ∧ EmptyPortLaw sLaws) ∧ ∃ t, step sLaws = .next t :=
  ⟨⟨sLaws_ports, sLaws_emptyPorts⟩, _, rfl⟩
theorem witness_OutboxLawKept : (PortLaw sLaws ∧ OutboxLaw sLaws) ∧ ∃ t, step sLaws = .next t :=
  ⟨⟨sLaws_ports, sLaws_outbox⟩, _, rfl⟩
/-- Its other premise, met by the law of ports and links. -/
theorem witness_RefusalsChangeNothing_ports :
    sLaws.receives .sup ∧ PortLaw sLaws ∧ .refused 0x24 12 .noWindow ∈ (after (.retire 12 6 none) sLaws).out.sup :=
  ⟨by decide +kernel, sLaws_ports, by decide +kernel⟩
theorem witness_HolderLawKept : HolderLaw sLaws ∧ ∃ t, step sLaws = .next t := ⟨sLaws_holders, _, rfl⟩
theorem witness_PendingLawKept : PendingLaw sLaws ∧ ∃ t, step sLaws = .next t := ⟨sLaws_pendingLaw, _, rfl⟩
theorem witness_ParkLawKept : ParkLaw sLaws ∧ ∃ t, step sLaws = .next t := ⟨sLaws_park, _, rfl⟩
theorem witness_RightsLawKept : DeviceLaw sLaws ∧ ∃ t, step sLaws = .next t := sLaws_laws
theorem witness_RoundLawKept : DeviceLaw sLaws ∧ ∃ t, step sLaws = .next t := sLaws_laws
theorem witness_FrameLawKept : DeviceLaw sLaws ∧ ∃ t, step sLaws = .next t := sLaws_laws
theorem witness_ScrubLawKept : DeviceLaw sLaws ∧ ∃ t, step sLaws = .next t := sLaws_laws
theorem witness_CanonicalKept : Canonical sLaws ∧ ∃ t, step sLaws = .next t := ⟨sLaws_canonical, _, rfl⟩

end Sys2Proof.Tests
end

section
/-!
PROOFS of O53, that every step keeps the agreement of holder sets and slot tables (R29). The law reads of a state only
the holder sets and which window each slot names; two actions change these, the removal of a holding and the writing of
a new one, and each keeps the law. The rest follows the machine's definitions: the cascade by its induction
(`CascadeKeeps`), the Scrub Engine by `EngineOnly`, each command by its branches.
-/

namespace Sys2Proof.Machine

variable {s t : State}

/-! ## The law of holder sets and slot tables -/

/-- The window that slot i of agent a names, absent while the slot is EMPTY. -/
def State.names (s : State) (a : AgentId) (i : Fin 64) : Option Nat := (s.held a i).map Holding.window

theorem State.names_eq_some {a : AgentId} {i : Fin 64} {w : Nat} :
    s.names a i = some w ↔ ∃ h, s.held a i = some h ∧ h.window = w := by
  simp [State.names]

/-- Of a slot the law reads only which window it names. -/
theorem holderLaw_iff :
    HolderLaw s ↔
      (∀ a w, (s.window w).holders[a] = true ↔ ∃ i, s.names a i = some w) ∧
        ∀ a i j w, s.names a i = some w → s.names a j = some w → i = j := by
  simp only [State.names_eq_some]
  constructor
  · intro h
    refine ⟨h.agree, ?_⟩
    rintro a i j w ⟨x, hx, hxw⟩ ⟨y, hy, hyw⟩
    exact h.once a i j x y hx hy (hxw.trans hyw.symm)
  · rintro ⟨agree, once⟩
    exact ⟨agree, fun a i j x y hx hy hxy => once a i j _ ⟨x, hx, rfl⟩ ⟨y, hy, hxy.symm⟩⟩

theorem HolderLaw.of_same (h : HolderLaw s) (hw : ∀ w, (t.window w).holders = (s.window w).holders)
    (hn : ∀ a i, t.names a i = s.names a i) : HolderLaw t := by
  rw [holderLaw_iff] at h ⊢
  simpa only [hw, hn] using h

/-- The records that the law reads: the windows and the slot tables. -/
def State.records (s : State) : Sparse Window × Vector SlotTable 8 := (s.windows, s.tables)

/-- An action that writes no window record and no slot table keeps the law. -/
theorem HolderLaw.of_eq (h : HolderLaw s) (hr : t.records = s.records) : HolderLaw t := by
  obtain ⟨hw, ht⟩ := Prod.mk.inj hr
  exact h.of_same (fun w => by rw [State.window, hw]; rfl)
    fun a i => by simp only [State.names, State.held, State.table, ht]

theorem EngineOnly.holderLaw (e : EngineOnly s t) (h : HolderLaw s) : HolderLaw t :=
  h.of_eq (by rw [State.records, e.windows, e.tables]; rfl)

theorem State.setWindow_holderLaw (h : HolderLaw s) {w : Nat} {r : Window}
    (hr : r.holders = (s.window w).holders) : HolderLaw (s.setWindow w r) :=
  h.of_same (fun v => by rw [State.window_setWindow]; split <;> simp_all) fun _ _ => rfl

theorem State.setTable_holderLaw (h : HolderLaw s) {a : AgentId} {x : SlotTable}
    (hx : ∀ i : Fin 64, x.slots[i].map Holding.window = s.names a i) : HolderLaw (s.setTable a x) :=
  h.of_same (fun _ => rfl) fun b i => by
    simp only [State.names, State.held, State.table_setTable]
    split
    · subst_vars; exact hx i
    · rfl

/-- What the slots name once slot i of agent a is written. -/
theorem State.names_setTable {a : AgentId} {x : SlotTable} {i : Fin 64} {o : Option Holding}
    (hx : x.slots = (s.table a).slots.set i o) (b : AgentId) (j : Fin 64) :
    (s.setTable a x).names b j = if b = a ∧ j = i then o.map Holding.window else s.names b j := by
  simp only [State.names, State.held, State.table_setTable]
  by_cases hb : b = a
  · subst hb
    simp only [if_pos, hx, vector_get_set]
    by_cases hj : j = i <;> simp [hj]
  · simp [hb]

/-- A holding taken out of its slot while the agent leaves the window's holder set (R10): by R29 no other slot of the
agent names the window. -/
theorem HolderLaw.unhold (h : HolderLaw s) {a : AgentId} {i : Fin 64} {w : Nat} {x : SlotTable} {r : Window}
    (hi : s.names a i = some w) (hx : x.slots = (s.table a).slots.set i none)
    (hr : r.holders = (s.window w).holders.del a) : HolderLaw ((s.setTable a x).setWindow w r) := by
  obtain ⟨agree, once⟩ := holderLaw_iff.1 h
  have names : ∀ b j, ((s.setTable a x).setWindow w r).names b j = if b = a ∧ j = i then none else s.names b j :=
    State.names_setTable hx
  refine holderLaw_iff.2 ⟨fun b v => ?_, ?_⟩
  · rw [State.window_setWindow]
    by_cases hv : v = w
    · subst hv
      rw [if_pos rfl, hr, FinSet.get_del]
      by_cases hb : b = a
      · subst hb
        have : ∀ j, j ≠ i → s.names b j ≠ some v := fun j hj hjv => hj (once b j i v hjv hi)
        simp only [names]
        grind
      · simpa [names, hb] using agree b v
    · have : ¬(some w = some v) := by simpa using Ne.symm hv
      simp only [if_neg hv, State.setTable_window, agree, names]
      grind
  · simp only [names]
    grind

/-- A holding put in an EMPTY slot, where the agent holds the window nowhere else, while the agent enters the window's
holder set. -/
theorem HolderLaw.hold (h : HolderLaw s) {a : AgentId} {i : Fin 64} {y : Holding} {x : SlotTable} {r : Window}
    (hi : s.names a i = none) (hw : ∀ j, s.names a j ≠ some y.window)
    (hx : x.slots = (s.table a).slots.set i (some y))
    (hr : r.holders = (s.window y.window).holders.add a) : HolderLaw ((s.setTable a x).setWindow y.window r) := by
  obtain ⟨agree, once⟩ := holderLaw_iff.1 h
  have names : ∀ b j, ((s.setTable a x).setWindow y.window r).names b j =
      if b = a ∧ j = i then some y.window else s.names b j :=
    State.names_setTable hx
  refine holderLaw_iff.2 ⟨fun b v => ?_, ?_⟩
  · rw [State.window_setWindow]
    by_cases hv : v = y.window
    · subst hv
      rw [if_pos rfl, hr, FinSet.get_add]
      by_cases hb : b = a
      · simp only [names]
        grind
      · simpa [names, hb] using agree b y.window
    · simp only [if_neg hv, State.setTable_window, agree, names]
      grind
  · simp only [names]
    grind

/-! ## The Slot Mirror's actions -/

theorem State.report_holderLaw (h : HolderLaw s) (ab : Option (Fin 4)) (a : AgentId) (w : Nat) (d : Bool) :
    HolderLaw (s.report ab a w d) := by
  rcases s.report_cases ab a w d with hr | ⟨e, x, -, -, -, -, hr⟩ <;> rw [hr]
  · exact h
  · exact h.of_eq (by rfl)

theorem State.removeSlot_holderLaw (h : HolderLaw s) (ab : Option (Fin 4)) (a : AgentId) (d : Bool) (i : Fin 64) :
    HolderLaw (s.removeSlot ab a d i) := by
  cases hh : (s.table a).slots[i] with
  | none => rwa [State.removeSlot_empty hh]
  | some x =>
    rw [State.removeSlot_held hh]
    exact State.report_holderLaw (h.unhold (State.names_eq_some.2 ⟨x, hh, rfl⟩) rfl rfl) ab a x.window d

theorem State.removeWhere_holderLaw (h : HolderLaw s) (a : AgentId) (d : Bool) (pick : Holding → Bool) :
    HolderLaw (s.removeWhere a d pick) :=
  foldl_keeps (P := HolderLaw)
    (fun u i hu => by
      split
      · split
        · exact State.removeSlot_holderLaw hu none a d i
        · exact hu
      · exact hu)
    _ _ h

/-- A table is written without a change of its slots: the law reads no pointer and no recalled or regranted set. -/
theorem State.setTable_slots_holderLaw (h : HolderLaw s) {a : AgentId} {x : SlotTable}
    (hx : x.slots = (s.table a).slots) : HolderLaw (s.setTable a x) :=
  State.setTable_holderLaw h fun _ => by rw [hx]; rfl

theorem State.setPointer_holderLaw (h : HolderLaw s) (a : AgentId) (p : Fin 64) : HolderLaw (s.setPointer a p) :=
  State.setTable_slots_holderLaw h (by rfl)

theorem State.sendAgent_holderLaw (h : HolderLaw s) (a : AgentId) (m : AgentMsg) : HolderLaw (s.sendAgent a m) :=
  h.of_eq (by simp [State.records])

theorem State.sendGrant_holderLaw (h : HolderLaw s) (a : AgentId) (tag : Fin 4) (i : Fin 64) (w : Nat) (l : LiveFields)
    (r : Rights) (ev : Option Nat) : HolderLaw (s.sendGrant a tag i w l r ev) := by
  unfold State.sendGrant
  dsimp only
  split
  · exact State.sendAgent_holderLaw (State.setTable_slots_holderLaw h (by rfl)) a _
  · exact State.sendAgent_holderLaw h a _

theorem State.sendRecall_holderLaw (h : HolderLaw s) (w : Nat) (a : AgentId) : HolderLaw (s.sendRecall w a) := by
  unfold State.sendRecall
  dsimp only
  split
  · exact h
  · exact State.sendAgent_holderLaw (State.setTable_slots_holderLaw h (by rfl)) a _

/-- What the slots name after a removal: the slot is EMPTY and the others stay. -/
theorem State.names_removeSlot (ab : Option (Fin 4)) (a : AgentId) (d : Bool) (i j : Fin 64) :
    (s.removeSlot ab a d i).names a j = if j = i then none else s.names a j := by
  simp only [State.names, State.held, State.removeSlot_table, if_pos, vector_get_set]
  split <;> rfl

/-- An end of waiting that keeps the law. -/
def KeepsHolders (k : EndWait) : Prop := ∀ e s, HolderLaw s → HolderLaw (k e s)

theorem grant_holderLaw {k : EndWait} (hk : KeepsHolders k) (ab : Option (Fin 4)) (a : AgentId) (tag : Fin 4) (w : Nat)
    (r : Rights) (l : LiveFields) (h : HolderLaw s) : HolderLaw (grant k ab a tag w r l s) := by
  unfold grant
  dsimp only
  split
  · rename_i i hi
    obtain ⟨x, hx, -⟩ := SlotTable.naming_some hi
    rw [hx]
    refine State.sendGrant_holderLaw (State.setTable_holderLaw h fun j => ?_) ..
    simp only [vector_get_set]
    split
    · subst_vars; simp [State.names, State.held, hx]
    · rfl
  · rename_i hn
    have hw : ∀ j, s.names a j ≠ some w := fun j hj => by
      obtain ⟨x, hx, hxw⟩ := State.names_eq_some.1 hj
      exact SlotTable.naming_none.1 hn j x hx hxw
    refine endWaits_keeps hk _ _ (State.sendGrant_holderLaw ?_ ..)
    refine HolderLaw.hold (State.removeSlot_holderLaw h ab a false _) (i := (s.table a).choose)
      (y := { window := w, rights := r, cls := l.cls.name }) ?_ (fun j => ?_) rfl rfl
    · rw [State.names_removeSlot, if_pos rfl]
    · rw [State.names_removeSlot]
      split
      · simp
      · exact hw j

/-! ## Ends of changes -/

theorem answerLookup_holderLaw {k : EndWait} (hk : KeepsHolders k) (ab : Option (Fin 4)) (a : AgentId) (tag : Fin 4)
    (w : Nat) (r : Rights) (h : HolderLaw s) : HolderLaw (answerLookup k ab a tag w r s) := by
  unfold answerLookup
  split
  · exact State.sendAgent_holderLaw h ..
  · split
    · exact State.sendAgent_holderLaw h ..
    · exact grant_holderLaw hk ab a tag w r _ h

theorem retake_holderLaw {k : EndWait} (hk : KeepsHolders k) (ab : Option (Fin 4)) (w : Nat) (h : HolderLaw s) :
    HolderLaw (retake k ab w s) :=
  retake_keeps (P := HolderLaw) (fun _ _ h => h.of_eq (by rfl)) (fun _ _ _ h => h.of_eq (by rfl))
    (fun _ _ _ _ _ h => State.sendAgent_holderLaw h ..)
    (fun a tag w r l _ h => grant_holderLaw hk ab a tag w r l h) w s h

theorem State.finish_holderLaw (h : HolderLaw s) (tag : BitVec 8) (o : DoneOutcome) (g : Option (BitVec 16))
    (l : FinSet 8) (i : Option (Fin 16)) : HolderLaw (s.finish tag o g l i) :=
  (s.finish_engineOnly tag o g l i).holderLaw h

theorem State.applyParts_holderLaw (h : HolderLaw s) (e : Fin 16) (x : Entry) : HolderLaw (s.applyParts e x) := by
  unfold State.applyParts
  split
  · exact h
  · rename_i l _
    have h1 : HolderLaw (s.setWindow x.window (x.kind.applied (s.window x.window) l)) :=
      State.setWindow_holderLaw h (by rfl)
    obtain ⟨m, hm⟩ := (s.setWindow x.window (x.kind.applied (s.window x.window) l)).moveFrames_engineOnly x l
    have h2 := hm.holderLaw (h1.of_eq (by rfl))
    exact State.finish_holderLaw (h2.of_eq (by rfl)) ..

theorem State.closeGroup_holderLaw (h : HolderLaw s) (g : Fin 4) (o : DoneOutcome) (l : FinSet 8) :
    HolderLaw (s.closeGroup g o l) := by
  unfold State.closeGroup
  dsimp only
  split
  · exact (State.finish_holderLaw h ..).of_eq (by rfl)
  · exact h.of_eq (by rfl)

theorem cascadeKeeps_holderLaw (ab : Option (Fin 4)) : CascadeKeeps HolderLaw ab where
  retake _ hk w _ h := retake_holderLaw hk ab w h
  apply e x _ _ h := State.applyParts_holderLaw h e x
  ready _ _ _ _ h := h.of_eq (by rfl)
  close g o l _ h := State.closeGroup_holderLaw h g o l

theorem cascadeDepth_holderLaw (ab : Option (Fin 4)) (n : Nat) : KeepsHolders (cascadeDepth ab n) :=
  cascadeDepth_keeps (cascadeKeeps_holderLaw ab) n

theorem cascade_holderLaw : KeepsHolders cascade := cascadeDepth_holderLaw none _

theorem endWaits_cascade_holderLaw (s : State) (h : HolderLaw t) : HolderLaw (endWaits cascade s t) :=
  endWaits_keeps cascade_holderLaw s t h

theorem State.abandonParts_holderLaw (h : HolderLaw s) (e : Fin 16) (x : Entry) : HolderLaw (s.abandonParts e x) := by
  unfold State.abandonParts
  dsimp only
  have h1 : HolderLaw (s.setWindow x.window { s.window x.window with pending := none }) :=
    State.setWindow_holderLaw h (by rfl)
  refine State.finish_holderLaw ?_ ..
  split <;> exact h1.of_eq (by rfl)

theorem abandonMember_holderLaw (g : Fin 4) (e : Fin 16) (h : HolderLaw s) : HolderLaw (abandonMember g e s) := by
  unfold abandonMember
  split
  · exact h
  · exact retake_holderLaw (cascadeDepth_holderLaw _ _) _ _ (State.abandonParts_holderLaw h e _)

/-! ## Departures -/

theorem State.postPort_holderLaw (h : HolderLaw s) (a : AgentId) : HolderLaw (s.postPort a) :=
  h.of_eq (by simp [State.records])

theorem State.departParts_holderLaw (h : HolderLaw s) (a : AgentId) (st : PortState) (r : PortReason)
    (fenced posted : Bool) : HolderLaw (s.departParts a st r fenced posted) := by
  unfold State.departParts
  extract_lets port s1 s2 table s3 s4 tags s5 s6
  have h1 : HolderLaw s1 := h.of_eq (by rfl)
  have h2 : HolderLaw s2 := State.removeWhere_holderLaw h1 a true _
  clear_value s2
  have h3 : HolderLaw s3 := State.setTable_slots_holderLaw h2 (by rfl)
  have h5 : HolderLaw s5 := h3.of_eq (by rfl)
  have h6 : HolderLaw s6 := by
    unfold s6
    split
    · exact State.sendAgent_holderLaw h5 a _
    · exact h5
  split
  · exact State.postPort_holderLaw h6 a
  · exact h6

theorem State.depart_holderLaw (h : HolderLaw s) (a : AgentId) (st : PortState) (r : PortReason)
    (fenced posted : Bool) : HolderLaw (s.depart a st r fenced posted) :=
  endWaits_cascade_holderLaw s (State.departParts_holderLaw h a st r fenced posted)

/-! ## Links -/

theorem State.losePort_holderLaw (h : HolderLaw s) (a : AgentId) : HolderLaw (s.losePort a) := by
  unfold State.losePort
  split
  · exact h
  · exact State.depart_holderLaw h ..
  all_goals exact State.postPort_holderLaw (h.of_eq (by rfl)) a

theorem State.leaveUp_holderLaw (h : HolderLaw s) (l : LinkId) : HolderLaw (s.leaveUp l) := by
  cases l with
  | agent a => exact State.losePort_holderLaw h a
  | sup => exact h.of_eq (by rfl)
  | mem => exact s.loseMem_engineOnly.holderLaw h

theorem State.takeLinkError_holderLaw (h : HolderLaw s) (l : LinkId) : HolderLaw (s.takeLinkError l) :=
  State.leaveUp_holderLaw (h.of_eq (by rfl)) l

theorem State.takeCarrierLoss_holderLaw (h : HolderLaw s) (l : LinkId) : HolderLaw (s.takeCarrierLoss l) :=
  State.leaveUp_holderLaw (h.of_eq (by rfl)) l

theorem State.comeUp_holderLaw (h : HolderLaw s) (l : LinkId) : HolderLaw (s.comeUp l) := by
  have h1 : HolderLaw (s.setLink l (.fresh .up)) := h.of_eq (by rfl)
  cases l with
  | agent a => exact h1.of_eq (by rfl)
  | sup => exact h1
  | mem => exact (State.drive_engineOnly _).holderLaw h1

/-! ## Replies and the common checks -/

theorem State.sendSup_holderLaw (h : HolderLaw s) (m : SupMsg) : HolderLaw (s.sendSup m) :=
  (s.sendSup_engineOnly m).holderLaw h

theorem State.accept_holderLaw (h : HolderLaw s) (tag : BitVec 8) : HolderLaw (s.accept tag) :=
  State.sendSup_holderLaw (h.of_eq (by rfl)) _

theorem State.setPort_holderLaw (h : HolderLaw s) (a : AgentId) (p : Port) : HolderLaw (s.setPort a p) :=
  h.of_eq (by rfl)

theorem deliver_holderLaw (h : HolderLaw s) (o : List Notice) : HolderLaw (deliver o s) :=
  h.of_eq (by simp [State.records])

theorem request_holderLaw (h : HolderLaw s) (kind tag : BitVec 8) (exempt : Bool) {act : State → State}
    (hact : HolderLaw (act s)) : HolderLaw (request kind tag exempt act s) := by
  unfold request
  split
  · exact State.sendSup_holderLaw h _
  · split
    · exact State.sendSup_holderLaw h _
    · exact hact

theorem withAgent_holderLaw (h : HolderLaw s) (kind tag : BitVec 8) (agent : BitVec 9)
    {act : AgentId → State → State} (hact : ∀ a, HolderLaw (act a s)) : HolderLaw (withAgent kind tag agent act s) := by
  unfold withAgent
  split
  · exact State.sendSup_holderLaw h _
  · exact hact _

theorem withGroup_holderLaw (h : HolderLaw s) (kind tag : BitVec 8) (group : BitVec 9) {act : Fin 4 → State → State}
    (hact : ∀ g, HolderLaw (act g s)) : HolderLaw (withGroup kind tag group act s) := by
  unfold withGroup
  split
  · exact State.sendSup_holderLaw h _
  · exact hact _

/-! ## The agent's requests -/

theorem actLookup_holderLaw (h : HolderLaw s) (a : AgentId) (tag : BitVec 8) (window : BitVec 16) (rights : BitVec 2) :
    HolderLaw (actLookup a tag window rights s) := by
  unfold actLookup lookupChecks
  split
  · exact State.sendAgent_holderLaw h ..
  · split
    · exact State.sendAgent_holderLaw h ..
    · split
      · exact State.sendAgent_holderLaw h ..
      · unfold takeLookup
        split
        · split
          · exact h.of_eq (by rfl)
          · exact State.sendAgent_holderLaw h ..
        · exact answerLookup_holderLaw cascade_holderLaw none _ _ _ _ h

theorem actReleased_holderLaw (h : HolderLaw s) (a : AgentId) (window generation : BitVec 16) :
    HolderLaw (actReleased a window generation s) := by
  have hf : HolderLaw (s.forgetRecall a window.toNat) := State.setTable_slots_holderLaw h (by rfl)
  unfold actReleased takeReleased
  split
  · dsimp only
    split
    · exact hf
    · exact endWaits_cascade_holderLaw s (State.removeSlot_holderLaw hf none a false _)
  · exact h

theorem actReturn_holderLaw (h : HolderLaw s) (a : AgentId) (tag : BitVec 8) (slot : BitVec 9) :
    HolderLaw (actReturn a tag slot s) := by
  unfold actReturn
  split
  · exact State.sendAgent_holderLaw h ..
  · split
    · exact State.sendAgent_holderLaw h ..
    · exact endWaits_cascade_holderLaw s
        (State.sendAgent_holderLaw (State.removeSlot_holderLaw h none a false _) a _)

theorem actFlush_holderLaw (h : HolderLaw s) (a : AgentId) (tag : BitVec 8) : HolderLaw (actFlush a tag s) := by
  unfold actFlush
  split
  · exact State.sendAgent_holderLaw h ..
  · have h1 := State.removeWhere_holderLaw h a false fun _ => true
    exact endWaits_cascade_holderLaw s (State.sendAgent_holderLaw (State.setPointer_holderLaw h1 a 0) a _)

theorem actSwitch_holderLaw (h : HolderLaw s) (a : AgentId) (tag : BitVec 8) (context : BitVec 9) :
    HolderLaw (actSwitch a tag context s) := by
  unfold actSwitch
  split
  · exact State.sendAgent_holderLaw h ..
  · split
    · exact State.sendAgent_holderLaw h ..
    · have h1 := State.removeWhere_holderLaw h a false Holding.isBound
      exact endWaits_cascade_holderLaw s (State.sendAgent_holderLaw (State.setPort_holderLaw h1 a _) a _)

theorem actJoin_holderLaw (h : HolderLaw s) (a : AgentId) : HolderLaw (actJoin a s) := by
  unfold actJoin takeJoin
  split
  · exact h
  · exact h
  · exact State.postPort_holderLaw (h.of_eq (by rfl)) a
  · exact State.depart_holderLaw h ..

/-! ## CONFIGURE, CREATE and the scrub requests -/

theorem actConfigure_holderLaw (h : HolderLaw s) (tag : BitVec 8) (frameCount recallDeadline : Word)
    (initialScrub : Bool) (fillDeadline : BitVec 8) (pattern : Word) :
    HolderLaw (actConfigure tag frameCount recallDeadline initialScrub fillDeadline pattern s) := by
  refine request_holderLaw h _ _ _ ?_
  unfold takeConfigure
  split
  · exact State.sendSup_holderLaw h _
  · split
    · exact State.sendSup_holderLaw h _
    · refine State.sendSup_holderLaw ?_ _
      unfold State.configureWith
      dsimp only
      split
      · exact (State.enqueue_engineOnly _ _ _).holderLaw (h.of_eq (by rfl))
      · exact h.of_eq (by rfl)

theorem actCreate_holderLaw (h : HolderLaw s) (tag : BitVec 8) (window : BitVec 16) (cls : BitVec 8) (scrub : Bool)
    (boundAgent boundContext : BitVec 8) (rights : BitVec 16) (base count : Word) :
    HolderLaw (actCreate tag window cls scrub boundAgent boundContext rights base count s) := by
  refine request_holderLaw h _ _ _ ?_
  split
  · exact State.sendSup_holderLaw h _
  · rename_i w l _
    have h1 : HolderLaw (s.setWindow w
        { s.window w with live := some l, generation := (s.window w).generation + 1 }) :=
      State.setWindow_holderLaw h (by rfl)
    exact State.sendSup_holderLaw (h1.of_eq (by rfl)) _

theorem actSuspendScrub_holderLaw (h : HolderLaw s) (tag : BitVec 8) : HolderLaw (actSuspendScrub tag s) := by
  refine request_holderLaw h _ _ _ ?_
  unfold takeSuspend
  split
  · split
    · exact State.sendSup_holderLaw (h.of_eq (by rfl)) _
    · exact h.of_eq (by rfl)
  · exact State.sendSup_holderLaw (h.of_eq (by rfl)) _
  · exact State.sendSup_holderLaw h _
  · exact State.sendSup_holderLaw h _

theorem actResumeScrub_holderLaw (h : HolderLaw s) (tag : BitVec 8) : HolderLaw (actResumeScrub tag s) := by
  refine request_holderLaw h _ _ _ ?_
  unfold takeResume
  split
  · exact State.sendSup_holderLaw (s.resume_engineOnly.holderLaw h) _
  · exact State.sendSup_holderLaw ((State.resume_engineOnly _).holderLaw (State.finish_holderLaw h ..)) _
  all_goals exact State.sendSup_holderLaw h _

theorem actRescrub_holderLaw (h : HolderLaw s) (tag : BitVec 8) (base count : Word) :
    HolderLaw (actRescrub tag base count s) := by
  refine request_holderLaw h _ _ _ ?_
  unfold takeRescrub
  split
  · exact State.sendSup_holderLaw h _
  · split
    · exact State.sendSup_holderLaw h _
    · split
      · exact State.sendSup_holderLaw h _
      · exact State.sendSup_holderLaw ((State.enqueue_engineOnly _ _ _).holderLaw (h.of_eq (by rfl))) _

/-! ## Fills -/

theorem State.fillEnds_holderLaw (h : HolderLaw s) (k : Fin 4) (f : Fill) (ok : Bool) :
    HolderLaw (s.fillEnds k f ok) := by
  unfold State.fillEnds
  refine (State.afterFill_engineOnly _).holderLaw ?_
  split
  · exact h.of_eq (by rfl)
  · split
    · split
      · unfold State.countBlock
        dsimp only
        split <;> exact h.of_eq (by rfl)
      · exact h.of_eq (by rfl)
    · exact h.of_eq (by rfl)

theorem actFilled_holderLaw (h : HolderLaw s) (status : BitVec 8) (id : BitVec 2) (seq : BitVec 16) :
    HolderLaw (actFilled status id seq s) := by
  unfold actFilled takeFilled
  split
  · split
    · exact State.fillEnds_holderLaw h ..
    · exact h
  · exact h

/-! ## Changes -/

theorem State.startRecall_holderLaw (h : HolderLaw s) (e : Fin 16) (x : Entry) : HolderLaw (s.startRecall e x) :=
  foldl_keeps (P := HolderLaw) (fun _ a hu => State.sendRecall_holderLaw hu x.window a) _ _ (h.of_eq (by rfl))

theorem startStandalone_holderLaw (h : HolderLaw s) (e : Fin 16) : HolderLaw (startStandalone e s) := by
  unfold startStandalone
  split
  · exact h
  · split
    · exact applyEntry_keeps (cascadeKeeps_holderLaw none) cascade_holderLaw e s h
    · exact State.accept_holderLaw (State.startRecall_holderLaw h ..) _

theorem State.reserveRun_holderLaw (h : HolderLaw s) (w : Nat) (k : ChangeKind) : HolderLaw (s.reserveRun w k) := by
  unfold State.reserveRun
  split
  · exact h.of_eq (by rfl)
  · exact h

theorem State.acceptParts_holderLaw (h : HolderLaw s) (tag : BitVec 8) (q : ChangeRequest) (e : Fin 16)
    (slot : Option (Fin 16)) : HolderLaw (s.acceptParts tag q e slot) := by
  unfold State.acceptParts
  extract_lets x s1 r s2
  have h1 : HolderLaw s1 := h.of_eq (by rfl)
  have h2 : HolderLaw s2 := State.reserveRun_holderLaw (State.setWindow_holderLaw h1 (by rfl)) ..
  split
  · exact h2
  · exact h2.of_eq (by rfl)

theorem takeChange_holderLaw (h : HolderLaw s) (kind tag : BitVec 8) (q : Except Reason ChangeRequest) :
    HolderLaw (takeChange kind tag q s) := by
  unfold takeChange
  split
  · exact State.sendSup_holderLaw h _
  · split
    · exact State.sendSup_holderLaw h _
    · have h1 := State.acceptParts_holderLaw h tag ‹ChangeRequest› ‹Fin 16› ‹Option (Fin 16)›
      dsimp only
      split
      · exact State.accept_holderLaw (h1.of_eq (by rfl)) _
      · exact startStandalone_holderLaw h1 _

theorem takeAbandon_holderLaw (h : HolderLaw s) (tag target : BitVec 8) : HolderLaw (takeAbandon tag target s) := by
  unfold takeAbandon
  split
  · exact State.sendSup_holderLaw h _
  · split
    · exact h
    · split
      · exact State.sendSup_holderLaw h _
      · exact retake_holderLaw cascade_holderLaw none _
          (State.sendSup_holderLaw (State.abandonParts_holderLaw h ..) _)

theorem State.putOutside_holderLaw (h : HolderLaw s) (a : AgentId) : HolderLaw (s.putOutside a) := by
  unfold State.putOutside
  split
  · exact State.departParts_holderLaw h ..
  · exact h

theorem takeExpiry_holderLaw (h : HolderLaw s) (e : Fin 16) (x : Entry) : HolderLaw (takeExpiry e x s) :=
  endWaits_cascade_holderLaw s
    (foldl_keeps (P := HolderLaw) (fun _ a hu => State.putOutside_holderLaw hu a) _ _ (h.of_eq (by rfl)))

/-! ## Groups -/

theorem takeGroupOpen_holderLaw (h : HolderLaw s) (tag : BitVec 8) (g : Fin 4) : HolderLaw (takeGroupOpen tag g s) := by
  unfold takeGroupOpen
  split
  · exact State.sendSup_holderLaw (h.of_eq (by rfl)) _
  · exact State.sendSup_holderLaw h _

theorem startMember_holderLaw (h : HolderLaw s) (e : Fin 16) : HolderLaw (startMember e s) := by
  unfold startMember
  split
  · exact h
  · exact State.startRecall_holderLaw h ..

theorem commitGroup_holderLaw (h : HolderLaw s) (tag : BitVec 8) (g : Fin 4) : HolderLaw (commitGroup tag g s) := by
  unfold commitGroup
  extract_lets members s1 s2
  have h1 : HolderLaw s1 := foldl_keeps (P := HolderLaw) (fun _ e hu => startMember_holderLaw hu e) _ _ h
  clear_value s1
  have h2 : HolderLaw s2 := h1.of_eq (by rfl)
  split
  · exact applyGroup_keeps (cascadeKeeps_holderLaw none) cascade_holderLaw g s2 h2
  · exact State.accept_holderLaw h2 tag

theorem takeGroupCommit_holderLaw (h : HolderLaw s) (tag : BitVec 8) (g : Fin 4) :
    HolderLaw (takeGroupCommit tag g s) := by
  unfold takeGroupCommit
  split
  · exact State.sendSup_holderLaw h _
  · split
    · exact State.sendSup_holderLaw (h.of_eq (by rfl)) _
    · exact commitGroup_holderLaw h tag g

theorem takeGroupAbandon_holderLaw (h : HolderLaw s) (tag : BitVec 8) (g : Fin 4) :
    HolderLaw (takeGroupAbandon tag g s) := by
  unfold takeGroupAbandon
  split
  · exact State.sendSup_holderLaw h _
  · exact State.sendSup_holderLaw (State.closeGroup_holderLaw
      (foldl_keeps (P := HolderLaw) (fun _ e hu => abandonMember_holderLaw g e hu) _ _ h) ..) _

/-! ## Ports, credit and RESTART -/

theorem takeAdmit_holderLaw (h : HolderLaw s) (tag : BitVec 8) (a : AgentId) : HolderLaw (takeAdmit tag a s) := by
  unfold takeAdmit
  split
  · exact State.sendSup_holderLaw (State.sendAgent_holderLaw (h.of_eq (by rfl)) a _) _
  · exact State.sendSup_holderLaw h _

theorem takeFence_holderLaw (h : HolderLaw s) (tag : BitVec 8) (a : AgentId) : HolderLaw (takeFence tag a s) := by
  refine State.sendSup_holderLaw ?_ _
  split
  · exact State.depart_holderLaw h ..
  · exact State.sendAgent_holderLaw (h.of_eq (by rfl)) a _
  all_goals exact h

theorem actNoticeCredit_holderLaw (h : HolderLaw s) (tag : BitVec 8) (n : Word) :
    HolderLaw (actNoticeCredit tag n s) := by
  refine request_holderLaw h _ _ _ ?_
  unfold takeNoticeCredit
  split
  · exact State.sendSup_holderLaw h _
  · exact deliver_holderLaw (State.sendSup_holderLaw (h.of_eq (by rfl)) _) _

/-- With every record and every slot table as after RESET_N nobody holds anything. -/
theorem HolderLaw.of_reset (hr : s.records = State.reset.records) : HolderLaw s := by
  obtain ⟨hw, ht⟩ := Prod.mk.inj hr
  have names : ∀ a i, s.names a i = none := fun a i => by
    simp [State.names, State.held, State.table, ht, State.reset, SlotTable.initial]
  refine holderLaw_iff.2 ⟨fun a w => ?_, fun a i j w hi => ?_⟩
  · simp [names, State.window, hw, State.reset, Window.initial, noneOf]
  · simp [names] at hi

theorem actRestart_holderLaw (tag : BitVec 8) (s : State) : HolderLaw (actRestart tag s) := by
  refine State.sendSup_holderLaw (foldl_keeps (P := HolderLaw) (fun u a hu => ?_) _ _ (HolderLaw.of_reset (by rfl))) _
  split
  · exact hu
  · exact State.sendAgent_holderLaw hu a _

theorem actUnknownKindMessage_holderLaw (h : HolderLaw s) (l : LinkId) (kind tag : BitVec 8) (body : List Word) :
    HolderLaw (actUnknownKindMessage l kind tag body s) := by
  cases l with
  | agent a => exact State.sendAgent_holderLaw h ..
  | sup => exact State.sendSup_holderLaw h _
  | mem => exact h

/-! ## Reports -/

theorem actQueryWindow_holderLaw (h : HolderLaw s) (tag : BitVec 8) (window : BitVec 16) :
    HolderLaw (actQueryWindow tag window s) := by
  refine request_holderLaw h _ _ _ ?_
  split <;> exact State.sendSup_holderLaw h _

theorem actQueryAgent_holderLaw (h : HolderLaw s) (tag : BitVec 8) (agent : BitVec 9) :
    HolderLaw (actQueryAgent tag agent s) :=
  request_holderLaw h _ _ _ (withAgent_holderLaw h _ _ _ fun _ => State.sendSup_holderLaw h _)

theorem actQueryFrames_holderLaw (h : HolderLaw s) (tag : BitVec 8) (base count : Word) :
    HolderLaw (actQueryFrames tag base count s) := by
  refine request_holderLaw h _ _ _ ?_
  split <;> exact State.sendSup_holderLaw h _

theorem actQueryScrub_holderLaw (h : HolderLaw s) (tag : BitVec 8) : HolderLaw (actQueryScrub tag s) :=
  request_holderLaw h _ _ _ (State.sendSup_holderLaw (State.sendSup_holderLaw h _) _)

/-! ## Every step -/

theorem act_holderLaw (m : Instr) (h : HolderLaw s) : HolderLaw (act m s) := by
  cases m with
  | lookup a tag window rights => exact actLookup_holderLaw h ..
  | released a window generation => exact actReleased_holderLaw h ..
  | returnSlot a tag slot => exact actReturn_holderLaw h ..
  | flush a tag => exact actFlush_holderLaw h ..
  | switch a tag context => exact actSwitch_holderLaw h ..
  | join a => exact actJoin_holderLaw h a
  | configure tag frameCount recallDeadline initialScrub fillDeadline pattern => exact actConfigure_holderLaw h ..
  | create tag window cls scrub boundAgent boundContext rights base count => exact actCreate_holderLaw h ..
  | change tag window group rights run scrub => exact request_holderLaw h _ _ _ (takeChange_holderLaw h ..)
  | retire tag window group => exact request_holderLaw h _ _ _ (takeChange_holderLaw h ..)
  | abandon tag target => exact request_holderLaw h _ _ _ (takeAbandon_holderLaw h ..)
  | groupOpen tag group =>
    exact request_holderLaw h _ _ _ (withGroup_holderLaw h _ _ _ fun g => takeGroupOpen_holderLaw h tag g)
  | groupCommit tag group =>
    exact request_holderLaw h _ _ _ (withGroup_holderLaw h _ _ _ fun g => takeGroupCommit_holderLaw h tag g)
  | groupAbandon tag group =>
    exact request_holderLaw h _ _ _ (withGroup_holderLaw h _ _ _ fun g => takeGroupAbandon_holderLaw h tag g)
  | admitAgent tag agent =>
    exact request_holderLaw h _ _ _ (withAgent_holderLaw h _ _ _ fun a => takeAdmit_holderLaw h tag a)
  | fence tag agent =>
    exact request_holderLaw h _ _ _ (withAgent_holderLaw h _ _ _ fun a => takeFence_holderLaw h tag a)
  | suspendScrub tag => exact actSuspendScrub_holderLaw h tag
  | resumeScrub tag => exact actResumeScrub_holderLaw h tag
  | rescrub tag base count => exact actRescrub_holderLaw h ..
  | queryWindow tag window => exact actQueryWindow_holderLaw h ..
  | queryAgent tag agent => exact actQueryAgent_holderLaw h ..
  | queryFrames tag base count => exact actQueryFrames_holderLaw h ..
  | queryScrub tag => exact actQueryScrub_holderLaw h tag
  | noticeCredit tag n => exact actNoticeCredit_holderLaw h ..
  | restart tag => exact actRestart_holderLaw tag s
  | filled status id seq => exact actFilled_holderLaw h ..
  | unknownKindMessage l kind tag body => exact actUnknownKindMessage_holderLaw h ..
  | _ => exact h

theorem takeOldest_holderLaw (h : HolderLaw s) (l : LinkId) : HolderLaw (takeOldest l s) := by
  unfold takeOldest
  split
  · exact h
  · exact act_holderLaw _ (h.of_eq (by rfl))

theorem takeWaiting_holderLaw (h : HolderLaw s) : HolderLaw (takeWaiting s) := by
  unfold takeWaiting
  split
  · exact h
  · exact takeOldest_holderLaw (h.of_eq (by rfl)) _

theorem receiveMessage_holderLaw (h : HolderLaw s) (l : LinkId) (m : Instr) : HolderLaw (receiveMessage l m s) := by
  rcases receiveMessage_cases l m s with ⟨-, hr⟩ | ⟨-, -, hr⟩ | ⟨-, -, hr | hr⟩ <;> rw [hr]
  · exact h.of_eq (by rfl)
  · exact State.takeLinkError_holderLaw (h.of_eq (by rfl)) l
  · exact h.of_eq (by rfl)
  · exact takeOldest_holderLaw (h.of_eq (by rfl)) l

/-- A command that is a message is received on its link. -/
theorem exec_message {c : Instr} {l : LinkId} (hc : (commandMessage c).map Prod.fst = some l) (s : State) :
    exec c s = .next (receiveMessage l c s) := by
  cases c <;> cases hc <;> rfl

theorem exec_holderLaw (c : Instr) (h : HolderLaw s) : ∃ t, exec c s = .next t ∧ HolderLaw t := by
  have hb : HolderLaw s.begin := h.of_eq (by rfl)
  cases c with
  | recallDeadlineExpiry e =>
    refine ⟨_, rfl, ?_⟩
    split
    · exact hb
    · split
      · exact takeExpiry_holderLaw hb ..
      · exact hb
  | fillDeadlineExpiry id =>
    refine ⟨_, rfl, ?_⟩
    split
    · exact State.fillEnds_holderLaw hb ..
    · exact hb
  | resetN => exact ⟨_, rfl, HolderLaw.of_reset (by rfl)⟩
  | carrierDetected l =>
    refine ⟨_, rfl, ?_⟩
    split
    · exact hb.of_eq (by rfl)
    · exact hb
  | parameterWord l crcOk role linkNumber credits =>
    refine ⟨_, rfl, ?_⟩
    split
    · exact hb
    · split
      · exact State.comeUp_holderLaw hb l
      · exact hb.of_eq (by rfl)
    · exact State.takeLinkError_holderLaw hb l
  | carrierLost l =>
    refine ⟨_, rfl, ?_⟩
    split
    · exact hb
    · exact hb.of_eq (by rfl)
    · exact State.takeCarrierLoss_holderLaw hb l
  | linkError l cause =>
    refine ⟨_, rfl, ?_⟩
    split
    · exact State.takeLinkError_holderLaw hb l
    · exact hb
  | creditReturnWord | messageInTraining | otherControlCodeWord => exact ⟨_, rfl, hb⟩
  | resetNRelease => exact ⟨_, rfl, hb.of_eq (by rfl)⟩
  | _ => exact ⟨_, exec_message rfl s, receiveMessage_holderLaw h ..⟩

theorem step_holderLaw (h : HolderLaw s) : ∃ t, step s = .next t ∧ HolderLaw t := by
  unfold step
  split
  · exact ⟨_, rfl, takeWaiting_holderLaw h⟩
  · exact exec_holderLaw _ (h.of_eq (by rfl))

/-- Settles O53: a step moves a holding only by `HolderLaw.unhold` and `HolderLaw.hold`, each of which writes the slot
and the holder set together; every other write leaves the windows that slots name and the holder sets as they are. -/
theorem holderLawKept : Obligations.HolderLawKept := by
  unfold Obligations.HolderLawKept
  intro s t h hst
  obtain ⟨u, hu, hlaw⟩ := step_holderLaw h
  cases hu.symm.trans hst
  exact hlaw

end Sys2Proof.Machine
end

section
/-!
PROOFS of O51, that every step keeps the law of ports and links and the law of empty ports (R134 to R136, R162, R163).
Both laws are read port by port and link by link (`PortsLaw`). An action that is not a port's own leaves its state as it
was, and a port that is not ADMITTED and empty stays so through it (`KeepsPort`): a holding or a parked lookup is given
to an ADMITTED agent only. A departure empties the port it closes.
-/

namespace Sys2Proof.Machine

variable {o s t : State} {a b : AgentId}

/-! ## The two laws, port by port and link by link -/

/-- Agent a's port is not ADMITTED and is empty (R135). -/
structure State.Closed (s : State) (a : AgentId) : Prop where
  state : (s.port a).state ≠ .admitted
  table : s.table a = .initial
  parked : ∀ p ∈ s.park, p.agent ≠ a
  tags : (s.port a).tags = noneOf 4

/-- What the two laws say of agent a's port (R134, R135, R136). -/
structure State.PortFits (s : State) (a : AgentId) : Prop where
  down : (s.port a).state = .down ↔ s.isUp (.agent a) = false
  fence : s.fenceN[a] = true ↔ (s.port a).state = .admitted
  closed : (s.port a).state ≠ .admitted → s.Closed a

/-- What the law of ports and links says of the Link Interface of l (R162, R163). -/
structure Link.Fits (x : Link) (l : LinkId) : Prop where
  credits : x.state = .up → x.credits + x.buffer.length = 8
  empty : x.state ≠ .up → x.buffer = []
  own : ∀ m ∈ x.buffer, (commandMessage m).map Prod.fst = some l

/-- The two laws together. -/
structure PortsLaw (s : State) : Prop where
  ports : ∀ a, s.PortFits a
  links : ∀ l, (s.link l).Fits l

theorem State.isUp_eq_true {l : LinkId} : s.isUp l = true ↔ (s.link l).state = .up := by simp [State.isUp]

theorem State.isUp_eq_false {l : LinkId} : s.isUp l = false ↔ (s.link l).state ≠ .up := by simp [State.isUp]

theorem portsLaw_iff : PortsLaw s ↔ PortLaw s ∧ EmptyPortLaw s := by
  constructor
  · intro h
    refine ⟨⟨fun a => (h.ports a).down, fun a => (h.ports a).fence, fun l hl => ?_, fun l hl => ?_,
      fun l => (h.links l).own⟩, fun a ha => ?_⟩
    · exact (h.links l).credits (State.isUp_eq_true.1 hl)
    · exact (h.links l).empty (State.isUp_eq_false.1 hl)
    · obtain ⟨-, table, parked, tags⟩ := (h.ports a).closed ha
      exact ⟨table, parked, tags⟩
  · rintro ⟨hp, he⟩
    refine ⟨fun a => ⟨hp.down a, hp.fence a, fun ha => ?_⟩, fun l => ⟨fun hl => ?_, fun hl => ?_, hp.own l⟩⟩
    · obtain ⟨table, parked, tags⟩ := he a ha
      exact ⟨ha, table, parked, tags⟩
    · exact hp.credits l (State.isUp_eq_true.2 hl)
    · exact hp.empty l (State.isUp_eq_false.2 hl)

theorem State.Closed.slots (h : s.Closed a) (i : Fin 64) : (s.table a).slots[i] = none := by
  simp [h.table, SlotTable.initial]

theorem State.Closed.of_eq (h : s.Closed a) (htables : t.tables = s.tables) (hports : t.ports = s.ports)
    (hpark : t.park = s.park) : t.Closed a := by
  have hport : t.port a = s.port a := by simp only [State.port, hports]
  have htable : t.table a = s.table a := by simp only [State.table, htables]
  obtain ⟨state, table, parked, tags⟩ := h
  exact ⟨hport ▸ state, htable ▸ table, hpark ▸ parked, hport ▸ tags⟩

theorem State.not_closed_of_isAdmitted (h : s.isAdmitted a = true) : ¬s.Closed a := fun hc =>
  hc.state (by simpa [State.isAdmitted] using h)

theorem State.Closed.portFits (hc : s.Closed a) (hf : s.fenceN[a] = false)
    (hd : (s.port a).state = .down ↔ s.isUp (.agent a) = false) : s.PortFits a :=
  ⟨hd, iff_of_false (by simp [hf]) hc.state, fun _ => hc⟩

/-! ## What keeps a port -/

/-- From s to t every link and agent a's port state and fence line are unchanged, and a port that was closed is closed
still. -/
structure KeepsPort (a : AgentId) (s t : State) : Prop where
  links : t.links = s.links
  fence : t.fenceN[a] = s.fenceN[a]
  state : (t.port a).state = (s.port a).state
  closed : s.Closed a → t.Closed a

theorem KeepsPort.refl (a : AgentId) (s : State) : KeepsPort a s s := ⟨rfl, rfl, rfl, id⟩

theorem State.link_eq (h : t.links = s.links) (l : LinkId) : t.link l = s.link l := by
  cases l <;> simp only [State.link, h]

theorem State.isUp_eq (h : t.links = s.links) (l : LinkId) : t.isUp l = s.isUp l := by
  simp only [State.isUp, State.link_eq h]

theorem KeepsPort.portFits (k : KeepsPort a s t) (h : s.PortFits a) : t.PortFits a where
  down := by rw [k.state, State.isUp_eq k.links]; exact h.down
  fence := by rw [k.state, k.fence]; exact h.fence
  closed ha := k.closed (h.closed (k.state ▸ ha))

theorem PortsLaw.of_keeps (h : PortsLaw s) (k : ∀ a, KeepsPort a s t) : PortsLaw t where
  ports a := (k a).portFits (h.ports a)
  links l := State.link_eq (k 0).links l ▸ h.links l

/-- An action on one agent's port keeps the laws when it keeps every other port and that port fits after it. -/
theorem PortsLaw.of_port (hports : ∀ a, a ≠ b → s.PortFits a) (hlinks : ∀ l, (s.link l).Fits l)
    (k : ∀ a, a ≠ b → KeepsPort a s t) (hb : t.PortFits b) : PortsLaw t where
  ports a := by
    by_cases ha : a = b
    · exact ha ▸ hb
    · exact (k a ha).portFits (hports a ha)
  links l := by
    obtain ⟨a, ha⟩ := exists_ne b
    exact State.link_eq (k a ha).links l ▸ hlinks l

/-- The records that the laws read. -/
def State.portRecords (s : State) : Vector SlotTable 8 × Vector Port 8 × FinSet 8 × List Parked × Links :=
  (s.tables, s.ports, s.fenceN, s.park, s.links)

theorem KeepsPort.of_eq (h : KeepsPort a o s) (hr : t.portRecords = s.portRecords) : KeepsPort a o t := by
  simp only [State.portRecords, Prod.mk.injEq] at hr
  obtain ⟨htables, hports, hfence, hpark, hlinks⟩ := hr
  have hport : t.port a = s.port a := by simp only [State.port, hports]
  exact ⟨hlinks.trans h.links, hfence ▸ h.fence, hport ▸ h.state, fun hc => (h.closed hc).of_eq htables hports hpark⟩

theorem EngineOnly.keepsPort (e : EngineOnly s t) (h : KeepsPort a o s) : KeepsPort a o t :=
  h.of_eq (by simp only [State.portRecords, e.tables, e.ports, e.fenceN, e.park, e.links])

theorem PortsLaw.of_eq (h : PortsLaw s) (hr : t.portRecords = s.portRecords) : PortsLaw t :=
  h.of_keeps fun a => (KeepsPort.refl a s).of_eq hr

theorem State.setTable_keepsPort (h : KeepsPort a o s) {x : SlotTable} (hx : o.Closed a → a = b → x = .initial) :
    KeepsPort a o (s.setTable b x) := by
  refine ⟨h.links, h.fence, h.state, fun hc => ?_⟩
  obtain ⟨state, table, parked, tags⟩ := h.closed hc
  refine ⟨state, ?_, parked, tags⟩
  rw [State.table_setTable]
  split
  · rename_i hab
    exact hx hc hab
  · exact table

/-- A port's context or lookup tags are written. -/
theorem State.setPort_keepsPort (h : KeepsPort a o s) {p : Port} (hs : a = b → p.state = (s.port b).state)
    (ht : o.Closed a → a = b → p.tags = noneOf 4) : KeepsPort a o (s.setPort b p) := by
  by_cases hab : a = b
  · subst hab
    have hp : (s.setPort a p).port a = p := s.port_setPort_self a p
    refine ⟨h.links, h.fence, by rw [hp, hs rfl, h.state], fun hc => ?_⟩
    obtain ⟨state, table, parked, -⟩ := h.closed hc
    exact ⟨by rwa [hp, hs rfl], table, parked, by rw [hp]; exact ht hc rfl⟩
  · have hp : (s.setPort b p).port a = s.port a := by rw [State.port_setPort, if_neg hab]
    refine ⟨h.links, h.fence, by rw [hp, h.state], fun hc => ?_⟩
    obtain ⟨state, table, parked, tags⟩ := h.closed hc
    exact ⟨by rwa [hp], table, parked, by rwa [hp]⟩

theorem State.setPort_keepsPort_of_ne (h : KeepsPort a o s) (hab : a ≠ b) (p : Port) :
    KeepsPort a o (s.setPort b p) :=
  State.setPort_keepsPort h (fun e => absurd e hab) fun _ e => absurd e hab

theorem State.setFence_keepsPort_of_ne (h : KeepsPort a o s) (hab : a ≠ b) (high : Bool) :
    KeepsPort a o (s.setFence b high) := by
  refine ⟨h.links, ?_, h.state, fun hc => (h.closed hc).of_eq rfl rfl rfl⟩
  rw [← h.fence]
  exact (vector_get_set ..).trans (if_neg hab)

theorem State.setPark_keepsPort (h : KeepsPort a o s) {l : List Parked}
    (hl : o.Closed a → ∀ p ∈ l, p ∈ s.park ∨ p.agent ≠ a) : KeepsPort a o (s.setPark l) := by
  refine ⟨h.links, h.fence, h.state, fun hc => ?_⟩
  obtain ⟨state, table, parked, tags⟩ := h.closed hc
  exact ⟨state, table, fun p hp => (hl hc p hp).elim (parked p) id, tags⟩

/-- Entries leave the Park List. -/
theorem State.filterPark_keepsPort (h : KeepsPort a o s) (keep : Parked → Bool) :
    KeepsPort a o (s.setPark (s.park.filter keep)) :=
  State.setPark_keepsPort h fun _ _ hp => .inl (List.mem_of_mem_filter hp)

theorem State.setLookupTag_keepsPort (h : KeepsPort a o s) (tag : Fin 4) {inUse : Bool}
    (hb : o.Closed a → a = b → inUse = false) : KeepsPort a o (s.setLookupTag b tag inUse) := by
  refine State.setPort_keepsPort h (fun _ => rfl) fun hc hab => ?_
  subst hab
  refine FinSet.eq_noneOf fun i => ?_
  simp only [vector_get_set, hb hc rfl, (h.closed hc).tags, noneOf_get, ite_self]

theorem State.sendAgent_keepsPort (h : KeepsPort a o s) (b : AgentId) (m : AgentMsg) :
    KeepsPort a o (s.sendAgent b m) :=
  h.of_eq (by simp [State.portRecords])

theorem State.sendSup_keepsPort (h : KeepsPort a o s) (m : SupMsg) : KeepsPort a o (s.sendSup m) :=
  (s.sendSup_engineOnly m).keepsPort h

theorem State.finish_keepsPort (h : KeepsPort a o s) (tag : BitVec 8) (d : DoneOutcome) (g : Option (BitVec 16))
    (l : FinSet 8) (i : Option (Fin 16)) : KeepsPort a o (s.finish tag d g l i) :=
  (s.finish_engineOnly tag d g l i).keepsPort h

theorem State.accept_keepsPort (h : KeepsPort a o s) (tag : BitVec 8) : KeepsPort a o (s.accept tag) :=
  State.sendSup_keepsPort (h.of_eq (by rfl)) _

theorem deliver_keepsPort (h : KeepsPort a o s) (l : List Notice) : KeepsPort a o (deliver l s) :=
  h.of_eq (by simp [State.portRecords])

theorem State.postPort_keepsPort (h : KeepsPort a o s) (b : AgentId) : KeepsPort a o (s.postPort b) :=
  h.of_eq (by simp [State.portRecords])

/-! ## The Slot Mirror's actions -/

theorem State.report_keepsPort (h : KeepsPort a o s) (ab : Option (Fin 4)) (b : AgentId) (w : Nat) (d : Bool) :
    KeepsPort a o (s.report ab b w d) := by
  rcases s.report_cases ab b w d with hr | ⟨e, x, -, -, -, -, hr⟩ <;> rw [hr]
  · exact h
  · exact h.of_eq (by rfl)

/-- A table with a HELD slot is no closed port's, so it may be written. -/
theorem State.setTable_held_keepsPort (h : KeepsPort a o s) {i : Fin 64} {y : Holding}
    (hy : (s.table b).slots[i] = some y) (x : SlotTable) : KeepsPort a o (s.setTable b x) :=
  State.setTable_keepsPort h fun hc hab => by
    subst hab
    simp [(h.closed hc).slots i] at hy

theorem State.removeSlot_keepsPort (h : KeepsPort a o s) (ab : Option (Fin 4)) (b : AgentId) (d : Bool) (i : Fin 64) :
    KeepsPort a o (s.removeSlot ab b d i) := by
  cases hh : (s.table b).slots[i] with
  | none => rwa [State.removeSlot_empty hh]
  | some x =>
    rw [State.removeSlot_held hh]
    exact State.report_keepsPort ((State.setTable_held_keepsPort h hh _).of_eq (by rfl)) ..

theorem State.removeWhere_keepsPort (h : KeepsPort a o s) (b : AgentId) (d : Bool) (pick : Holding → Bool) :
    KeepsPort a o (s.removeWhere b d pick) :=
  foldl_keeps (P := KeepsPort a o)
    (fun u i hu => by
      split
      · split
        · exact State.removeSlot_keepsPort hu none b d i
        · exact hu
      · exact hu)
    _ _ h

theorem State.sendGrant_keepsPort (h : KeepsPort a o s) (b : AgentId) (tag : Fin 4) (i : Fin 64) (w : Nat)
    (l : LiveFields) (r : Rights) (ev : Option Nat) : KeepsPort a o (s.sendGrant b tag i w l r ev) := by
  unfold State.sendGrant
  dsimp only
  split
  · rename_i hw
    refine State.sendAgent_keepsPort (State.setTable_keepsPort h fun hc hab => ?_) b _
    subst hab
    simp [(h.closed hc).table, SlotTable.initial] at hw
  · exact State.sendAgent_keepsPort h b _

theorem State.sendRecall_keepsPort (h : KeepsPort a o s) (w : Nat) (b : AgentId) :
    KeepsPort a o (s.sendRecall w b) := by
  unfold State.sendRecall
  dsimp only
  split
  · exact h
  · rename_i i hi
    obtain ⟨x, hx, -⟩ := SlotTable.naming_some hi
    exact State.sendAgent_keepsPort (State.setTable_held_keepsPort h hx _) b _

/-- An end of waiting that keeps agent a's port as it stands in o. -/
def EndWait.KeepsPort (k : EndWait) (a : AgentId) (o : State) : Prop :=
  ∀ e s, Machine.KeepsPort a o s → Machine.KeepsPort a o (k e s)

/-- A holding is given to an agent whose port is not closed. -/
theorem grant_keepsPort {k : EndWait} (hk : k.KeepsPort a o) (h : KeepsPort a o s) (hb : o.Closed a → a ≠ b)
    (ab : Option (Fin 4)) (tag : Fin 4) (w : Nat) (r : Rights) (l : LiveFields) :
    KeepsPort a o (grant k ab b tag w r l s) := by
  unfold grant
  dsimp only
  split
  · exact State.sendGrant_keepsPort (State.setTable_keepsPort h fun hc hab => absurd hab (hb hc)) ..
  · have hr := State.removeSlot_keepsPort h ab b false (s.table b).choose
    have ht (x : SlotTable) := State.setTable_keepsPort hr (x := x) fun hc hab => absurd hab (hb hc)
    exact endWaits_keeps hk _ _ (State.sendGrant_keepsPort ((ht _).of_eq (by rfl)) ..)

/-! ## Ends of changes -/

theorem answerLookup_keepsPort {k : EndWait} (hk : k.KeepsPort a o) (h : KeepsPort a o s) (hb : o.Closed a → a ≠ b)
    (ab : Option (Fin 4)) (tag : Fin 4) (w : Nat) (r : Rights) :
    KeepsPort a o (answerLookup k ab b tag w r s) := by
  unfold answerLookup
  split
  · exact State.sendAgent_keepsPort h ..
  · split
    · exact State.sendAgent_keepsPort h ..
    · exact grant_keepsPort hk h hb ..

theorem retake_keepsPort {k : EndWait} (hk : k.KeepsPort a o) (ab : Option (Fin 4)) (w : Nat) (h : KeepsPort a o s) :
    KeepsPort a o (retake k ab w s) := by
  refine List.foldlRecOn _ _ (State.filterPark_keepsPort h _) fun u hu p hp => ?_
  have hb : o.Closed a → a ≠ p.agent := fun hc => ((h.closed hc).parked p (List.mem_of_mem_filter hp)).symm
  exact answerLookup_keepsPort hk (State.setLookupTag_keepsPort hu p.tag fun _ _ => rfl) hb ..

theorem State.applyParts_keepsPort (h : KeepsPort a o s) (e : Fin 16) (x : Entry) :
    KeepsPort a o (s.applyParts e x) := by
  unfold State.applyParts
  split
  · exact h
  · rename_i l _
    obtain ⟨m, hm⟩ := (s.setWindow x.window (x.kind.applied (s.window x.window) l)).moveFrames_engineOnly x l
    have h1 := hm.keepsPort (h.of_eq (by rfl))
    exact State.finish_keepsPort (h1.of_eq (by rfl)) ..

theorem State.closeGroup_keepsPort (h : KeepsPort a o s) (g : Fin 4) (d : DoneOutcome) (l : FinSet 8) :
    KeepsPort a o (s.closeGroup g d l) := by
  unfold State.closeGroup
  dsimp only
  split
  · exact (State.finish_keepsPort h ..).of_eq (by rfl)
  · exact h.of_eq (by rfl)

theorem cascadeKeeps_keepsPort (a : AgentId) (o : State) (ab : Option (Fin 4)) : CascadeKeeps (KeepsPort a o) ab where
  retake _ hk w _ h := retake_keepsPort hk ab w h
  apply e x _ _ h := State.applyParts_keepsPort h e x
  ready _ _ _ _ h := h.of_eq (by rfl)
  close g d l _ h := State.closeGroup_keepsPort h g d l

theorem cascadeDepth_keepsPort (ab : Option (Fin 4)) (n : Nat) : (cascadeDepth ab n).KeepsPort a o :=
  cascadeDepth_keeps (cascadeKeeps_keepsPort a o ab) n

theorem cascade_keepsPort : cascade.KeepsPort a o := cascadeDepth_keepsPort none _

theorem endWaits_cascade_keepsPort (s : State) (h : KeepsPort a o t) : KeepsPort a o (endWaits cascade s t) :=
  endWaits_keeps cascade_keepsPort s t h

theorem State.abandonParts_keepsPort (h : KeepsPort a o s) (e : Fin 16) (x : Entry) :
    KeepsPort a o (s.abandonParts e x) := by
  unfold State.abandonParts
  dsimp only
  refine State.finish_keepsPort ?_ ..
  split <;> exact h.of_eq (by rfl)

theorem abandonMember_keepsPort (g : Fin 4) (e : Fin 16) (h : KeepsPort a o s) :
    KeepsPort a o (abandonMember g e s) := by
  unfold abandonMember
  split
  · exact h
  · exact retake_keepsPort (cascadeDepth_keepsPort _ _) _ _ (State.abandonParts_keepsPort h e _)

/-! ## Departures -/

theorem ite_keepsPort {c : Prop} [Decidable c] (ht : KeepsPort a o t) (hs : KeepsPort a o s) :
    KeepsPort a o (if c then t else s) := by
  split <;> assumption

/-- The departure of one agent keeps every other port. -/
theorem State.departParts_keepsPort (h : KeepsPort a o s) (hab : a ≠ b) (st : PortState) (r : PortReason)
    (fenced posted : Bool) : KeepsPort a o (s.departParts b st r fenced posted) := by
  unfold State.departParts
  extract_lets port s1 s2 table s3 s4 tags s5 s6
  have h1 : KeepsPort a o s1 :=
    State.setFence_keepsPort_of_ne (State.setPort_keepsPort_of_ne h hab _) hab false
  have h2 : KeepsPort a o s2 := State.removeWhere_keepsPort h1 b true _
  have h3 : KeepsPort a o s3 := State.setTable_keepsPort h2 fun _ e => absurd e hab
  have h4 : KeepsPort a o s4 := State.filterPark_keepsPort h3 _
  have h5 : KeepsPort a o s5 := State.setPort_keepsPort_of_ne h4 hab _
  have h6 : KeepsPort a o s6 := ite_keepsPort (State.sendAgent_keepsPort h5 b _) h5
  exact ite_keepsPort (State.postPort_keepsPort h6 b) h6

/-- A removal of every holding empties every slot. -/
theorem State.removeWhere_all_slots (s : State) (b : AgentId) (d : Bool) (i : Fin 64) :
    ((s.removeWhere b d fun _ => true).table b).slots[i] = none := by
  have keeps : ∀ (u : State) (j : Fin 64), (u.table b).slots[i] = none →
      ((u.removeSlot none b d j).table b).slots[i] = none := fun u j hu => by
    rw [State.removeSlot_table, if_pos rfl]
    simp only [vector_get_set, hu, ite_self]
  obtain ⟨l₁, l₂, hl⟩ := List.append_of_mem (List.mem_finRange i)
  unfold State.removeWhere
  rw [hl, List.foldl_append, List.foldl_cons]
  refine foldl_keeps (P := fun u : State => (u.table b).slots[i] = none) (fun u j hu => ?_) _ _ ?_
  · split
    · exact keeps u j hu
    · exact hu
  · split
    · rw [if_pos rfl, State.removeSlot_table, if_pos rfl]
      simp only [vector_get_set, if_pos]
    · assumption

/-- A departure closes the agent's port (R142). -/
theorem State.departParts_portFits {st : PortState} (hst : st ≠ .admitted)
    (hup : st = .down ↔ s.isUp (.agent b) = false) (r : PortReason) (fenced posted : Bool) :
    (s.departParts b st r fenced posted).PortFits b := by
  unfold State.departParts
  extract_lets port s1 s2 table s3 s4 tags s5 s6
  have hsteady : Steady s1 s2 := State.removeWhere_steady s1 b true _
  have hslots : ∀ i : Fin 64, (s2.table b).slots[i] = none := State.removeWhere_all_slots s1 b true
  clear_value s2
  have hport : s5.port b = { s2.port b with tags := noneOf 4 } := State.port_setPort_self ..
  have hstate : (s5.port b).state = st := by
    rw [hport]
    exact (hsteady.state b).trans (congrArg Port.state (State.port_setPort_self ..))
  have htable : s5.table b = .initial := by
    refine (State.table_setTable_self ..).trans ?_
    simp only [SlotTable.initial, SlotTable.mk.injEq, and_self, and_true]
    ext i hi : 1
    simpa using hslots ⟨i, hi⟩
  have hclosed : s5.Closed b :=
    ⟨hstate ▸ hst, htable, fun p hp => by simpa using List.of_mem_filter hp, by rw [hport]⟩
  have hfence : s5.fenceN[b] = false := by
    rw [show s5.fenceN = s.fenceN.set b false from hsteady.fenceN]
    simp
  have h5 : s5.PortFits b := hclosed.portFits hfence (by
    rw [hstate, hup, State.isUp_eq (show s5.links = s.links from hsteady.links)])
  have h6 : KeepsPort b s5 s6 := ite_keepsPort (State.sendAgent_keepsPort (.refl b s5) b _) (.refl b s5)
  exact (ite_keepsPort (State.postPort_keepsPort h6 b) h6).portFits h5

theorem State.depart_keepsPort (h : KeepsPort a o s) (hab : a ≠ b) (st : PortState) (r : PortReason)
    (fenced posted : Bool) : KeepsPort a o (s.depart b st r fenced posted) :=
  endWaits_cascade_keepsPort s (State.departParts_keepsPort h hab st r fenced posted)

theorem State.depart_portFits {st : PortState} (hst : st ≠ .admitted)
    (hup : st = .down ↔ s.isUp (.agent b) = false) (r : PortReason) (fenced posted : Bool) :
    (s.depart b st r fenced posted).PortFits b :=
  (endWaits_cascade_keepsPort s (.refl b _)).portFits (State.departParts_portFits hst hup r fenced posted)

/-- On an UP link a port departs to a state that is neither ADMITTED nor DOWN. -/
theorem PortsLaw.departParts (h : PortsLaw s) {st : PortState} (hd : (s.port b).state ≠ .down) (hst : st ≠ .admitted)
    (hstd : st ≠ .down) (r : PortReason) (fenced posted : Bool) : PortsLaw (s.departParts b st r fenced posted) :=
  PortsLaw.of_port (fun a _ => h.ports a) h.links
    (fun a ha => State.departParts_keepsPort (.refl a s) ha st r fenced posted)
    (State.departParts_portFits hst (iff_of_false hstd (mt (h.ports b).down.2 hd)) r fenced posted)

theorem PortsLaw.depart (h : PortsLaw s) {st : PortState} (hd : (s.port b).state ≠ .down) (hst : st ≠ .admitted)
    (hstd : st ≠ .down) (r : PortReason) (fenced posted : Bool) : PortsLaw (s.depart b st r fenced posted) :=
  (h.departParts hd hst hstd r fenced posted).of_keeps fun a => endWaits_cascade_keepsPort s (.refl a _)

/-! ## A closed port that changes its state -/

/-- An empty port that is not ADMITTED goes to a state that is not ADMITTED either. -/
theorem State.setPort_portFits {p : Port} (hc : s.Closed b) (hf : s.fenceN[b] = false) (hp : p.state ≠ .admitted)
    (hup : p.state = .down ↔ s.isUp (.agent b) = false) (ht : p.tags = (s.port b).tags) :
    (s.setPort b p).PortFits b := by
  have hport : (s.setPort b p).port b = p := s.port_setPort_self b p
  have hclosed : (s.setPort b p).Closed b := ⟨by rwa [hport], hc.table, hc.parked, by rw [hport, ht, hc.tags]⟩
  exact hclosed.portFits hf (by rw [hport]; exact hup)

theorem State.PortFits.fence_low (h : s.PortFits a) (ha : (s.port a).state ≠ .admitted) : s.fenceN[a] = false := by
  simpa using mt h.fence.1 ha

/-- On an UP link a port that is not ADMITTED takes another state that is neither ADMITTED nor DOWN. -/
theorem PortsLaw.setState (h : PortsLaw s) (b : AgentId) {st : PortState} (r : PortReason)
    (ha : (s.port b).state ≠ .admitted) (hd : (s.port b).state ≠ .down) (hst : st ≠ .admitted) (hstd : st ≠ .down) :
    PortsLaw (s.setPort b { s.port b with state := st, reason := r }) :=
  PortsLaw.of_port (fun a _ => h.ports a) h.links (fun a ha => State.setPort_keepsPort_of_ne (.refl a s) ha _)
    (State.setPort_portFits ((h.ports b).closed ha) ((h.ports b).fence_low ha) hst
      (iff_of_false hstd (mt (h.ports b).down.2 hd)) rfl)

/-! ## Links -/

theorem State.PortFits.setLink (h : s.PortFits a) {l : LinkId} {x : Link}
    (hx : (s.setLink l x).isUp (.agent a) = s.isUp (.agent a)) : (s.setLink l x).PortFits a := by
  obtain ⟨down, fence, closed⟩ := h
  exact ⟨by rw [hx]; exact down, fence, fun ha => (closed ha).of_eq rfl rfl rfl⟩

theorem State.PortFits.setLink_of_ne (h : s.PortFits a) {l : LinkId} (hl : l ≠ .agent a) (x : Link) :
    (s.setLink l x).PortFits a :=
  h.setLink (by rw [State.isUp_setLink, if_neg hl.symm])

theorem PortsLaw.links_setLink (h : PortsLaw s) {l : LinkId} {x : Link} (hx : x.Fits l) (k : LinkId) :
    ((s.setLink l x).link k).Fits k := by
  rw [State.link_setLink]
  split
  · subst_vars; exact hx
  · exact h.links k

/-- A Link Interface is written without the link becoming UP or leaving UP. -/
theorem PortsLaw.setLink (h : PortsLaw s) {l : LinkId} {x : Link} (hx : x.Fits l)
    (hup : (x.state == .up) = s.isUp l) : PortsLaw (s.setLink l x) where
  ports a := (h.ports a).setLink (by rw [State.isUp_setLink]; split <;> simp_all)
  links := h.links_setLink hx

/-- A link that is not UP takes another state that is not UP. -/
theorem PortsLaw.setLinkState (h : PortsLaw s) (l : LinkId) {st : LinkState} (hl : (s.link l).state ≠ .up)
    (hst : st ≠ .up) : PortsLaw (s.setLink l { s.link l with state := st }) :=
  h.setLink ⟨fun hu => absurd hu hst, fun _ => (h.links l).empty hl, (h.links l).own⟩ (by simp [State.isUp, hl, hst])

/-- A Link Interface with no message in its receive buffer and 8 credits with its partner. -/
theorem Link.fresh_fits (st : LinkState) (l : LinkId) : (Link.fresh st).Fits l :=
  ⟨fun _ => rfl, fun _ => rfl, fun _ hm => absurd hm List.not_mem_nil⟩

theorem State.losePort_keepsPort (h : KeepsPort a o s) (hab : a ≠ b) : KeepsPort a o (s.losePort b) := by
  unfold State.losePort
  split
  · exact h
  · exact State.depart_keepsPort h hab ..
  all_goals exact State.postPort_keepsPort (State.setPort_keepsPort_of_ne h hab _) b

/-- A port whose link has left UP becomes DOWN and empty (R141). -/
theorem State.losePort_portFits (hup : s.isUp (.agent b) = false)
    (hf : (s.port b).state ≠ .admitted → s.fenceN[b] = false) (hc : (s.port b).state ≠ .admitted → s.Closed b) :
    (s.losePort b).PortFits b := by
  have other (h : (s.port b).state ≠ .admitted) :
      ((s.setPort b { s.port b with state := .down, reason := .linkLost }).postPort b).PortFits b :=
    (State.postPort_keepsPort (.refl b _) b).portFits
      (State.setPort_portFits (hc h) (hf h) (by simp) (iff_of_true rfl hup) rfl)
  unfold State.losePort
  split
  · rename_i hs
    have hs' : (s.port b).state ≠ .admitted := by simp [hs]
    exact ⟨iff_of_true hs hup, by simp [hf hs', hs], hc⟩
  · exact State.depart_portFits (by simp) (iff_of_true rfl hup) ..
  · exact other (by simp [*])
  · exact other (by simp [*])

/-- A link that leaves UP, with what its owner does then (R141, R159, R161). -/
theorem PortsLaw.leaveUp (h : PortsLaw s) (l : LinkId) {st : LinkState} (hst : st ≠ .up) :
    PortsLaw ((s.setLink l (.fresh st)).leaveUp l) := by
  have hlinks := h.links_setLink (Link.fresh_fits st l)
  have hports (a : AgentId) (hl : l ≠ .agent a) : (s.setLink l (.fresh st)).PortFits a :=
    (h.ports a).setLink_of_ne hl _
  cases l with
  | agent b =>
    have hb : ((s.setLink (.agent b) (.fresh st)).losePort b).PortFits b := by
      refine State.losePort_portFits ?_ (h.ports b).fence_low fun ha => ((h.ports b).closed ha).of_eq rfl rfl rfl
      simpa [State.isUp_setLink, Link.fresh] using hst
    exact PortsLaw.of_port (fun a ha => hports a (by simpa using ha.symm)) hlinks
      (fun a ha => State.losePort_keepsPort (.refl a _) ha) hb
  | sup => exact PortsLaw.of_eq ⟨fun a => hports a (by simp), hlinks⟩ (by rfl)
  | mem =>
    exact PortsLaw.of_keeps ⟨fun a => hports a (by simp), hlinks⟩ fun a =>
      (State.loseMem_engineOnly _).keepsPort (.refl a _)

theorem State.takeLinkError_portsLaw (h : PortsLaw s) (l : LinkId) : PortsLaw (s.takeLinkError l) :=
  PortsLaw.leaveUp (s := s.sendParameterWord l) (h.of_eq (by rfl)) l (by simp)

theorem State.takeCarrierLoss_portsLaw (h : PortsLaw s) (l : LinkId) : PortsLaw (s.takeCarrierLoss l) :=
  h.leaveUp l (by simp)

/-- A link that becomes UP, with what its owner does then (R136, R161). -/
theorem State.comeUp_portsLaw (h : PortsLaw s) {l : LinkId} (hl : s.isUp l = false) : PortsLaw (s.comeUp l) := by
  have hlinks := h.links_setLink (Link.fresh_fits .up l)
  have hports (a : AgentId) (hl : l ≠ .agent a) : (s.setLink l (.fresh .up)).PortFits a :=
    (h.ports a).setLink_of_ne hl _
  cases l with
  | agent b =>
    have hdown : (s.port b).state ≠ .admitted := by simp [(h.ports b).down.2 hl]
    have hclosed : (s.setLink (.agent b) (.fresh .up)).Closed b := ((h.ports b).closed hdown).of_eq rfl rfl rfl
    refine PortsLaw.of_port (fun a ha => hports a (by simpa using ha.symm)) hlinks
      (fun a ha => State.setPort_keepsPort_of_ne (.refl a _) ha _)
      (State.setPort_portFits hclosed ((h.ports b).fence_low hdown) (by simp) ?_ rfl)
    simp [State.isUp_setLink, Link.fresh]
  | sup => exact ⟨fun a => hports a (by simp), hlinks⟩
  | mem =>
    exact PortsLaw.of_keeps ⟨fun a => hports a (by simp), hlinks⟩ fun a =>
      (State.drive_engineOnly _).keepsPort (.refl a _)

/-! ## The common checks -/

theorem request_keeps {P : State → Prop} (hs : ∀ m, P (s.sendSup m)) {act : State → State} (ha : P (act s))
    (kind tag : BitVec 8) (exempt : Bool) : P (request kind tag exempt act s) := by
  unfold request
  split
  · exact hs _
  · split
    · exact hs _
    · exact ha

theorem withAgent_keeps {P : State → Prop} (hs : ∀ m, P (s.sendSup m)) {act : AgentId → State → State}
    (ha : ∀ b, P (act b s)) (kind tag : BitVec 8) (agent : BitVec 9) : P (withAgent kind tag agent act s) := by
  unfold withAgent
  split
  · exact hs _
  · exact ha _

theorem withGroup_keeps {P : State → Prop} (hs : ∀ m, P (s.sendSup m)) {act : Fin 4 → State → State}
    (ha : ∀ g, P (act g s)) (kind tag : BitVec 8) (group : BitVec 9) : P (withGroup kind tag group act s) := by
  unfold withGroup
  split
  · exact hs _
  · exact ha _

/-- A request whose own action keeps a port keeps it. -/
theorem request_keepsPort (h : KeepsPort a o s) {act : State → State} (ha : KeepsPort a o (act s)) (kind tag : BitVec 8)
    (exempt : Bool) : KeepsPort a o (request kind tag exempt act s) :=
  request_keeps (fun m => State.sendSup_keepsPort h m) ha kind tag exempt

/-! ## The agent's requests -/

/-- An ADMITTED agent's port is not closed. -/
theorem KeepsPort.ne_of_isAdmitted (h : KeepsPort a o s) (hb : s.isAdmitted b = true) : o.Closed a → a ≠ b :=
  fun hc hab => State.not_closed_of_isAdmitted hb (hab ▸ h.closed hc)

theorem actLookup_keepsPort (h : KeepsPort a o s) (b : AgentId) (tag : BitVec 8) (window : BitVec 16)
    (rights : BitVec 2) : KeepsPort a o (actLookup b tag window rights s) := by
  unfold actLookup lookupChecks
  split
  · exact State.sendAgent_keepsPort h ..
  · rename_i hadm
    have hb := h.ne_of_isAdmitted (b := b) (by simpa using hadm)
    split
    · exact State.sendAgent_keepsPort h ..
    · split
      · exact State.sendAgent_keepsPort h ..
      · unfold takeLookup
        split
        · split
          · refine State.setLookupTag_keepsPort (State.setPark_keepsPort h fun hc p hp => ?_) _
              fun hc hab => absurd hab (hb hc)
            rcases List.mem_append.1 hp with hp | hp
            · exact .inl hp
            · rw [List.mem_singleton.1 hp]
              exact .inr (hb hc).symm
          · exact State.sendAgent_keepsPort h ..
        · exact answerLookup_keepsPort cascade_keepsPort h hb ..

theorem State.forgetRecall_keepsPort (h : KeepsPort a o s) (b : AgentId) (w : Nat) :
    KeepsPort a o (s.forgetRecall b w) :=
  State.setTable_keepsPort h fun hc hab => by
    subst hab
    rw [(h.closed hc).table]
    rfl

theorem actReleased_keepsPort (h : KeepsPort a o s) (b : AgentId) (window generation : BitVec 16) :
    KeepsPort a o (actReleased b window generation s) := by
  have hf := State.forgetRecall_keepsPort h b window.toNat
  unfold actReleased takeReleased
  split
  · dsimp only
    split
    · exact hf
    · exact endWaits_cascade_keepsPort s (State.removeSlot_keepsPort hf none b false _)
  · exact h

theorem actReturn_keepsPort (h : KeepsPort a o s) (b : AgentId) (tag : BitVec 8) (slot : BitVec 9) :
    KeepsPort a o (actReturn b tag slot s) := by
  unfold actReturn
  split
  · exact State.sendAgent_keepsPort h ..
  · split
    · exact State.sendAgent_keepsPort h ..
    · exact endWaits_cascade_keepsPort s
        (State.sendAgent_keepsPort (State.removeSlot_keepsPort h none b false _) b _)

theorem State.setPointer_zero_keepsPort (h : KeepsPort a o s) (b : AgentId) : KeepsPort a o (s.setPointer b 0) :=
  State.setTable_keepsPort h fun hc hab => by
    subst hab
    rw [(h.closed hc).table]
    rfl

theorem actFlush_keepsPort (h : KeepsPort a o s) (b : AgentId) (tag : BitVec 8) :
    KeepsPort a o (actFlush b tag s) := by
  unfold actFlush
  split
  · exact State.sendAgent_keepsPort h ..
  · have h1 := State.removeWhere_keepsPort h b false fun _ => true
    exact endWaits_cascade_keepsPort s (State.sendAgent_keepsPort (State.setPointer_zero_keepsPort h1 b) b _)

theorem State.setContext_keepsPort (h : KeepsPort a o s) (b : AgentId) (c : Fin 16) :
    KeepsPort a o (s.setPort b { s.port b with context := c }) :=
  State.setPort_keepsPort h (fun _ => rfl) fun hc hab => by
    subst hab
    exact (h.closed hc).tags

theorem actSwitch_keepsPort (h : KeepsPort a o s) (b : AgentId) (tag : BitVec 8) (context : BitVec 9) :
    KeepsPort a o (actSwitch b tag context s) := by
  unfold actSwitch
  split
  · exact State.sendAgent_keepsPort h ..
  · split
    · exact State.sendAgent_keepsPort h ..
    · have h1 := State.removeWhere_keepsPort h b false Holding.isBound
      exact endWaits_cascade_keepsPort s (State.sendAgent_keepsPort (State.setContext_keepsPort h1 b _) b _)

theorem actJoin_portsLaw (h : PortsLaw s) (b : AgentId) : PortsLaw (actJoin b s) := by
  unfold actJoin takeJoin
  split
  · exact h
  · exact h
  · rename_i hs
    exact (h.setState b _ (by simp [hs]) (by simp [hs]) (by simp) (by simp)).of_keeps fun a =>
      State.postPort_keepsPort (.refl a _) b
  · rename_i hs
    exact h.depart (by simp [hs]) (by simp) (by simp) ..

/-! ## CONFIGURE, CREATE and the scrub requests -/

theorem actConfigure_keepsPort (h : KeepsPort a o s) (tag : BitVec 8) (frameCount recallDeadline : Word)
    (initialScrub : Bool) (fillDeadline : BitVec 8) (pattern : Word) :
    KeepsPort a o (actConfigure tag frameCount recallDeadline initialScrub fillDeadline pattern s) := by
  refine request_keepsPort h ?_ ..
  unfold takeConfigure
  split
  · exact State.sendSup_keepsPort h _
  · split
    · exact State.sendSup_keepsPort h _
    · refine State.sendSup_keepsPort ?_ _
      unfold State.configureWith
      dsimp only
      split
      · exact (State.enqueue_engineOnly _ _ _).keepsPort (h.of_eq (by rfl))
      · exact h.of_eq (by rfl)

theorem actCreate_keepsPort (h : KeepsPort a o s) (tag : BitVec 8) (window : BitVec 16) (cls : BitVec 8) (scrub : Bool)
    (boundAgent boundContext : BitVec 8) (rights : BitVec 16) (base count : Word) :
    KeepsPort a o (actCreate tag window cls scrub boundAgent boundContext rights base count s) := by
  refine request_keepsPort h ?_ ..
  split
  · exact State.sendSup_keepsPort h _
  · exact State.sendSup_keepsPort (h.of_eq (by rfl)) _

theorem actSuspendScrub_keepsPort (h : KeepsPort a o s) (tag : BitVec 8) :
    KeepsPort a o (actSuspendScrub tag s) := by
  refine request_keepsPort h ?_ ..
  unfold takeSuspend
  split
  · split
    · exact State.sendSup_keepsPort (h.of_eq (by rfl)) _
    · exact h.of_eq (by rfl)
  · exact State.sendSup_keepsPort (h.of_eq (by rfl)) _
  · exact State.sendSup_keepsPort h _
  · exact State.sendSup_keepsPort h _

theorem actResumeScrub_keepsPort (h : KeepsPort a o s) (tag : BitVec 8) :
    KeepsPort a o (actResumeScrub tag s) := by
  refine request_keepsPort h ?_ ..
  unfold takeResume
  split
  · exact State.sendSup_keepsPort (s.resume_engineOnly.keepsPort h) _
  · exact State.sendSup_keepsPort ((State.resume_engineOnly _).keepsPort (State.finish_keepsPort h ..)) _
  all_goals exact State.sendSup_keepsPort h _

theorem actRescrub_keepsPort (h : KeepsPort a o s) (tag : BitVec 8) (base count : Word) :
    KeepsPort a o (actRescrub tag base count s) := by
  refine request_keepsPort h ?_ ..
  unfold takeRescrub
  split
  · exact State.sendSup_keepsPort h _
  · split
    · exact State.sendSup_keepsPort h _
    · split
      · exact State.sendSup_keepsPort h _
      · exact State.sendSup_keepsPort ((State.enqueue_engineOnly _ _ _).keepsPort (h.of_eq (by rfl))) _

/-! ## Fills -/

theorem State.fillEnds_keepsPort (h : KeepsPort a o s) (k : Fin 4) (f : Fill) (ok : Bool) :
    KeepsPort a o (s.fillEnds k f ok) := by
  unfold State.fillEnds
  refine (State.afterFill_engineOnly _).keepsPort ?_
  split
  · exact h.of_eq (by rfl)
  · split
    · split
      · unfold State.countBlock
        dsimp only
        split <;> exact h.of_eq (by rfl)
      · exact h.of_eq (by rfl)
    · exact h.of_eq (by rfl)

theorem actFilled_keepsPort (h : KeepsPort a o s) (status : BitVec 8) (id : BitVec 2) (seq : BitVec 16) :
    KeepsPort a o (actFilled status id seq s) := by
  unfold actFilled takeFilled
  split
  · split
    · exact State.fillEnds_keepsPort h ..
    · exact h
  · exact h

/-! ## Changes -/

theorem State.startRecall_keepsPort (h : KeepsPort a o s) (e : Fin 16) (x : Entry) :
    KeepsPort a o (s.startRecall e x) :=
  foldl_keeps (P := KeepsPort a o) (fun _ b hu => State.sendRecall_keepsPort hu x.window b) _ _ (h.of_eq (by rfl))

theorem startStandalone_keepsPort (h : KeepsPort a o s) (e : Fin 16) : KeepsPort a o (startStandalone e s) := by
  unfold startStandalone
  split
  · exact h
  · split
    · exact applyEntry_keeps (cascadeKeeps_keepsPort a o none) cascade_keepsPort e s h
    · exact State.accept_keepsPort (State.startRecall_keepsPort h ..) _

theorem State.reserveRun_keepsPort (h : KeepsPort a o s) (w : Nat) (k : ChangeKind) :
    KeepsPort a o (s.reserveRun w k) := by
  unfold State.reserveRun
  split
  · exact h.of_eq (by rfl)
  · exact h

theorem State.acceptParts_keepsPort (h : KeepsPort a o s) (tag : BitVec 8) (q : ChangeRequest) (e : Fin 16)
    (slot : Option (Fin 16)) : KeepsPort a o (s.acceptParts tag q e slot) := by
  unfold State.acceptParts
  extract_lets x s1 r s2
  have h2 : KeepsPort a o s2 := State.reserveRun_keepsPort (h.of_eq (by rfl)) ..
  split
  · exact h2
  · exact h2.of_eq (by rfl)

theorem takeChange_keepsPort (h : KeepsPort a o s) (kind tag : BitVec 8) (q : Except Reason ChangeRequest) :
    KeepsPort a o (takeChange kind tag q s) := by
  unfold takeChange
  split
  · exact State.sendSup_keepsPort h _
  · split
    · exact State.sendSup_keepsPort h _
    · have h1 := State.acceptParts_keepsPort h tag ‹ChangeRequest› ‹Fin 16› ‹Option (Fin 16)›
      dsimp only
      split
      · exact State.accept_keepsPort (h1.of_eq (by rfl)) _
      · exact startStandalone_keepsPort h1 _

theorem takeAbandon_keepsPort (h : KeepsPort a o s) (tag target : BitVec 8) :
    KeepsPort a o (takeAbandon tag target s) := by
  unfold takeAbandon
  split
  · exact State.sendSup_keepsPort h _
  · split
    · exact h
    · split
      · exact State.sendSup_keepsPort h _
      · exact retake_keepsPort cascade_keepsPort none _
          (State.sendSup_keepsPort (State.abandonParts_keepsPort h ..) _)

theorem State.putOutside_portsLaw (h : PortsLaw s) (b : AgentId) : PortsLaw (s.putOutside b) := by
  unfold State.putOutside
  split
  · rename_i hadm
    have hs : (s.port b).state = .admitted := by simpa [State.isAdmitted] using hadm
    exact h.departParts (by simp [hs]) (by simp) (by simp) ..
  · exact h

theorem takeExpiry_portsLaw (h : PortsLaw s) (e : Fin 16) (x : Entry) : PortsLaw (takeExpiry e x s) :=
  PortsLaw.of_keeps
    (foldl_keeps (P := PortsLaw) (fun _ b hu => State.putOutside_portsLaw hu b) _ _ (h.of_eq (by rfl)))
    fun a => endWaits_cascade_keepsPort s (.refl a _)

/-! ## Groups -/

theorem takeGroupOpen_keepsPort (h : KeepsPort a o s) (tag : BitVec 8) (g : Fin 4) :
    KeepsPort a o (takeGroupOpen tag g s) := by
  unfold takeGroupOpen
  split
  · exact State.sendSup_keepsPort (h.of_eq (by rfl)) _
  · exact State.sendSup_keepsPort h _

theorem startMember_keepsPort (h : KeepsPort a o s) (e : Fin 16) : KeepsPort a o (startMember e s) := by
  unfold startMember
  split
  · exact h
  · exact State.startRecall_keepsPort h ..

theorem commitGroup_keepsPort (h : KeepsPort a o s) (tag : BitVec 8) (g : Fin 4) :
    KeepsPort a o (commitGroup tag g s) := by
  unfold commitGroup
  extract_lets members s1 s2
  have h1 : KeepsPort a o s1 := foldl_keeps (P := KeepsPort a o) (fun _ e hu => startMember_keepsPort hu e) _ _ h
  clear_value s1
  have h2 : KeepsPort a o s2 := h1.of_eq (by rfl)
  split
  · exact applyGroup_keeps (cascadeKeeps_keepsPort a o none) cascade_keepsPort g s2 h2
  · exact State.accept_keepsPort h2 tag

theorem takeGroupCommit_keepsPort (h : KeepsPort a o s) (tag : BitVec 8) (g : Fin 4) :
    KeepsPort a o (takeGroupCommit tag g s) := by
  unfold takeGroupCommit
  split
  · exact State.sendSup_keepsPort h _
  · split
    · exact State.sendSup_keepsPort (h.of_eq (by rfl)) _
    · exact commitGroup_keepsPort h tag g

theorem takeGroupAbandon_keepsPort (h : KeepsPort a o s) (tag : BitVec 8) (g : Fin 4) :
    KeepsPort a o (takeGroupAbandon tag g s) := by
  unfold takeGroupAbandon
  split
  · exact State.sendSup_keepsPort h _
  · exact State.sendSup_keepsPort (State.closeGroup_keepsPort
      (foldl_keeps (P := KeepsPort a o) (fun _ e hu => abandonMember_keepsPort g e hu) _ _ h) ..) _

/-! ## ADMIT, FENCE, credit and RESTART -/

theorem PortsLaw.sendSup (h : PortsLaw s) (m : SupMsg) : PortsLaw (s.sendSup m) :=
  h.of_keeps fun a => State.sendSup_keepsPort (.refl a s) m

theorem PortsLaw.sendAgent (h : PortsLaw s) (b : AgentId) (m : AgentMsg) : PortsLaw (s.sendAgent b m) :=
  h.of_keeps fun a => State.sendAgent_keepsPort (.refl a s) b m

/-- A port on an UP link becomes ADMITTED and its gate opens. -/
theorem State.admit_portFits (h : s.PortFits b) (hd : (s.port b).state ≠ .down) {p : Port} (hp : p.state = .admitted) :
    ((s.setPort b p).setFence b true).PortFits b := by
  have hport : ((s.setPort b p).setFence b true).port b = p := s.port_setPort_self b p
  have hstate : (((s.setPort b p).setFence b true).port b).state = .admitted := by rw [hport, hp]
  have hup : ((s.setPort b p).setFence b true).isUp (.agent b) ≠ false := mt h.down.2 hd
  exact ⟨iff_of_false (by rw [hstate]; decide) hup, iff_of_true (by simp) hstate, absurd hstate⟩

theorem takeAdmit_portsLaw (h : PortsLaw s) (tag : BitVec 8) (b : AgentId) : PortsLaw (takeAdmit tag b s) := by
  unfold takeAdmit
  split
  · rename_i hs
    refine PortsLaw.sendSup (PortsLaw.sendAgent ?_ b _) _
    exact PortsLaw.of_port (fun a _ => h.ports a) h.links (fun a ha => State.setFence_keepsPort_of_ne
      (State.setPort_keepsPort_of_ne (.refl a s) ha _) ha true) (State.admit_portFits (h.ports b) (by simp [hs]) rfl)
  · exact h.sendSup _

theorem takeFence_portsLaw (h : PortsLaw s) (tag : BitVec 8) (b : AgentId) : PortsLaw (takeFence tag b s) := by
  refine PortsLaw.sendSup ?_ _
  split
  · rename_i hs
    exact h.depart (by simp [hs]) (by simp) (by simp) ..
  · rename_i hs
    exact (h.setState b _ (by simp [hs]) (by simp [hs]) (by simp) (by simp)).sendAgent b _
  all_goals exact h

theorem actNoticeCredit_keepsPort (h : KeepsPort a o s) (tag : BitVec 8) (n : Word) :
    KeepsPort a o (actNoticeCredit tag n s) := by
  refine request_keepsPort h ?_ ..
  unfold takeNoticeCredit
  split
  · exact State.sendSup_keepsPort h _
  · exact deliver_keepsPort (State.sendSup_keepsPort (h.of_eq (by rfl)) _) _

theorem Port.restarted_down (p : Port) : p.restarted.state = .down ↔ p.state = .down := by
  unfold Port.restarted
  split <;> simp [*]

theorem Port.restarted_not_admitted (p : Port) : p.restarted.state ≠ .admitted := by
  unfold Port.restarted
  split <;> simp [*]

theorem Port.restarted_tags (p : Port) : p.restarted.tags = noneOf 4 := by
  unfold Port.restarted
  split <;> rfl

/-- RESTART empties every port and leaves the DOWN ones DOWN (R145). -/
theorem State.restarted_portsLaw (h : PortsLaw s) : PortsLaw s.restarted where
  ports a := by
    have hport : s.restarted.port a = (s.port a).restarted := by simp [State.restarted, State.port]
    have hadm : (s.restarted.port a).state ≠ .admitted := hport ▸ (s.port a).restarted_not_admitted
    have hclosed : s.restarted.Closed a := by
      refine ⟨hadm, ?_, fun _ hp => absurd hp List.not_mem_nil, by rw [hport, Port.restarted_tags]⟩
      simp [State.table, State.restarted, State.reset]
    refine hclosed.portFits (noneOf_get a) ?_
    rw [hport, Port.restarted_down]
    exact (h.ports a).down
  links := h.links

theorem actRestart_portsLaw (h : PortsLaw s) (tag : BitVec 8) : PortsLaw (actRestart tag s) := by
  refine PortsLaw.sendSup (foldl_keeps (P := PortsLaw) (fun u b hu => ?_) _ _ (State.restarted_portsLaw h)) _
  split
  · exact hu
  · exact hu.sendAgent b _

theorem actUnknownKindMessage_keepsPort (h : KeepsPort a o s) (l : LinkId) (kind tag : BitVec 8) (body : List Word) :
    KeepsPort a o (actUnknownKindMessage l kind tag body s) := by
  cases l with
  | agent b => exact State.sendAgent_keepsPort h ..
  | sup => exact State.sendSup_keepsPort h _
  | mem => exact h

/-! ## Reports -/

theorem actQueryWindow_keepsPort (h : KeepsPort a o s) (tag : BitVec 8) (window : BitVec 16) :
    KeepsPort a o (actQueryWindow tag window s) := by
  refine request_keepsPort h ?_ ..
  split <;> exact State.sendSup_keepsPort h _

theorem actQueryAgent_keepsPort (h : KeepsPort a o s) (tag : BitVec 8) (agent : BitVec 9) :
    KeepsPort a o (actQueryAgent tag agent s) :=
  have hs (m : SupMsg) := State.sendSup_keepsPort h m
  request_keepsPort h (withAgent_keeps hs (fun _ => hs _) ..) ..

theorem actQueryFrames_keepsPort (h : KeepsPort a o s) (tag : BitVec 8) (base count : Word) :
    KeepsPort a o (actQueryFrames tag base count s) := by
  refine request_keepsPort h ?_ ..
  split <;> exact State.sendSup_keepsPort h _

theorem actQueryScrub_keepsPort (h : KeepsPort a o s) (tag : BitVec 8) : KeepsPort a o (actQueryScrub tag s) :=
  request_keepsPort h (State.sendSup_keepsPort (State.sendSup_keepsPort h _) _) ..

/-! ## Every step -/

theorem act_portsLaw (m : Instr) (h : PortsLaw s) : PortsLaw (act m s) := by
  have hs (m : SupMsg) : PortsLaw (s.sendSup m) := h.sendSup m
  have keep (a : AgentId) : KeepsPort a s s := .refl a s
  cases m with
  | lookup b tag window rights => exact h.of_keeps fun a => actLookup_keepsPort (keep a) ..
  | released b window generation => exact h.of_keeps fun a => actReleased_keepsPort (keep a) ..
  | returnSlot b tag slot => exact h.of_keeps fun a => actReturn_keepsPort (keep a) ..
  | flush b tag => exact h.of_keeps fun a => actFlush_keepsPort (keep a) ..
  | switch b tag context => exact h.of_keeps fun a => actSwitch_keepsPort (keep a) ..
  | join b => exact actJoin_portsLaw h b
  | configure tag frameCount recallDeadline initialScrub fillDeadline pattern =>
    exact h.of_keeps fun a => actConfigure_keepsPort (keep a) ..
  | create tag window cls scrub boundAgent boundContext rights base count =>
    exact h.of_keeps fun a => actCreate_keepsPort (keep a) ..
  | change tag window group rights run scrub =>
    exact h.of_keeps fun a => request_keepsPort (keep a) (takeChange_keepsPort (keep a) ..) ..
  | retire tag window group =>
    exact h.of_keeps fun a => request_keepsPort (keep a) (takeChange_keepsPort (keep a) ..) ..
  | abandon tag target =>
    exact h.of_keeps fun a => request_keepsPort (keep a) (takeAbandon_keepsPort (keep a) ..) ..
  | groupOpen tag group =>
    exact request_keeps hs (withGroup_keeps hs
      (fun g => h.of_keeps fun a => takeGroupOpen_keepsPort (keep a) tag g) ..) ..
  | groupCommit tag group =>
    exact request_keeps hs (withGroup_keeps hs
      (fun g => h.of_keeps fun a => takeGroupCommit_keepsPort (keep a) tag g) ..) ..
  | groupAbandon tag group =>
    exact request_keeps hs (withGroup_keeps hs
      (fun g => h.of_keeps fun a => takeGroupAbandon_keepsPort (keep a) tag g) ..) ..
  | admitAgent tag agent => exact request_keeps hs (withAgent_keeps hs (takeAdmit_portsLaw h tag) ..) ..
  | fence tag agent => exact request_keeps hs (withAgent_keeps hs (takeFence_portsLaw h tag) ..) ..
  | suspendScrub tag => exact h.of_keeps fun a => actSuspendScrub_keepsPort (keep a) tag
  | resumeScrub tag => exact h.of_keeps fun a => actResumeScrub_keepsPort (keep a) tag
  | rescrub tag base count => exact h.of_keeps fun a => actRescrub_keepsPort (keep a) ..
  | queryWindow tag window => exact h.of_keeps fun a => actQueryWindow_keepsPort (keep a) ..
  | queryAgent tag agent => exact h.of_keeps fun a => actQueryAgent_keepsPort (keep a) ..
  | queryFrames tag base count => exact h.of_keeps fun a => actQueryFrames_keepsPort (keep a) ..
  | queryScrub tag => exact h.of_keeps fun a => actQueryScrub_keepsPort (keep a) tag
  | noticeCredit tag n => exact h.of_keeps fun a => actNoticeCredit_keepsPort (keep a) ..
  | restart tag => exact actRestart_portsLaw h tag
  | filled status id seq => exact h.of_keeps fun a => actFilled_keepsPort (keep a) ..
  | unknownKindMessage l kind tag body => exact h.of_keeps fun a => actUnknownKindMessage_keepsPort (keep a) ..
  | _ => exact h

/-- The taking of a message returns the credit that it used (R163). -/
theorem State.returnCredit_portsLaw (h : PortsLaw s) {l : LinkId} {m : Instr} {rest : List Instr}
    (hb : (s.link l).buffer = m :: rest) : PortsLaw (s.returnCredit l rest) := by
  obtain ⟨credits, empty, own⟩ := h.links l
  have hup : (s.link l).state = .up := by
    by_contra hup
    simp [empty hup] at hb
  have hx : ({ s.link l with credits := (s.link l).credits + 1, buffer := rest } : Link).Fits l := by
    refine ⟨fun _ => ?_, fun hn => absurd hup hn, fun n hn => own n (hb ▸ List.mem_cons_of_mem m hn)⟩
    have := credits hup
    simp only [hb, List.length_cons] at this ⊢
    omega
  exact (h.setLink hx rfl).of_eq (by rfl)

theorem takeOldest_portsLaw (h : PortsLaw s) (l : LinkId) : PortsLaw (takeOldest l s) := by
  unfold takeOldest
  split
  · exact h
  · exact act_portsLaw _ (State.returnCredit_portsLaw h ‹_›)

theorem takeWaiting_portsLaw (h : PortsLaw s) : PortsLaw (takeWaiting s) := by
  unfold takeWaiting
  split
  · exact h
  · exact takeOldest_portsLaw (h.of_eq (by rfl)) _

/-- A message of the link that joins the receive buffer uses a credit (R163). -/
theorem State.bufferMessage_portsLaw (h : PortsLaw s) {l : LinkId} {m : Instr} (hup : s.isUp l = true)
    (hc : (s.link l).credits ≠ 0) (hm : (commandMessage m).map Prod.fst = some l) : PortsLaw (s.bufferMessage l m) := by
  obtain ⟨credits, -, own⟩ := h.links l
  refine h.setLink ⟨fun hu => ?_, fun hn => absurd (State.isUp_eq_true.1 hup) hn, fun n hn => ?_⟩ rfl
  · have := credits hu
    simp only [List.length_append, List.length_singleton]
    omega
  · rcases List.mem_append.1 hn with hn | hn
    · exact own n hn
    · rwa [List.mem_singleton.1 hn]

theorem receiveMessage_portsLaw (h : PortsLaw s) {l : LinkId} {m : Instr}
    (hm : (commandMessage m).map Prod.fst = some l) : PortsLaw (receiveMessage l m s) := by
  have hb : PortsLaw s.begin := h.of_eq (by rfl)
  rcases receiveMessage_cases l m s with ⟨-, hr⟩ | ⟨-, -, hr⟩ | ⟨hup, hc, hr⟩
  · exact hr ▸ hb
  · exact hr ▸ State.takeLinkError_portsLaw hb l
  · have hbuf := State.bufferMessage_portsLaw hb (by simpa using hup) (by simpa using hc) hm
    rcases hr with hr | hr
    · exact hr ▸ hbuf
    · exact hr ▸ takeOldest_portsLaw hbuf l

/-- RESET_N leaves every port DOWN and empty and every link DOWN (R145, R169). -/
theorem PortsLaw.of_reset (hr : s.portRecords = State.reset.portRecords) : PortsLaw s := by
  have hreset : PortsLaw State.reset := by
    refine ⟨fun a => ?_, fun l => ?_⟩
    · have hport : State.reset.port a = .initial := by simp [State.reset, State.port]
      have hup : State.reset.isUp (.agent a) = false := by
        simp [State.isUp, State.link, State.reset, Links.initial, Link.initial]
      have hclosed : State.reset.Closed a := by
        refine ⟨by rw [hport]; decide, ?_, fun _ hp => absurd hp List.not_mem_nil, by rw [hport]; rfl⟩
        simp [State.table, State.reset]
      exact hclosed.portFits (noneOf_get a) (iff_of_true (by rw [hport]; rfl) hup)
    · have hl : State.reset.link l = .initial := by cases l <;> simp [State.reset, State.link, Links.initial]
      rw [hl]
      exact ⟨fun hu => absurd hu (by decide), fun _ => rfl, fun _ hm => absurd hm List.not_mem_nil⟩
  exact hreset.of_eq hr

theorem exec_portsLaw (c : Instr) (h : PortsLaw s) : ∃ t, exec c s = .next t ∧ PortsLaw t := by
  have hb : PortsLaw s.begin := h.of_eq (by rfl)
  cases c with
  | recallDeadlineExpiry e =>
    refine ⟨_, rfl, ?_⟩
    split
    · exact hb
    · split
      · exact takeExpiry_portsLaw hb ..
      · exact hb
  | fillDeadlineExpiry id =>
    refine ⟨_, rfl, ?_⟩
    split
    · exact hb.of_keeps fun a => State.fillEnds_keepsPort (.refl a _) ..
    · exact hb
  | resetN => exact ⟨_, rfl, PortsLaw.of_reset (by rfl)⟩
  | carrierDetected l =>
    refine ⟨_, rfl, ?_⟩
    split
    · rename_i hl
      have hl : (s.begin.link l).state ≠ .up := by simp [hl.2]
      exact (hb.setLinkState l (st := .training) hl (by simp)).of_eq (by rfl)
    · exact hb
  | parameterWord l crcOk role linkNumber credits =>
    refine ⟨_, rfl, ?_⟩
    split
    · exact hb
    · rename_i hl
      split
      · exact State.comeUp_portsLaw hb (by simp [State.isUp, hl])
      · exact hb.of_eq (by rfl)
    · exact State.takeLinkError_portsLaw hb l
  | carrierLost l =>
    refine ⟨_, rfl, ?_⟩
    split
    · exact hb
    · rename_i hl
      exact hb.setLinkState l (by simp [hl]) (by simp)
    · exact State.takeCarrierLoss_portsLaw hb l
  | linkError l cause =>
    refine ⟨_, rfl, ?_⟩
    split
    · exact State.takeLinkError_portsLaw hb l
    · exact hb
  | creditReturnWord | messageInTraining | otherControlCodeWord => exact ⟨_, rfl, hb⟩
  | resetNRelease => exact ⟨_, rfl, hb.of_eq (by rfl)⟩
  | _ => exact ⟨_, exec_message rfl s, receiveMessage_portsLaw h rfl⟩

theorem step_portsLaw (h : PortsLaw s) : ∃ t, step s = .next t ∧ PortsLaw t := by
  unfold step
  split
  · exact ⟨_, rfl, takeWaiting_portsLaw h⟩
  · exact exec_portsLaw _ (h.of_eq (by rfl))

/-- Settles O51: an action that is not the port's own keeps a closed port closed, since it gives holdings and parked
lookups to ADMITTED agents only; a port leaves ADMITTED by a departure, RESTART or RESET_N, and each of them empties
it. -/
theorem emptyPortLawKept : Obligations.EmptyPortLawKept := by
  unfold Obligations.EmptyPortLawKept
  intro s t h hst
  obtain ⟨u, hu, hlaw⟩ := step_portsLaw (portsLaw_iff.2 h)
  cases hu.symm.trans hst
  exact portsLaw_iff.1 hlaw

end Sys2Proof.Machine
end

section
/-!
SUPPORT of the statements that every step keeps a law. A step is one action on the state: `ActionsKeep` names the actions,
each with the checks that have passed when it is taken, and `step_keeps` follows the dispatch, the receive buffers, the
common checks and every refusal once for all laws.
-/

namespace Sys2Proof.Machine

variable {s t : State}

/-! ## Sending -/

theorem State.sendSup_of_setOut {P : State → Prop} (out : ∀ s o, P s → P (s.setOut o)) (h : P s) (m : SupMsg) :
    P (s.sendSup m) := by
  unfold State.sendSup
  split
  · exact out _ _ h
  · exact h

theorem State.sendAgent_of_setOut {P : State → Prop} (out : ∀ s o, P s → P (s.setOut o)) (h : P s) (a : AgentId)
    (m : AgentMsg) : P (s.sendAgent a m) := by
  unfold State.sendAgent
  split
  · exact out _ _ h
  · exact h

/-! ## What has been checked -/

/-- The fields of a request for a change are within their values (checks 1 and 2 of R62). -/
structure ChangeRequest.Fits (q : ChangeRequest) (configured : Nat) : Prop where
  window : q.window < 4096
  run : ∀ r ∈ q.kind.newRun, 1 ≤ r.count ∧ r.base + r.count ≤ configured

theorem checkConfiguration_frameCount {n d p : Word} {b : Bool} {f : BitVec 8} {c : Configuration}
    (h : checkConfiguration n d b f p = some c) : 1 ≤ c.frameCount := by
  unfold checkConfiguration at h
  split at h
  · rename_i hn
    cases h
    exact hn.1
  · cases h

theorem windowNumber_eq_some {w : BitVec 16} {n : Nat} : windowNumber w = some n ↔ w.toNat = n ∧ n < 4096 := by
  unfold windowNumber Config.windows
  grind

theorem fieldBelow_eq_some {n v : Nat} {i : Fin n} : fieldBelow n v = some i ↔ v = i.val := by
  unfold fieldBelow
  split
  · simp only [Option.some.injEq, Fin.ext_iff]
  · simp only [reduceCtorEq, false_iff]
    omega

theorem fieldBelow_val {n v : Nat} (h : v < n) : fieldBelow n v = some ⟨v, h⟩ := dif_pos h

theorem fieldBelow_eq_none {n v : Nat} : fieldBelow n v = none ↔ n ≤ v := by
  unfold fieldBelow
  split <;> simp <;> omega

theorem checkRun_eq_ok {configured most : Nat} {base count : Word} {r : Run} :
    checkRun configured most base count = .ok r ↔
      base.toNat < 65536 ∧ 1 ≤ count.toNat ∧ count.toNat ≤ most ∧ base.toNat + count.toNat ≤ configured ∧
        r = ⟨base.toNat, count.toNat⟩ := by
  unfold checkRun
  grind

theorem readRetire_eq_ok {window : BitVec 16} {group : Option (BitVec 8)} {q : ChangeRequest} (configured : Nat)
    (h : readRetire window group = .ok q) : q.Fits configured := by
  unfold readRetire at h
  split at h
  · rename_i w g hw hg
    cases h
    exact ⟨(windowNumber_eq_some.1 hw).2, fun r hr => by simp [ChangeKind.newRun] at hr⟩
  · cases h

theorem readChange_eq_ok {configured : Nat} {window : BitVec 16} {group : Option (BitVec 8)}
    {rights : Option (BitVec 16)} {run : Option (Word × Word)} {scrub : Option Bool} {q : ChangeRequest}
    (h : readChange configured window group rights run scrub = .ok q) : q.Fits configured := by
  unfold readChange at h
  split at h
  · rename_i w g r hw hg hr
    split at h
    · cases h
    · rename_i n hn
      cases h
      refine ⟨(windowNumber_eq_some.1 hw).2, fun m hm => ?_⟩
      simp only [ChangeKind.newRun, Option.mem_def] at hm
      subst hm
      unfold checkNewRun at hn
      split at hn
      · cases hn
      · split at hn
        · cases hn
        · rename_i hc
          cases hn
          obtain ⟨-, one, -, fits, rfl⟩ := checkRun_eq_ok.1 hc
          exact ⟨one, fits⟩
  · cases h

theorem lookupRights_ne_none {c : BitVec 2} {r : Rights} (h : lookupRights c = some r) : r ≠ .none := by
  rintro rfl
  unfold lookupRights at h
  split at h
  · cases h
  · exact absurd h ‹_›

theorem lookupFields_eq_some {tag : BitVec 8} {window : BitVec 16} {rights : BitVec 2} {t : Fin 4} {w : Nat} {r : Rights}
    (h : lookupFields tag window rights = some (t, w, r)) :
    fieldBelow 4 tag.toNat = some t ∧ windowNumber window = some w ∧ lookupRights rights = some r := by
  unfold lookupFields at h
  split at h
  · cases h
    exact ⟨‹_›, ‹_›, ‹_›⟩
  · cases h

/-- The checks of a request on S have passed (R150). -/
theorem request_keeps_of_checks {P : State → Prop} (refused : ∀ m, P (s.sendSup m)) {kind tag : BitVec 8} {exempt : Bool}
    {act : State → State} (acts : (exempt = true ∨ s.isServing = true) → s.tagInUse tag = false → P (act s)) :
    P (request kind tag exempt act s) := by
  unfold request
  split
  · exact refused _
  · rename_i hx
    split
    · exact refused _
    · rename_i ht
      exact acts (by cases exempt <;> simp_all) (by simpa using ht)

/-! ## The actions -/

/-- Every action takes a state of I, in which its checks have passed, to one of Q. H m is what is known when message m
is taken. -/
structure ActionsKeep (I : State → Prop) (H : Instr → State → Prop) (Q : State → Prop) : Prop where
  idle : ∀ {s}, I s → Q s
  pre : ∀ {s m}, H m s → I s
  outPre : ∀ {s} o, I s → I (s.setOut o)
  out : ∀ s o, Q s → Q (s.setOut o)
  buffer : ∀ {s l m}, I s → s.isUp l = true → (s.link l).credits ≠ 0 → (commandMessage m).map Prod.fst = some l →
    I (s.bufferMessage l m)
  take : ∀ {s l m rest}, I s → (s.link l).buffer = m :: rest → H m (s.returnCredit l rest)
  reset : ∀ {s}, I s → Q { State.reset with behind := s.behind, pending := s.pending }
  released : ∀ {s}, I s → Q { s with resetN := true, carrier := true }
  setLinkState : ∀ {s l st}, I s → (s.link l).state ≠ .up → st ≠ .up → Q (s.setLink l { s.link l with state := st })
  comeUp : ∀ {s l}, I s → s.isUp l = false → Q (s.comeUp l)
  leaveUp : ∀ {s l st}, I s → s.isUp l = true → st ≠ .up → Q ((s.setLink l (.fresh st)).leaveUp l)
  expiry : ∀ {s e x}, I s → s.entry e = some x → x.deadline = .running → Q (takeExpiry e x s)
  fill : ∀ {s k f} ok, I s → s.fill k = some f → Q (s.fillEnds k f ok)
  lookup : ∀ {s a t w r}, I s → s.isAdmitted a = true → (s.port a).tags[t] = false → w < 4096 → r ≠ .none →
    Q (takeLookup a t w r s)
  count : ∀ {s a} w g, I s → s.isAdmitted a = true → Q (takeReleased a w g s)
  give : ∀ {s a} i, I s → s.isAdmitted a = true → Q (takeReturn a i s)
  flush : ∀ {s a}, I s → s.isAdmitted a = true → Q (takeFlush a s)
  switch : ∀ {s a} c, I s → s.isAdmitted a = true → Q (takeSwitch a c s)
  join : ∀ {s a}, I s → (s.port a).state = .outside → Q ((s.setPort a { s.port a with state := .waiting }).postPort a)
  depart : ∀ {s a st} r f p, I s → s.isAdmitted a = true → st ≠ .admitted → st ≠ .down → Q (s.depart a st r f p)
  openGate : ∀ {s a}, I s → (s.port a).state = .waiting →
    Q ((s.setPort a { s.port a with state := .admitted, context := 0 }).setFence a true)
  turnAway : ∀ {s a}, I s → (s.port a).state = .waiting →
    Q (s.setPort a { s.port a with state := .outside, reason := .supervisor })
  configure : ∀ {s c}, I s → s.isServing = false → 1 ≤ c.frameCount → Q (s.configureWith c)
  create : ∀ {s w l cls scrub ba bc r b n}, I s → createChecks w cls scrub ba bc r b n s = .ok l →
    Q (s.createWindow l.1 l.2)
  joinGroup : ∀ {s tag q l e slot g}, I s → s.isServing = true → q.Fits s.frameCount →
    s.changeChecks q = .ok (l, e, slot) → q.group = some g → Q ((s.acceptParts tag q e slot).joinGroup g e tag)
  standalone : ∀ {s tag q l e slot}, I s → s.isServing = true → q.Fits s.frameCount →
    s.changeChecks q = .ok (l, e, slot) → q.group = none → Q (startStandalone e (s.acceptParts tag q e slot))
  abandon : ∀ {s e x} m, I s → s.entry e = some x → x.group = none →
    Q (retake cascade none x.window ((s.abandonParts e x).sendSup m))
  openGroup : ∀ {s g}, I s → (s.group g).state = .free → Q (s.setGroup g { state := .opened, members := [] })
  freeGroup : ∀ {s g}, I s → (s.group g).state = .opened → (s.group g).members = [] → Q (s.setGroup g .initial)
  commit : ∀ {s g} tag, I s → (s.group g).state = .opened → (s.group g).members ≠ [] → Q (commitGroup tag g s)
  abandonGroup : ∀ {s g}, I s → (s.group g).state ≠ .free →
    Q (((s.group g).members.foldl (fun s e => abandonMember g e s) s).closeGroup g .abandoned (s.groupLost g))
  suspend : ∀ {s}, I s → s.scrub.engine = .idle ∨ s.scrub.engine = .running ∧ s.quiet = true → Q (s.setEngine .suspended)
  suspendLater : ∀ {s} tag, I s → s.scrub.engine = .running → s.quiet = false →
    Q ((s.setEngine (.suspending tag)).addTag tag)
  resume : ∀ {s}, I s → s.scrub.engine = .suspended → Q s.resume
  resumeEarly : ∀ {s t}, I s → s.scrub.engine = .suspending t →
    Q ((s.finish t .abandoned none (noneOf 8) none).resume)
  rescrub : ∀ {s base count r i}, I s → s.isServing = true →
    checkRun s.frameCount Config.maxFramesPerWindow base count = .ok r → s.runAll r (· == .quarantined) = true →
    s.freeSlot = some i → Q (s.rescrubRun r i)
  credit : ∀ {s tag n} m, H (.noticeCredit tag n) s →
    Q (deliver ((s.setCredit (min (s.credit + n.toNat) 255)).sendSup m).outbox
      ((s.setCredit (min (s.credit + n.toNat) 255)).sendSup m))
  restart : ∀ {s}, I s → Q s.restarted

variable {I : State → Prop} {H : Instr → State → Prop} {Q : State → Prop}

namespace ActionsKeep

theorem sup (k : ActionsKeep I H Q) (h : Q s) (m : SupMsg) : Q (s.sendSup m) := State.sendSup_of_setOut k.out h m

theorem agent (k : ActionsKeep I H Q) (h : Q s) (a : AgentId) (m : AgentMsg) : Q (s.sendAgent a m) :=
  State.sendAgent_of_setOut k.out h a m

/-- A request on S whose own action ends in Q. -/
theorem request (k : ActionsKeep I H Q) (h : I s) {kind tag : BitVec 8} {exempt : Bool} {act : State → State}
    (acts : (exempt = true ∨ s.isServing = true) → Q (act s)) : Q (Machine.request kind tag exempt act s) :=
  request_keeps_of_checks (k.sup (k.idle h)) fun hx _ => acts hx

theorem actLookup (k : ActionsKeep I H Q) (h : I s) (a : AgentId) (tag : BitVec 8) (window : BitVec 16)
    (rights : BitVec 2) : Q (actLookup a tag window rights s) := by
  unfold Machine.actLookup lookupChecks
  split
  · exact k.agent (k.idle h) a _
  · rename_i ha
    split
    · exact k.agent (k.idle h) a _
    · rename_i ht
      split
      · exact k.agent (k.idle h) a _
      · rename_i t w r hf
        obtain ⟨htag, hw, hr⟩ := lookupFields_eq_some hf
        refine k.lookup h (by simpa using ha) ?_ (windowNumber_eq_some.1 hw).2 (lookupRights_ne_none hr)
        simpa [State.lookupTagInUse, htag] using ht

theorem actReleased (k : ActionsKeep I H Q) (h : I s) (a : AgentId) (window generation : BitVec 16) :
    Q (actReleased a window generation s) := by
  unfold Machine.actReleased
  split
  · exact k.count _ _ h ‹_›
  · exact k.idle h

theorem actReturn (k : ActionsKeep I H Q) (h : I s) (a : AgentId) (tag : BitVec 8) (slot : BitVec 9) :
    Q (actReturn a tag slot s) := by
  unfold Machine.actReturn
  split
  · exact k.agent (k.idle h) a _
  · rename_i ha
    split
    · exact k.agent (k.idle h) a _
    · exact k.give _ h (by simpa using ha)

theorem actFlush (k : ActionsKeep I H Q) (h : I s) (a : AgentId) (tag : BitVec 8) : Q (actFlush a tag s) := by
  unfold Machine.actFlush
  split
  · exact k.agent (k.idle h) a _
  · rename_i ha
    exact k.flush h (by simpa using ha)

theorem actSwitch (k : ActionsKeep I H Q) (h : I s) (a : AgentId) (tag : BitVec 8) (context : BitVec 9) :
    Q (actSwitch a tag context s) := by
  unfold Machine.actSwitch
  split
  · exact k.agent (k.idle h) a _
  · rename_i ha
    split
    · exact k.agent (k.idle h) a _
    · exact k.switch _ h (by simpa using ha)

theorem actJoin (k : ActionsKeep I H Q) (h : I s) (a : AgentId) : Q (actJoin a s) := by
  unfold Machine.actJoin takeJoin
  split
  · exact k.idle h
  · exact k.idle h
  · exact k.join h ‹_›
  · exact k.depart _ _ _ h (by simp [State.isAdmitted, *]) (by simp) (by simp)

theorem actConfigure (k : ActionsKeep I H Q) (h : I s) (tag : BitVec 8) (frameCount recallDeadline : Word)
    (initialScrub : Bool) (fillDeadline : BitVec 8) (pattern : Word) :
    Q (actConfigure tag frameCount recallDeadline initialScrub fillDeadline pattern s) := by
  refine k.request h fun _ => ?_
  unfold takeConfigure
  split
  · exact k.sup (k.idle h) _
  · rename_i hs
    split
    · exact k.sup (k.idle h) _
    · exact k.sup (k.configure h (by simpa using hs) (checkConfiguration_frameCount ‹_›)) _

theorem actCreate (k : ActionsKeep I H Q) (h : I s) (tag : BitVec 8) (window : BitVec 16) (cls : BitVec 8) (scrub : Bool)
    (boundAgent boundContext : BitVec 8) (rights : BitVec 16) (base count : Word) :
    Q (actCreate tag window cls scrub boundAgent boundContext rights base count s) := by
  refine k.request h fun _ => ?_
  split
  · exact k.sup (k.idle h) _
  · exact k.sup (k.create h ‹_›) _

/-- A CHANGE or RETIRE whose fields, where they could be read, are within their values. -/
theorem takeChange (k : ActionsKeep I H Q) (h : I s) (hs : s.isServing = true) (kind tag : BitVec 8)
    {q : Except Reason ChangeRequest} (hq : ∀ p, q = .ok p → p.Fits s.frameCount) : Q (takeChange kind tag q s) := by
  unfold Machine.takeChange
  split
  · exact k.sup (k.idle h) _
  · split
    · exact k.sup (k.idle h) _
    · rename_i hc
      dsimp only
      split
      · exact k.joinGroup h hs (hq _ rfl) hc ‹_›
      · exact k.standalone h hs (hq _ rfl) hc ‹_›

theorem takeAbandon (k : ActionsKeep I H Q) (h : I s) (tag target : BitVec 8) : Q (takeAbandon tag target s) := by
  unfold Machine.takeAbandon
  split
  · exact k.sup (k.idle h) _
  · split
    · exact k.idle h
    · split
      · exact k.sup (k.idle h) _
      · rename_i hg
        exact k.abandon _ h ‹_› (by simpa using hg)

theorem takeGroupOpen (k : ActionsKeep I H Q) (h : I s) (tag : BitVec 8) (g : Fin 4) : Q (takeGroupOpen tag g s) := by
  unfold Machine.takeGroupOpen
  split
  · exact k.sup (k.openGroup h ‹_›) _
  · exact k.sup (k.idle h) _

theorem takeGroupCommit (k : ActionsKeep I H Q) (h : I s) (tag : BitVec 8) (g : Fin 4) :
    Q (takeGroupCommit tag g s) := by
  unfold Machine.takeGroupCommit
  split
  · exact k.sup (k.idle h) _
  · rename_i ho
    split
    · exact k.sup (k.freeGroup h (by simpa using ho) ‹_›) _
    · exact k.commit _ h (by simpa using ho) ‹_›

theorem takeGroupAbandon (k : ActionsKeep I H Q) (h : I s) (tag : BitVec 8) (g : Fin 4) :
    Q (takeGroupAbandon tag g s) := by
  unfold Machine.takeGroupAbandon
  split
  · exact k.sup (k.idle h) _
  · exact k.sup (k.abandonGroup h ‹_›) _

theorem takeAdmit (k : ActionsKeep I H Q) (h : I s) (tag : BitVec 8) (a : AgentId) : Q (takeAdmit tag a s) := by
  unfold Machine.takeAdmit
  split
  · exact k.sup (k.agent (k.openGate h ‹_›) a _) _
  · exact k.sup (k.idle h) _

theorem takeFence (k : ActionsKeep I H Q) (h : I s) (tag : BitVec 8) (a : AgentId) : Q (takeFence tag a s) := by
  refine k.sup ?_ _
  split
  · exact k.depart _ _ _ h (by simp [State.isAdmitted, *]) (by simp) (by simp)
  · exact k.agent (k.turnAway h ‹_›) a _
  all_goals exact k.idle h

theorem takeSuspend (k : ActionsKeep I H Q) (h : I s) (tag : BitVec 8) : Q (takeSuspend tag s) := by
  unfold Machine.takeSuspend
  split
  · split
    · exact k.sup (k.suspend h (.inr ⟨‹_›, ‹_›⟩)) _
    · rename_i hq
      exact k.suspendLater tag h ‹_› (by simpa using hq)
  · exact k.sup (k.suspend h (.inl ‹_›)) _
  all_goals exact k.sup (k.idle h) _

theorem takeResume (k : ActionsKeep I H Q) (h : I s) (tag : BitVec 8) : Q (takeResume tag s) := by
  unfold Machine.takeResume
  split
  · exact k.sup (k.resume h ‹_›) _
  · exact k.sup (k.resumeEarly h ‹_›) _
  all_goals exact k.sup (k.idle h) _

theorem takeRescrub (k : ActionsKeep I H Q) (h : I s) (hs : s.isServing = true) (tag : BitVec 8) (base count : Word) :
    Q (takeRescrub tag base count s) := by
  unfold Machine.takeRescrub
  split
  · exact k.sup (k.idle h) _
  · split
    · exact k.sup (k.idle h) _
    · rename_i hq
      split
      · exact k.sup (k.idle h) _
      · exact k.sup (k.rescrub h hs ‹_› (by simpa using hq) ‹_›) _

theorem takeNoticeCredit (k : ActionsKeep I H Q) {tag : BitVec 8} {n : Word} (h : H (.noticeCredit tag n) s) :
    Q (takeNoticeCredit tag n s) := by
  unfold Machine.takeNoticeCredit
  split
  · exact k.sup (k.idle (k.pre h)) _
  · exact k.credit _ h

theorem actRestart (k : ActionsKeep I H Q) (h : I s) (tag : BitVec 8) : Q (actRestart tag s) := by
  refine k.sup (foldl_keeps (fun u a hu => ?_) _ _ (k.restart h)) _
  split
  · exact hu
  · exact k.agent hu a _

theorem actFilled (k : ActionsKeep I H Q) (h : I s) (status : BitVec 8) (id : BitVec 2) (seq : BitVec 16) :
    Q (actFilled status id seq s) := by
  unfold Machine.actFilled takeFilled
  split
  · split
    · exact k.fill _ h ‹_›
    · exact k.idle h
  · exact k.idle h

theorem actUnknownKindMessage (k : ActionsKeep I H Q) (h : I s) (l : LinkId) (kind tag : BitVec 8) (body : List Word) :
    Q (actUnknownKindMessage l kind tag body s) := by
  cases l with
  | agent a => exact k.agent (k.idle h) a _
  | sup => exact k.sup (k.idle h) _
  | mem => exact k.idle h

theorem withAgent (k : ActionsKeep I H Q) (h : I s) {kind tag : BitVec 8} {agent : BitVec 9}
    {act : AgentId → State → State} (acts : ∀ a, Q (act a s)) : Q (Machine.withAgent kind tag agent act s) :=
  withAgent_keeps (k.sup (k.idle h)) acts ..

theorem withGroup (k : ActionsKeep I H Q) (h : I s) {kind tag : BitVec 8} {group : BitVec 9}
    {act : Fin 4 → State → State} (acts : ∀ g, Q (act g s)) : Q (Machine.withGroup kind tag group act s) :=
  withGroup_keeps (k.sup (k.idle h)) acts ..

theorem act (k : ActionsKeep I H Q) {m : Instr} (hm : H m s) : Q (act m s) := by
  have h : I s := k.pre hm
  have sent (m : SupMsg) : Q (s.sendSup m) := k.sup (k.idle h) m
  have serves (h : false = true ∨ s.isServing = true) : s.isServing = true := h.resolve_left (by simp)
  cases m with
  | lookup a tag window rights => exact k.actLookup h ..
  | released a window generation => exact k.actReleased h ..
  | returnSlot a tag slot => exact k.actReturn h ..
  | flush a tag => exact k.actFlush h ..
  | switch a tag context => exact k.actSwitch h ..
  | join a => exact k.actJoin h a
  | configure tag frameCount recallDeadline initialScrub fillDeadline pattern => exact k.actConfigure h ..
  | create tag window cls scrub boundAgent boundContext rights base count => exact k.actCreate h ..
  | change tag window group rights run scrub =>
    exact k.request h fun hs => k.takeChange h (serves hs) _ _ fun _ hq => readChange_eq_ok hq
  | retire tag window group =>
    exact k.request h fun hs => k.takeChange h (serves hs) _ _ fun _ hq => readRetire_eq_ok _ hq
  | abandon tag target => exact k.request h fun _ => k.takeAbandon h ..
  | groupOpen tag group => exact k.request h fun _ => k.withGroup h fun g => k.takeGroupOpen h tag g
  | groupCommit tag group => exact k.request h fun _ => k.withGroup h fun g => k.takeGroupCommit h tag g
  | groupAbandon tag group => exact k.request h fun _ => k.withGroup h fun g => k.takeGroupAbandon h tag g
  | admitAgent tag agent => exact k.request h fun _ => k.withAgent h fun a => k.takeAdmit h tag a
  | fence tag agent => exact k.request h fun _ => k.withAgent h fun a => k.takeFence h tag a
  | suspendScrub tag => exact k.request h fun _ => k.takeSuspend h tag
  | resumeScrub tag => exact k.request h fun _ => k.takeResume h tag
  | rescrub tag base count => exact k.request h fun hs => k.takeRescrub h (serves hs) ..
  | queryWindow tag window =>
    unfold Machine.act actQueryWindow
    refine k.request h fun _ => ?_
    split <;> exact sent _
  | queryAgent tag agent =>
    unfold Machine.act actQueryAgent
    exact k.request h fun _ => k.withAgent h fun _ => sent _
  | queryFrames tag base count =>
    unfold Machine.act actQueryFrames
    refine k.request h fun _ => ?_
    split <;> exact sent _
  | queryScrub tag =>
    unfold Machine.act actQueryScrub
    exact k.request h fun _ => k.sup (sent _) _
  | noticeCredit tag n =>
    unfold Machine.act actNoticeCredit
    exact k.request h fun _ => k.takeNoticeCredit hm
  | restart tag => exact k.actRestart h tag
  | filled status id seq => exact k.actFilled h ..
  | unknownKindMessage l kind tag body => exact k.actUnknownKindMessage h ..
  | _ => exact k.idle h

/-! ## Every step -/

theorem takeOldest (k : ActionsKeep I H Q) (h : I s) (l : LinkId) : Q (takeOldest l s) := by
  unfold Machine.takeOldest
  split
  · exact k.idle h
  · exact k.act (k.take h ‹_›)

theorem takeWaiting (k : ActionsKeep I H Q) (h : I s) : Q (takeWaiting s) := by
  unfold Machine.takeWaiting
  split
  · exact k.idle h
  · exact k.takeOldest (k.outPre _ h) _

/-- A link error on an UP link (R162). -/
theorem takeLinkError (k : ActionsKeep I H Q) (h : I s) {l : LinkId} (hup : s.isUp l = true) : Q (s.takeLinkError l) :=
  k.leaveUp (s := s.sendParameterWord l) (k.outPre _ h) hup (by simp)

theorem receiveMessage (k : ActionsKeep I H Q) (h : I s) {l : LinkId} {m : Instr}
    (hm : (commandMessage m).map Prod.fst = some l) : Q (receiveMessage l m s) := by
  have hb : I s.begin := k.outPre _ h
  rcases receiveMessage_cases l m s with ⟨-, hr⟩ | ⟨hup, -, hr⟩ | ⟨hup, hc, hr⟩
  · exact hr ▸ k.idle hb
  · exact hr ▸ k.takeLinkError hb hup
  · have hbuf : I (s.begin.bufferMessage l m) := k.buffer hb hup hc hm
    rcases hr with hr | hr
    · exact hr ▸ k.idle hbuf
    · exact hr ▸ k.takeOldest hbuf l

theorem exec (k : ActionsKeep I H Q) (h : I s) (c : Instr) : ∃ t, exec c s = .next t ∧ Q t := by
  have hb : I s.begin := k.outPre _ h
  cases c with
  | recallDeadlineExpiry e =>
    refine ⟨_, rfl, ?_⟩
    split
    · exact k.idle hb
    · split
      · exact k.expiry hb ‹_› ‹_›
      · exact k.idle hb
  | fillDeadlineExpiry id =>
    refine ⟨_, rfl, ?_⟩
    split
    · exact k.fill _ hb ‹_›
    · exact k.idle hb
  | resetN => exact ⟨_, rfl, k.reset h⟩
  | carrierDetected l =>
    refine ⟨_, rfl, ?_⟩
    split
    · rename_i hl
      exact k.out _ _ (k.setLinkState (st := .training) hb (by simp [hl.2]) (by simp))
    · exact k.idle hb
  | parameterWord l crcOk role linkNumber credits =>
    refine ⟨_, rfl, ?_⟩
    split
    · exact k.idle hb
    · rename_i hl
      split
      · exact k.comeUp hb (by simp [State.isUp, hl])
      · exact k.idle (k.outPre _ hb)
    · rename_i hl
      exact k.takeLinkError hb (by simp [State.isUp, hl])
  | carrierLost l =>
    refine ⟨_, rfl, ?_⟩
    split
    · exact k.idle hb
    · rename_i hl
      exact k.setLinkState (s := s.begin) (st := .down) hb (by simp [hl]) (by simp)
    · rename_i hl
      exact k.leaveUp hb (by simp [State.isUp, hl]) (by simp)
  | linkError l cause =>
    refine ⟨_, rfl, ?_⟩
    split
    · exact k.takeLinkError hb ‹_›
    · exact k.idle hb
  | creditReturnWord | messageInTraining | otherControlCodeWord => exact ⟨_, rfl, k.idle hb⟩
  | resetNRelease => exact ⟨_, rfl, k.released hb⟩
  | _ => exact ⟨_, exec_message rfl s, k.receiveMessage h rfl⟩

end ActionsKeep

/-- One step from a state of I ends in Q, where I does not read the queue. -/
theorem step_keeps (k : ActionsKeep I H Q) (front : ∀ {s} q, I s → I { s with pending := q }) (h : I s) (hst : step s = .next t) : Q t := by
  unfold step at hst
  split at hst
  · cases hst
    exact k.takeWaiting h
  · obtain ⟨u, hu, hq⟩ := k.exec (front _ h) _
    cases hu.symm.trans hst
    exact hq

end Sys2Proof.Machine
end

section
/-!
SUPPORT of the laws that read no port and no link but S. The actions are taken apart once more (`PartsKeep`), down to
the writes of single records: an end of a change keeps a law when each of its parts does, wherever it stands in the
cascade.
-/

namespace Sys2Proof.Machine

variable {s t : State} {I P : State → Prop} {H : Instr → State → Prop}

/-- An entry is rewritten only in what its recall round changes. -/
structure Entry.SameRequest (x y : Entry) : Prop where
  tag : y.tag = x.tag
  window : y.window = x.window
  kind : y.kind = x.kind
  group : y.group = x.group
  scrubSlot : y.scrubSlot = x.scrubSlot

/-- A slot table is written with its recalled and regranted sets in canonical form (R68). -/
structure SlotTable.SetsKept (t u : SlotTable) : Prop where
  recalled : NatSetWf t.recalled → NatSetWf u.recalled
  regranted : NatSetWf t.regranted → NatSetWf u.regranted

/-- The parts of the actions keep P, from states of I where an action starts. H m is what is known when message m is
taken. -/
structure PartsKeep (I : State → Prop) (H : Instr → State → Prop) (P : State → Prop) : Prop where
  law : ∀ {s}, I s → P s
  pre : ∀ {s m}, H m s → I s
  outPre : ∀ {s} o, I s → I (s.setOut o)
  buffer : ∀ {s l m}, I s → s.isUp l = true → (s.link l).credits ≠ 0 → (commandMessage m).map Prod.fst = some l →
    I (s.bufferMessage l m)
  take : ∀ {s l m rest}, I s → (s.link l).buffer = m :: rest → H m (s.returnCredit l rest)
  out : ∀ s o, P s → P (s.setOut o)
  table : ∀ {s a u}, P s → (s.table a).SetsKept u → P (s.setTable a u)
  holders : ∀ {s w x}, P s → P (s.setWindow w { s.window w with holders := x })
  port : ∀ {s} a p, P s → P (s.setPort a p)
  fence : ∀ {s} a b, P s → P (s.setFence a b)
  park : ∀ {s} l, P s → P (s.setPark l)
  entry : ∀ {s e x y}, P s → s.entry e = some x → x.SameRequest y → P (s.setEntry e (some y))
  group : ∀ {s} g x, P s → P (s.setGroup g x)
  addTag : ∀ {s} t, P s → P (s.addTag t)
  freeTag : ∀ {s} t, P s → P (s.freeTag t)
  post : ∀ {s} a, P s → P (s.postPort a)
  apply : ∀ {s e x}, P s → s.entry e = some x → P (s.applyParts e x)
  abandon : ∀ {s e x}, P s → s.entry e = some x → P (s.abandonParts e x)
  accepts : ∀ {s tag q l e slot}, P s → s.isServing = true → q.Fits s.frameCount →
    s.changeChecks q = .ok (l, e, slot) → P (s.acceptParts tag q e slot)
  reset : ∀ {s}, I s → P { State.reset with behind := s.behind, pending := s.pending }
  released : ∀ {s}, P s → P { s with resetN := true, carrier := true }
  restart : ∀ {s}, P s → P s.restarted
  linkState : ∀ {s l st}, I s → (s.link l).state ≠ .up → st ≠ .up → P (s.setLink l { s.link l with state := st })
  linkUp : ∀ {s l}, P s → s.isUp l = false → P (s.setLink l (.fresh .up))
  linkDown : ∀ {s l st}, P s → st ≠ .up → l ≠ .sup → P (s.setLink l (.fresh st))
  loseSup : ∀ {s st}, P s → st ≠ .up → P ((s.setLink .sup (.fresh st)).setCredit 0)
  drive : ∀ {s}, P s → P s.drive
  loseMem : ∀ {s}, P s → P s.loseMem
  fill : ∀ {s k f} ok, P s → s.fill k = some f → P (s.fillEnds k f ok)
  configure : ∀ {s c}, P s → s.isServing = false → 1 ≤ c.frameCount → P (s.configureWith c)
  create : ∀ {s w l cls scrub ba bc r b n}, P s → createChecks w cls scrub ba bc r b n s = .ok l →
    P (s.createWindow l.1 l.2)
  suspend : ∀ {s}, P s → s.scrub.engine = .idle ∨ s.scrub.engine = .running ∧ s.quiet = true → P (s.setEngine .suspended)
  suspendLater : ∀ {s} tag, P s → s.scrub.engine = .running → s.quiet = false → P (s.setEngine (.suspending tag))
  resume : ∀ {s}, P s → s.scrub.engine = .suspended ∨ (∃ t, s.scrub.engine = .suspending t) → P s.resume
  rescrub : ∀ {s base count r i}, P s → s.isServing = true →
    checkRun s.frameCount Config.maxFramesPerWindow base count = .ok r → s.runAll r (· == .quarantined) = true →
    s.freeSlot = some i → P (s.rescrubRun r i)
  credit : ∀ {s tag n} m, H (.noticeCredit tag n) s →
    P (deliver ((s.setCredit (min (s.credit + n.toNat) 255)).sendSup m).outbox
      ((s.setCredit (min (s.credit + n.toNat) 255)).sendSup m))

theorem SlotTable.SetsKept.of_eq {t u : SlotTable} (h : u.recalled = t.recalled) (k : u.regranted = t.regranted) :
    t.SetsKept u := ⟨fun w => h ▸ w, fun w => k ▸ w⟩

theorem SlotTable.SetsKept.empty (t : SlotTable) {u : SlotTable} (h : u.recalled = []) (k : u.regranted = []) :
    t.SetsKept u := ⟨fun _ => h ▸ List.Pairwise.nil, fun _ => k ▸ List.Pairwise.nil⟩

namespace PartsKeep

theorem sup (k : PartsKeep I H P) (h : P s) (m : SupMsg) : P (s.sendSup m) := State.sendSup_of_setOut k.out h m

theorem agent (k : PartsKeep I H P) (h : P s) (a : AgentId) (m : AgentMsg) : P (s.sendAgent a m) :=
  State.sendAgent_of_setOut k.out h a m

theorem finish (k : PartsKeep I H P) (h : P s) (tag : BitVec 8) (o : DoneOutcome) (g : Option (BitVec 16))
    (l : FinSet 8) (i : Option (Fin 16)) : P (s.finish tag o g l i) :=
  k.sup (k.freeTag tag h) _

theorem accept (k : PartsKeep I H P) (h : P s) (tag : BitVec 8) : P (s.accept tag) := k.sup (k.addTag tag h) _

/-! ## The Slot Mirror -/

theorem report (k : PartsKeep I H P) (h : P s) (ab : Option (Fin 4)) (a : AgentId) (w : Nat) (d : Bool) :
    P (s.report ab a w d) := by
  rcases s.report_cases ab a w d with hr | ⟨e, x, -, hx, -, -, hr⟩ <;> rw [hr]
  · exact h
  · exact k.entry h hx ⟨by rfl, by rfl, by rfl, by rfl, by rfl⟩

theorem removeSlot (k : PartsKeep I H P) (h : P s) (ab : Option (Fin 4)) (a : AgentId) (d : Bool) (i : Fin 64) :
    P (s.removeSlot ab a d i) := by
  cases hh : (s.table a).slots[i] with
  | none => rwa [State.removeSlot_empty hh]
  | some x =>
    rw [State.removeSlot_held hh]
    exact k.report (k.holders (k.table h (.of_eq (by rfl) (by rfl)))) ab a x.window d

theorem removeWhere (k : PartsKeep I H P) (h : P s) (a : AgentId) (d : Bool) (pick : Holding → Bool) :
    P (s.removeWhere a d pick) :=
  foldl_keeps (P := P)
    (fun u i hu => by
      split
      · split
        · exact k.removeSlot hu none a d i
        · exact hu
      · exact hu)
    _ _ h

theorem sendGrant (k : PartsKeep I H P) (h : P s) (a : AgentId) (tag : Fin 4) (i : Fin 64) (w : Nat) (l : LiveFields)
    (r : Rights) (ev : Option Nat) : P (s.sendGrant a tag i w l r ev) := by
  unfold State.sendGrant
  dsimp only
  split
  · exact k.agent (k.table h ⟨by exact id, by exact fun hr => natSetWf_insert hr w⟩) a _
  · exact k.agent h a _

theorem sendRecall (k : PartsKeep I H P) (h : P s) (w : Nat) (a : AgentId) : P (s.sendRecall w a) := by
  unfold State.sendRecall
  dsimp only
  split
  · exact h
  · exact k.agent (k.table h ⟨by exact fun hr => natSetWf_insert hr w, by exact fun hr => natSetWf_erase hr w⟩) a _

theorem grant (k : PartsKeep I H P) {c : EndWait} (hc : ∀ e s, P s → P (c e s)) (ab : Option (Fin 4)) (a : AgentId)
    (tag : Fin 4) (w : Nat) (r : Rights) (l : LiveFields) (h : P s) : P (grant c ab a tag w r l s) := by
  unfold Machine.grant
  dsimp only
  split
  · exact k.sendGrant (k.table h (.of_eq (by rfl) (by rfl))) ..
  · exact endWaits_keeps hc _ _ (k.sendGrant (k.holders (k.table (k.removeSlot h ..) (.of_eq (by rfl) (by rfl)))) ..)

theorem setLookupTag (k : PartsKeep I H P) (h : P s) (a : AgentId) (t : Fin 4) (b : Bool) : P (s.setLookupTag a t b) :=
  k.port _ _ h

theorem setPointer (k : PartsKeep I H P) (h : P s) (a : AgentId) (p : Fin 64) : P (s.setPointer a p) :=
  k.table h (.of_eq (by rfl) (by rfl))

/-! ## Ends of changes -/

theorem answerLookup (k : PartsKeep I H P) {c : EndWait} (hc : ∀ e s, P s → P (c e s)) (ab : Option (Fin 4))
    (a : AgentId) (tag : Fin 4) (w : Nat) (r : Rights) (h : P s) : P (answerLookup c ab a tag w r s) := by
  unfold Machine.answerLookup
  split
  · exact k.agent h a _
  · split
    · exact k.agent h a _
    · exact k.grant hc ab a tag w r _ h

theorem retake (k : PartsKeep I H P) {c : EndWait} (hc : ∀ e s, P s → P (c e s)) (ab : Option (Fin 4)) (w : Nat)
    (h : P s) : P (retake c ab w s) :=
  retake_keeps (fun l _ h => k.park l h) (fun a t _ h => k.setLookupTag h a t false) (fun a _ _ _ _ h => k.agent h a _)
    (fun a tag w r l _ h => k.grant hc ab a tag w r l h) w s h

theorem closeGroup (k : PartsKeep I H P) (h : P s) (g : Fin 4) (o : DoneOutcome) (l : FinSet 8) :
    P (s.closeGroup g o l) := by
  unfold State.closeGroup
  dsimp only
  split
  · exact k.group _ _ (k.finish h ..)
  · exact k.group _ _ h

theorem cascadeKeeps (k : PartsKeep I H P) (ab : Option (Fin 4)) : CascadeKeeps P ab where
  retake _ hc w _ h := k.retake hc ab w h
  apply _ _ _ hx h := k.apply h hx
  ready _ _ _ hx h := k.entry h hx ⟨by rfl, by rfl, by rfl, by rfl, by rfl⟩
  close g o l _ h := k.closeGroup h g o l

theorem cascadeDepth (k : PartsKeep I H P) (ab : Option (Fin 4)) (n : Nat) (e : Fin 16) (s : State) (h : P s) :
    P (cascadeDepth ab n e s) :=
  cascadeDepth_keeps (k.cascadeKeeps ab) n e s h

theorem endWaits (k : PartsKeep I H P) (s : State) (h : P t) : P (endWaits cascade s t) :=
  endWaits_keeps (k.cascadeDepth none _) s t h

theorem abandonMember (k : PartsKeep I H P) (g : Fin 4) (e : Fin 16) (h : P s) : P (abandonMember g e s) := by
  unfold Machine.abandonMember
  split
  · exact h
  · exact k.retake (k.cascadeDepth _ _) _ _ (k.abandon h ‹_›)

/-! ## Departures -/

theorem departParts (k : PartsKeep I H P) (h : P s) (a : AgentId) (st : PortState) (r : PortReason)
    (fenced posted : Bool) : P (s.departParts a st r fenced posted) := by
  unfold State.departParts
  extract_lets port s1 s2 table s3 s4 tags s5 s6
  have h2 : P s2 := k.removeWhere (k.fence _ _ (k.port _ _ h)) a true _
  have h3 : P s3 := k.table h2 (.empty _ (by rfl) (by rfl))
  have h5 : P s5 := k.port _ _ (k.park _ h3)
  have h6 : P s6 := by
    unfold s6
    split
    · exact k.agent h5 a _
    · exact h5
  split
  · exact k.post a h6
  · exact h6

theorem depart (k : PartsKeep I H P) (h : P s) (a : AgentId) (st : PortState) (r : PortReason) (fenced posted : Bool) :
    P (s.depart a st r fenced posted) :=
  k.endWaits s (k.departParts h a st r fenced posted)

theorem losePort (k : PartsKeep I H P) (h : P s) (a : AgentId) : P (s.losePort a) := by
  unfold State.losePort
  split
  · exact h
  · exact k.depart h ..
  all_goals exact k.post a (k.port _ _ h)

/-! ## Changes -/

theorem startRecall (k : PartsKeep I H P) (h : P s) {e : Fin 16} {x : Entry} (hx : s.entry e = some x) :
    P (s.startRecall e x) :=
  foldl_keeps (P := P) (fun _ a hu => k.sendRecall hu x.window a) _ _ (k.entry h hx ⟨by rfl, by rfl, by rfl, by rfl, by rfl⟩)

theorem startMember (k : PartsKeep I H P) (e : Fin 16) (h : P s) : P (startMember e s) := by
  unfold Machine.startMember
  split
  · exact h
  · exact k.startRecall h ‹_›

theorem startStandalone (k : PartsKeep I H P) (h : P s) (e : Fin 16) : P (startStandalone e s) := by
  unfold Machine.startStandalone
  split
  · exact h
  · split
    · exact applyEntry_keeps (k.cascadeKeeps none) (k.cascadeDepth none _) e s h
    · exact k.accept (k.startRecall h ‹_›) _

theorem commitGroup (k : PartsKeep I H P) (h : P s) (tag : BitVec 8) (g : Fin 4) : P (commitGroup tag g s) := by
  unfold Machine.commitGroup
  extract_lets members s1 s2
  have h1 : P s1 := foldl_keeps (P := P) (fun _ e hu => k.startMember e hu) _ _ h
  have h2 : P s2 := k.group _ _ h1
  split
  · exact applyGroup_keeps (k.cascadeKeeps none) (k.cascadeDepth none _) g s2 h2
  · exact k.accept h2 tag

theorem putOutside (k : PartsKeep I H P) (h : P s) (a : AgentId) : P (s.putOutside a) := by
  unfold State.putOutside
  split
  · exact k.departParts h ..
  · exact h

theorem takeLookup (k : PartsKeep I H P) (h : P s) (a : AgentId) (t : Fin 4) (w : Nat) (r : Rights) :
    P (takeLookup a t w r s) := by
  unfold Machine.takeLookup
  split
  · split
    · exact k.setLookupTag (k.park _ h) a t true
    · exact k.agent h a _
  · exact k.answerLookup (k.cascadeDepth none _) none a t w r h

theorem takeReleased (k : PartsKeep I H P) (h : P s) (a : AgentId) (w g : BitVec 16) : P (takeReleased a w g s) := by
  have hf : P (s.forgetRecall a w.toNat) :=
    k.table h ⟨by exact fun hr => natSetWf_erase hr _, by exact fun hr => natSetWf_erase hr _⟩
  unfold Machine.takeReleased
  dsimp only
  split
  · exact hf
  · exact k.endWaits s (k.removeSlot hf ..)

/-! ## The actions -/

theorem actions (k : PartsKeep I H P) : ActionsKeep I H P where
  idle := k.law
  pre := k.pre
  outPre := k.outPre
  out := k.out
  buffer := k.buffer
  take := k.take
  reset := k.reset
  released h := k.released (k.law h)
  setLinkState := k.linkState
  comeUp {s l} h hl := by
    have h1 : P (s.setLink l (.fresh .up)) := k.linkUp (k.law h) hl
    cases l with
    | agent a => exact k.port _ _ h1
    | sup => exact h1
    | mem => exact k.drive h1
  leaveUp {s l st} h _ hst := by
    cases l with
    | agent a => exact k.losePort (k.linkDown (k.law h) hst (by simp)) a
    | sup => exact k.loseSup (k.law h) hst
    | mem => exact k.loseMem (k.linkDown (k.law h) hst (by simp))
  expiry h hx _ :=
    k.endWaits _ (foldl_keeps (P := P) (fun _ a hu => k.putOutside hu a) _ _ (k.entry (k.law h) hx ⟨by rfl, by rfl, by rfl, by rfl, by rfl⟩))
  fill ok h hf := k.fill ok (k.law h) hf
  lookup h _ _ _ _ := k.takeLookup (k.law h) ..
  count w g h _ := k.takeReleased (k.law h) _ w g
  give i h _ := k.endWaits _ (k.agent (k.removeSlot (k.law h) ..) _ _)
  flush h _ := k.endWaits _ (k.agent (k.setPointer (k.removeWhere (k.law h) ..) _ _) _ _)
  switch c h _ := k.endWaits _ (k.agent (k.port _ _ (k.removeWhere (k.law h) ..)) _ _)
  join h _ := k.post _ (k.port _ _ (k.law h))
  depart r f p h _ _ _ := k.depart (k.law h) ..
  openGate h _ := k.fence _ _ (k.port _ _ (k.law h))
  turnAway h _ := k.port _ _ (k.law h)
  configure h hs hc := k.configure (k.law h) hs hc
  create h hc := k.create (k.law h) hc
  joinGroup h hs hq hc _ := k.accept (k.group _ _ (k.accepts (k.law h) hs hq hc)) _
  standalone h hs hq hc _ := k.startStandalone (k.accepts (k.law h) hs hq hc) _
  abandon m h hx _ := k.retake (k.cascadeDepth none _) none _ (k.sup (k.abandon (k.law h) hx) m)
  openGroup h _ := k.group _ _ (k.law h)
  freeGroup h _ _ := k.group _ _ (k.law h)
  commit tag h _ _ := k.commitGroup (k.law h) tag _
  abandonGroup {s g} h _ := k.closeGroup (foldl_keeps (P := P) (fun _ e hu => k.abandonMember g e hu) _ _ (k.law h)) ..
  suspend h he := k.suspend (k.law h) he
  suspendLater tag h he hq := k.addTag _ (k.suspendLater tag (k.law h) he hq)
  resume h he := k.resume (k.law h) (.inl he)
  resumeEarly {s t} h he := k.resume (k.finish (k.law h) ..) (.inr ⟨t, by simpa using he⟩)
  rescrub h hs hr hq hi := k.rescrub (k.law h) hs hr hq hi
  credit := k.credit
  restart h := k.restart (k.law h)

end PartsKeep

end Sys2Proof.Machine
end

section
/-!
PROOFS of O60, that every step keeps every table and set in its canonical form. Each list of the state is written by the
operations of Machine/Tables.lean only, which keep the form (Laws/Tables.lean).
-/

namespace Sys2Proof.Machine

variable {s t : State}

/-! ## The engine's loop -/

/-- What the sending of a fill and the end of a job keep, the engine's loop keeps. -/
theorem runEngine_keeps {P : State → Prop} (fill : ∀ s, P s → P s.sendOneFill)
    (ends : ∀ s t, P s → s.endJob = some t → P t) : ∀ (n : Nat) (s : State), P s → P (runEngine n s)
  | 0, _, h => h
  | n + 1, s, h => by
    have hf : P s.sendFills := fill _ (fill _ (fill _ (fill _ h)))
    unfold runEngine
    split
    · exact hf
    · exact runEngine_keeps fill ends n _ (ends _ _ hf ‹_›)

/-- The ACTIVE job is the job of an ACTIVE slot. -/
theorem State.slot_of_active {i : Fin 16} {j : Job} (h : s.active = some (i, j)) : s.slot i = .active j := by
  unfold State.active at h
  obtain ⟨k, -, hk⟩ := List.exists_of_findSome?_eq_some h
  cases hs : s.slot k with
  | active j' =>
    simp only [hs, ScrubSlot.activeJob, Option.map_some, Option.some.injEq, Prod.mk.injEq] at hk
    obtain ⟨rfl, rfl⟩ := hk
    exact hs
  | _ => simp [hs, ScrubSlot.activeJob] at hk

/-! ## The canonical form, slot by slot -/

/-- The job a scrub slot holds, if any. -/
def ScrubSlot.job : ScrubSlot → Option Job
  | .queued j | .active j | .ended j => some j
  | .free | .reserved _ => none

/-- The tally of a slot's job is in canonical form. -/
def ScrubSlot.TallyWf (x : ScrubSlot) : Prop := ∀ j ∈ x.job, SparseWf (noneOf 16) j.tally

theorem Canonical.slot (h : Canonical s) (i : Fin 16) : (s.slot i).TallyWf := fun j hj => by
  cases hs : s.slot i <;> simp only [hs, ScrubSlot.job, Option.mem_def, reduceCtorEq, Option.some.injEq] at hj <;>
    subst hj
  · exact h.tallies i _ (.inl hs)
  · exact h.tallies i _ (.inr (.inl hs))
  · exact h.tallies i _ (.inr (.inr hs))

theorem tallies_of_slots (h : ∀ i, (s.slot i).TallyWf) (i : Fin 16) (j : Job)
    (hj : s.slot i = .queued j ∨ s.slot i = .active j ∨ s.slot i = .ended j) : SparseWf (noneOf 16) j.tally := by
  rcases hj with hj | hj | hj <;> exact h i j (by simp [hj, ScrubSlot.job])

/-- The records whose form is stated. -/
def State.lists (s : State) :
    Sparse Window × Sparse FrameState × NatSet × Vector SlotTable 8 × Vector ScrubSlot 16 :=
  (s.windows, s.frames, s.tags, s.tables, s.scrub.slots)

theorem Canonical.of_eq (h : Canonical s) (hl : t.lists = s.lists) : Canonical t := by
  simp only [State.lists, Prod.mk.injEq] at hl
  obtain ⟨hw, hf, hg, ht, hs⟩ := hl
  have table (a : AgentId) : t.table a = s.table a := by simp only [State.table, ht]
  have slot (i : Fin 16) : t.slot i = s.slot i := by simp only [State.slot, hs]
  exact ⟨hw ▸ h.windows, hf ▸ h.frames, hg ▸ h.tags, fun a => table a ▸ h.recalled a, fun a => table a ▸ h.regranted a,
    fun i => slot i ▸ h.tallies i⟩

theorem Canonical.setWindow (h : Canonical s) (w : Nat) (r : Window) : Canonical (s.setWindow w r) :=
  ⟨sparseWf_set h.windows w r, h.frames, h.tags, h.recalled, h.regranted, h.tallies⟩

theorem Canonical.setFrames (h : Canonical s) {m : Sparse FrameState} (hm : SparseWf .free m) :
    Canonical (s.setFrames m) :=
  ⟨h.windows, hm, h.tags, h.recalled, h.regranted, h.tallies⟩

theorem Canonical.setTable (h : Canonical s) {a : AgentId} {u : SlotTable} (hu : (s.table a).SetsKept u) :
    Canonical (s.setTable a u) := by
  refine ⟨h.windows, h.frames, h.tags, fun b => ?_, fun b => ?_, h.tallies⟩ <;> rw [State.table_setTable] <;> split
  · exact hu.recalled (h.recalled a)
  · exact h.recalled b
  · exact hu.regranted (h.regranted a)
  · exact h.regranted b

theorem Canonical.setSlot (h : Canonical s) (i : Fin 16) {x : ScrubSlot} (hx : x.TallyWf) :
    Canonical (s.setSlot i x) := by
  refine ⟨h.windows, h.frames, h.tags, h.recalled, h.regranted, tallies_of_slots fun k => ?_⟩
  rw [State.slot_setSlot]
  split
  · exact hx
  · exact h.slot k

/-- A slot takes a job with the tally of a job that stands in a slot. -/
theorem Canonical.setJob (h : Canonical s) (i : Fin 16) {x y : ScrubSlot} {j : Job} (hx : s.slot i = x) (hj : x.job = some j)
    (hy : ∀ k ∈ y.job, k.tally = j.tally) : Canonical (s.setSlot i y) :=
  h.setSlot i fun k hk => hy k hk ▸ (hx ▸ h.slot i) j hj

theorem Canonical.sendSup (h : Canonical s) (m : SupMsg) : Canonical (s.sendSup m) :=
  h.of_eq (by simp [State.lists])

/-! ## The engine -/

theorem Canonical.noticeDelivered (h : Canonical s) (n : Notice) : Canonical (s.noticeDelivered n) := by
  rcases s.noticeDelivered_cases n with hn | ⟨i, o, f, r, x, y, j, -, -, hn⟩ <;> rw [hn]
  · exact h
  · exact h.setSlot i (by simp [ScrubSlot.TallyWf, ScrubSlot.job])

theorem deliver_canonical (l : List Notice) : ∀ {s : State}, Canonical s → Canonical (deliver l s) := by
  induction l with
  | nil => exact id
  | cons n rest ih =>
    intro s h
    unfold deliver
    split
    · exact ih (Canonical.noticeDelivered (h.of_eq (by simp [State.lists, State.setCredit, State.setOutbox])) n)
    · exact h

theorem Canonical.sendOneFill (h : Canonical s) : Canonical s.sendOneFill := by
  unfold State.sendOneFill
  split
  · split
    · rename_i i j k ha hk
      have hj := State.slot_of_active ha
      split
      · exact h.setJob i hj rfl (by simp [ScrubSlot.job])
      · rename_i p hp
        have h1 : Canonical (s.setSlot i (.active { j with position := s.passed i j (j.nextBlock p) })) :=
          h.setJob i hj rfl (by simp [ScrubSlot.job])
        exact h1.of_eq (by simp [State.lists])
    · exact h
  · exact h

theorem Canonical.startNext (h : Canonical s) : Canonical s.startNext := by
  unfold State.startNext
  split
  · split
    · exact h.of_eq (by rfl)
    · rename_i i rest hq
      have h1 : Canonical (s.setScrub { s.scrub with queue := rest }) := h.of_eq (by rfl)
      dsimp only
      split
      · rename_i j hj
        exact h1.setJob i (x := .queued j) hj rfl (by simp [ScrubSlot.job])
      · exact h1
  · exact h

theorem Canonical.endJob (h : Canonical s) (ht : s.endJob = some t) : Canonical t := by
  unfold State.endJob at ht
  split at ht
  · cases ht
  · rename_i i j ha
    split at ht
    · cases ht
    · cases ht
      have h1 : Canonical (s.setSlot i (.ended j)) :=
        h.setJob i (State.slot_of_active ha) rfl (by simp [ScrubSlot.job])
      exact Canonical.startNext (deliver_canonical _ (h1.of_eq (by rfl)))

theorem Canonical.drive (h : Canonical s) : Canonical s.drive :=
  runEngine_keeps (fun _ h => h.sendOneFill) (fun _ _ h ht => h.endJob ht) _ s h

theorem Canonical.afterFill (h : Canonical s) : Canonical s.afterFill := by
  have hd := h.drive
  unfold State.afterFill State.settleSuspend
  split
  · split
    · have h1 : Canonical ((s.drive.setEngine .suspended).freeTag ‹_›) :=
        ⟨hd.windows, hd.frames, natSetWf_erase hd.tags _, hd.recalled, hd.regranted, hd.tallies⟩
      exact h1.sendSup _
    · exact hd
  · exact hd

/-- A job with nothing filled joins the queue. -/
theorem Canonical.enqueue (h : Canonical s) (i : Fin 16) {j : Job} (hj : j.tally = []) : Canonical (s.enqueue i j) := by
  have h1 : Canonical (s.setSlot i (.queued j)) :=
    h.setSlot i fun k hk => by
      cases hk
      rw [hj]
      exact sparseWf_nil _
  unfold State.enqueue
  dsimp only
  split
  · exact Canonical.drive (Canonical.startNext (h1.of_eq (by rfl)))
  · exact h1.of_eq (by rfl)

theorem Canonical.fillEnds (h : Canonical s) (k : Fin 4) (f : Fill) (ok : Bool) : Canonical (s.fillEnds k f ok) := by
  unfold State.fillEnds
  refine Canonical.afterFill ?_
  have h1 : Canonical (s.setFill k none) := h.of_eq (by rfl)
  split
  · exact h1
  · rename_i i j ha
    have hj : SparseWf (noneOf 16) j.tally := h1.tallies i j (.inr (.inl (State.slot_of_active ha)))
    have hset (b : FinSet 16) : SparseWf (noneOf 16) (j.setFilled f.frame b).tally := sparseWf_set hj ..
    split
    · split
      · unfold State.countBlock
        dsimp only
        split
        · exact (h1.setFrames (sparseWf_set h1.frames ..)).setSlot i (by simpa [ScrubSlot.TallyWf, ScrubSlot.job] using hset _)
        · exact h1.setSlot i (by simpa [ScrubSlot.TallyWf, ScrubSlot.job] using hset _)
      · exact (h1.setFrames (sparseWf_set h1.frames ..)).setSlot i (by simpa [ScrubSlot.TallyWf, ScrubSlot.job] using hset _)
    · exact h1

theorem Canonical.loseMem (h : Canonical s) : Canonical s.loseMem := by
  unfold State.loseMem
  extract_lets s1
  have h1 : Canonical s1 := by
    unfold s1
    split
    · exact h.setJob _ (State.slot_of_active ‹_›) rfl (by simp [ScrubSlot.job])
    · exact h
  exact Canonical.afterFill (h1.of_eq (by rfl))

theorem Canonical.resume (h : Canonical s) : Canonical s.resume := by
  unfold State.resume
  split
  · exact h.of_eq (by rfl)
  · exact Canonical.drive (Canonical.startNext (h.of_eq (by rfl)))

/-! ## Frames and changes -/

theorem fillRuns_wf {m : Sparse FrameState} (h : SparseWf .free m) (runs : List Run) (x : FrameState) :
    SparseWf .free (fillRuns m runs x) :=
  foldl_keeps (P := SparseWf .free) (fun _ r hm => sparseWf_fill hm r.base r.count x) _ _ h

theorem releaseJob_fresh {w : Nat} {runs : List Run} {j : Job} (h : releaseJob w runs = some j) :
    ∃ r q, j = Job.fresh (.window w) r q ∧ r ∈ runs ∧ ∀ p ∈ q, p ∈ runs := by
  match runs, h with
  | [r], rfl => exact ⟨r, none, rfl, by simp, by simp⟩
  | r :: q :: _, rfl => exact ⟨r, some q, rfl, by simp, by simp⟩

theorem Canonical.moveFrames (h : Canonical s) (x : Entry) (l : LiveFields) : Canonical (s.moveFrames x l) := by
  unfold State.moveFrames
  extract_lets m released
  have hm : SparseWf .free m := by
    unfold m
    split
    · exact sparseWf_map h.frames _
    · exact h.frames
  split
  · split
    · refine (h.setFrames (fillRuns_wf hm ..)).enqueue _ ?_
      obtain ⟨r, q, hj, -, -⟩ := releaseJob_fresh ‹releaseJob _ _ = some _›
      rw [hj]
      rfl
    · exact h.setFrames hm
  · exact h.setFrames (fillRuns_wf hm ..)

theorem Canonical.freeTag (h : Canonical s) (u : BitVec 8) : Canonical (s.freeTag u) :=
  ⟨h.windows, h.frames, natSetWf_erase h.tags _, h.recalled, h.regranted, h.tallies⟩

theorem Canonical.applyParts (h : Canonical s) (e : Fin 16) (x : Entry) : Canonical (s.applyParts e x) := by
  unfold State.applyParts
  split
  · exact h
  · have h1 : Canonical _ := (h.setWindow x.window (x.kind.applied (s.window x.window) ‹_›)).moveFrames x ‹_›
    exact Canonical.sendSup (Canonical.freeTag (h1.of_eq (by rfl)) _) _

theorem Canonical.abandonParts (h : Canonical s) (e : Fin 16) (x : Entry) : Canonical (s.abandonParts e x) := by
  unfold State.abandonParts
  extract_lets r s1 s2 s3
  have h2 : Canonical s2 := (h.setWindow ..).setFrames (sparseWf_map h.frames _)
  have h3 : Canonical s3 := by
    unfold s3
    split
    · exact h2.setSlot _ (by simp [ScrubSlot.TallyWf, ScrubSlot.job])
    · exact h2
  exact Canonical.sendSup (Canonical.freeTag (h3.of_eq (by rfl)) _) _

theorem Canonical.acceptParts (h : Canonical s) (tag : BitVec 8) (q : ChangeRequest) (e : Fin 16)
    (slot : Option (Fin 16)) : Canonical (s.acceptParts tag q e slot) := by
  unfold State.acceptParts
  extract_lets x s1 r s2
  have h1 : Canonical s1 := h.of_eq (by rfl)
  have h2 : Canonical s2 := by
    have hw := h1.setWindow q.window { r with pending := some e }
    unfold s2 State.reserveRun
    split
    · refine hw.setFrames (foldl_keeps (P := SparseWf FrameState.free) (fun m i hm => ?_) _ _ hw.frames)
      split
      · exact sparseWf_set hm ..
      · exact hm
    · exact hw
  split
  · exact h2
  · exact h2.setSlot _ (by simp [ScrubSlot.TallyWf, ScrubSlot.job])

/-! ## CONFIGURE and RESTART -/

theorem Canonical.configureWith (h : Canonical s) (c : Configuration) : Canonical (s.configureWith c) := by
  unfold State.configureWith
  extract_lets s1
  have h1 : Canonical s1 := h.of_eq (by rfl)
  split
  · refine (h1.setFrames ⟨?_, ?_⟩).enqueue _ rfl
    · exact List.pairwise_map.2 List.pairwise_lt_range
    · simp
  · exact h1.setFrames (sparseWf_nil _)

/-- With every list as after RESET_N each is empty. -/
theorem Canonical.of_reset (hs : s.lists = State.reset.lists) : Canonical s := by
  refine Canonical.of_eq (s := .reset) ?_ hs
  have table (a : AgentId) : State.reset.table a = .initial := by simp [State.table, State.reset]
  refine ⟨sparseWf_nil _, sparseWf_nil _, .nil, fun a => ?_, fun a => ?_, tallies_of_slots fun i => ?_⟩
  · rw [table]; exact .nil
  · rw [table]; exact .nil
  · simp [State.slot, State.reset, Scrub.initial, ScrubSlot.TallyWf, ScrubSlot.job]

/-! ## Every step -/

theorem canonicalParts : PartsKeep Canonical (fun _ => Canonical) Canonical where
  law := id
  pre := id
  outPre _ h := h.of_eq (by rfl)
  buffer h _ _ _ := h.of_eq (by rfl)
  take h _ := h.of_eq (by rfl)
  out _ _ h := h.of_eq (by rfl)
  table h hu := h.setTable hu
  holders h := h.setWindow ..
  port _ _ h := h.of_eq (by rfl)
  fence _ _ h := h.of_eq (by rfl)
  park _ h := h.of_eq (by rfl)
  entry h _ _ := h.of_eq (by rfl)
  group _ _ h := h.of_eq (by rfl)
  addTag u h := ⟨h.windows, h.frames, natSetWf_insert h.tags _, h.recalled, h.regranted, h.tallies⟩
  freeTag u h := h.freeTag u
  post _ h := deliver_canonical _ (h.of_eq (by rfl))
  apply h _ := h.applyParts ..
  abandon h _ := h.abandonParts ..
  accepts h _ _ _ := h.acceptParts ..
  reset _ := .of_reset (by rfl)
  released h := h.of_eq (by rfl)
  restart _ := .of_reset (by rfl)
  linkState h _ _ := h.of_eq (by rfl)
  linkUp h _ := h.of_eq (by rfl)
  linkDown h _ _ := h.of_eq (by rfl)
  loseSup h _ := h.of_eq (by rfl)
  drive h := h.drive
  loseMem h := h.loseMem
  fill _ h _ := h.fillEnds ..
  configure h _ _ := h.configureWith _
  create h _ := (h.setWindow ..).setFrames (sparseWf_fill h.frames ..)
  suspend h _ := h.of_eq (by rfl)
  suspendLater _ h _ _ := h.of_eq (by rfl)
  resume h _ := h.resume
  rescrub h _ _ _ _ := (h.setFrames (sparseWf_fill h.frames ..)).enqueue _ rfl
  credit _ h := deliver_canonical _ (Canonical.sendSup (h.of_eq (by rfl)) _)

/-- Settles O60: the operations on sparse tables and on sets keep their form, and a job's tally is written by them or
taken over with its job. -/
theorem canonicalKept : Obligations.CanonicalKept := by
  unfold Obligations.CanonicalKept
  intro s t h hst
  exact step_keeps canonicalParts.actions (fun _ h => h.of_eq (by rfl)) h hst

end Sys2Proof.Machine
end

section
/-!
PROOFS of O54, that every step keeps the agreement of pending changes and Change Table entries (R6, R58). The law reads
the pending change of each window and the window of each entry; an acceptance writes both, an application and an
abandonment clear both, and nothing else writes either.
-/

namespace Sys2Proof.Machine

variable {s t : State}

/-- The window of a Change Table entry, absent while the entry is FREE. -/
def State.changed (s : State) (e : Fin 16) : Option Nat := (s.entry e).map Entry.window

theorem State.changed_eq_some {e : Fin 16} {w : Nat} :
    s.changed e = some w ↔ ∃ x, s.entry e = some x ∧ x.window = w := by
  simp [State.changed]

/-- A window's pending change and an entry's window name each other. -/
theorem pendingLaw_iff : PendingLaw s ↔ ∀ w e, (s.window w).pending = some e ↔ s.changed e = some w := by
  constructor
  · intro h w e
    refine ⟨fun hp => State.changed_eq_some.2 (h.inUse w e hp), fun hc => ?_⟩
    obtain ⟨x, hx, rfl⟩ := State.changed_eq_some.1 hc
    exact h.named e x hx
  · intro h
    exact ⟨fun e x hx => (h _ _).2 (State.changed_eq_some.2 ⟨x, hx, rfl⟩),
      fun w e hp => State.changed_eq_some.1 ((h w e).1 hp)⟩

theorem PendingLaw.of_same (h : PendingLaw s) (hw : ∀ w, (t.window w).pending = (s.window w).pending)
    (he : ∀ e, t.changed e = s.changed e) : PendingLaw t := by
  rw [pendingLaw_iff] at h ⊢
  simpa only [hw, he] using h

/-- An action that writes no window record and no entry keeps the law. -/
theorem PendingLaw.of_eq (h : PendingLaw s) (hr : (t.windows, t.entries) = (s.windows, s.entries)) : PendingLaw t := by
  obtain ⟨hw, he⟩ := Prod.mk.inj hr
  exact h.of_same (fun w => by simp only [State.window, hw]) fun e => by simp only [State.changed, State.entry, he]

theorem EngineOnly.pendingLaw (e : EngineOnly s t) (h : PendingLaw s) : PendingLaw t :=
  h.of_eq (by rw [e.windows, e.entries])

theorem PendingLaw.setWindow (h : PendingLaw s) {w : Nat} {r : Window} (hr : r.pending = (s.window w).pending) :
    PendingLaw (s.setWindow w r) :=
  h.of_same (fun v => by rw [State.window_setWindow]; split <;> simp_all) fun _ => rfl

theorem State.changed_setEntry (e d : Fin 16) (x : Option Entry) :
    (s.setEntry e x).changed d = if d = e then x.map Entry.window else s.changed d := by
  simp only [State.changed, State.entry_setEntry]
  split <;> rfl

/-- An entry in use ends: its window loses its pending change in the same action. -/
theorem PendingLaw.clear (h : PendingLaw s) {e : Fin 16} {x : Entry} (hx : s.entry e = some x) {r : Window}
    (hr : r.pending = none) : PendingLaw ((s.setWindow x.window r).setEntry e none) := by
  rw [pendingLaw_iff] at h ⊢
  have he : s.changed e = some x.window := State.changed_eq_some.2 ⟨x, hx, rfl⟩
  have hp := (h x.window e).2 he
  intro w d
  have hd := h w d
  rw [State.changed_setEntry, State.setEntry_window, State.window_setWindow]
  change _ ↔ (if d = e then none else s.changed d) = some w
  grind

/-- A FREE entry is taken for a window without a pending change. -/
theorem PendingLaw.take (h : PendingLaw s) {e : Fin 16} {x : Entry} (he : s.entry e = none)
    (hw : (s.window x.window).pending = none) {r : Window} (hr : r.pending = some e) :
    PendingLaw ((s.setEntry e (some x)).setWindow x.window r) := by
  rw [pendingLaw_iff] at h ⊢
  intro w d
  have hd := h w d
  have hc : s.changed e = none := by simp [State.changed, he]
  rw [State.window_setWindow, State.setEntry_window]
  change _ ↔ (s.setEntry e (some x)).changed d = some w
  rw [State.changed_setEntry]
  grind

theorem State.applyParts_pendingLaw (h : PendingLaw s) {e : Fin 16} {x : Entry} (hx : s.entry e = some x) :
    PendingLaw (s.applyParts e x) := by
  unfold State.applyParts
  split
  · exact h
  · rename_i l _
    obtain ⟨m, hm⟩ := (s.setWindow x.window (x.kind.applied (s.window x.window) l)).moveFrames_engineOnly x l
    refine (h.clear hx (r := x.kind.applied (s.window x.window) l) rfl).of_eq ?_
    simp [hm.windows, hm.entries, State.setEntry]

theorem State.abandonParts_pendingLaw (h : PendingLaw s) {e : Fin 16} {x : Entry} (hx : s.entry e = some x) :
    PendingLaw (s.abandonParts e x) := by
  refine (h.clear hx (r := { s.window x.window with pending := none }) rfl).of_eq ?_
  unfold State.abandonParts
  cases x.scrubSlot <;> simp [State.setEntry]

/-- What the checks of an accepted request for a change have found (R62). -/
theorem State.changeChecks_eq_ok {q : ChangeRequest} {l : LiveFields} {e : Fin 16} {slot : Option (Fin 16)}
    (h : s.changeChecks q = .ok (l, e, slot)) :
    (s.window q.window).live = some l ∧ (s.window q.window).pending = none ∧ s.checkGroup q.group = none ∧
      s.freeEntry = some e ∧ s.newRunFree q.window q.kind = true ∧
      (q.kind.needsSlot l = false ∧ slot = none ∨ q.kind.needsSlot l = true ∧ slot.isSome ∧ s.freeSlot = slot) := by
  unfold State.changeChecks at h
  split at h
  · cases h
  · rename_i l' hl
    split at h
    · cases h
    · rename_i hp
      split at h
      · cases h
      · rename_i hg
        split at h
        · cases h
        · rename_i e' he
          split at h
          · cases h
          · rename_i hf
            split at h
            · split at h
              · cases h
              · cases h
                exact ⟨hl, by simpa using hp, hg, he, by simpa using hf, .inr ⟨‹_›, rfl, ‹_›⟩⟩
            · cases h
              exact ⟨hl, by simpa using hp, hg, he, by simpa using hf, 
                .inl ⟨Bool.eq_false_iff.2 ‹_›, rfl⟩⟩

theorem State.freeEntry_eq_some {e : Fin 16} (h : s.freeEntry = some e) : s.entry e = none := by
  simpa [State.freeEntry] using List.find?_some h

theorem State.acceptParts_pendingLaw (h : PendingLaw s) {q : ChangeRequest} {l : LiveFields} {e : Fin 16}
    {slot : Option (Fin 16)} (hc : s.changeChecks q = .ok (l, e, slot)) (tag : BitVec 8) :
    PendingLaw (s.acceptParts tag q e slot) := by
  obtain ⟨-, hp, -, he, -, -⟩ := State.changeChecks_eq_ok hc
  refine (h.take (x := .fresh tag q.window q.kind q.group slot) (State.freeEntry_eq_some he) hp
    (r := { s.window q.window with pending := some e }) rfl).of_eq ?_
  unfold State.acceptParts State.reserveRun
  cases slot <;> cases q.kind <;> (try cases ‹Option Run›) <;> rfl

theorem PendingLaw.of_reset (hr : (s.windows, s.entries) = (State.reset.windows, State.reset.entries)) :
    PendingLaw s := by
  refine PendingLaw.of_eq (s := .reset) (pendingLaw_iff.2 fun w e => ?_) hr
  simp [State.window, State.reset, Window.initial, State.changed, State.entry]

theorem pendingParts : PartsKeep PendingLaw (fun _ => PendingLaw) PendingLaw where
  law := id
  pre := id
  outPre _ h := h.of_eq (by rfl)
  buffer h _ _ _ := h.of_eq (by rfl)
  take h _ := h.of_eq (by rfl)
  out _ _ h := h.of_eq (by rfl)
  table h _ := h.of_eq (by rfl)
  holders h := h.setWindow rfl
  port _ _ h := h.of_eq (by rfl)
  fence _ _ h := h.of_eq (by rfl)
  park _ h := h.of_eq (by rfl)
  entry h hx hy := h.of_same (fun _ => rfl) fun d => by
    rw [State.changed_setEntry]
    split
    · subst_vars
      simp [State.changed, hx, hy.window]
    · rfl
  group _ _ h := h.of_eq (by rfl)
  addTag _ h := h.of_eq (by rfl)
  freeTag _ h := h.of_eq (by rfl)
  post _ h := h.of_eq (by simp)
  apply h hx := State.applyParts_pendingLaw h hx
  abandon h hx := State.abandonParts_pendingLaw h hx
  accepts h _ _ hc := State.acceptParts_pendingLaw h hc _
  reset _ := .of_reset (by rfl)
  released h := h.of_eq (by rfl)
  restart _ := .of_reset (by rfl)
  linkState h _ _ := h.of_eq (by rfl)
  linkUp h _ := h.of_eq (by rfl)
  linkDown h _ _ := h.of_eq (by rfl)
  loseSup h _ := h.of_eq (by rfl)
  drive h := (State.drive_engineOnly _).pendingLaw h
  loseMem h := (State.loseMem_engineOnly _).pendingLaw h
  fill ok h _ := by
    refine (State.afterFill_engineOnly _).pendingLaw (h.of_eq ?_)
    split
    · rfl
    · split
      · split
        · unfold State.countBlock
          dsimp only
          split <;> rfl
        · rfl
      · rfl
  configure h _ _ := by
    unfold State.configureWith
    dsimp only
    split
    · exact (State.enqueue_engineOnly _ _ _).pendingLaw (h.of_eq (by rfl))
    · exact h.of_eq (by rfl)
  create {s w l cls scrub ba bc r b n} h _ :=
    (h.setWindow (w := l.1) (r := { s.window l.1 with live := some l.2, generation := (s.window l.1).generation + 1 })
      rfl).of_eq (by rfl)
  suspend h _ := h.of_eq (by rfl)
  suspendLater _ h _ _ := h.of_eq (by rfl)
  resume h _ := (State.resume_engineOnly _).pendingLaw h
  rescrub h _ _ _ _ := (State.enqueue_engineOnly _ _ _).pendingLaw (h.of_eq (by rfl))
  credit _ h := h.of_eq (by simp [State.setCredit])

/-- Settles O54: an entry is taken for a window without a pending change, which then names it, and is freed in the action
that clears the window's pending change. -/
theorem pendingLawKept : Obligations.PendingLawKept := by
  unfold Obligations.PendingLawKept
  intro s t h hst
  exact step_keeps pendingParts.actions (fun _ h => h.of_eq (by rfl)) h hst

end Sys2Proof.Machine
end

section
/-!
PROOFS of O50 and O52, that every step keeps the law of ports and links and the law of the outbox. The first follows the
port-by-port reading of the laws of O51 (`KeepsPort`), without the emptiness of ports. The second reads the outbox, its
line, the credit and whether S is UP: every change of the outbox goes through `deliver`, which stops where the law says.
-/

namespace Sys2Proof.Machine

variable {o s t : State} {a b : AgentId}

/-! ## The law of ports and links, port by port -/

/-- What the law of ports and links says of agent a's port (R134, R136). -/
structure State.GateFits (s : State) (a : AgentId) : Prop where
  down : (s.port a).state = .down ↔ s.isUp (.agent a) = false
  fence : s.fenceN[a] = true ↔ (s.port a).state = .admitted

theorem portLaw_iff : PortLaw s ↔ (∀ a, s.GateFits a) ∧ ∀ l, (s.link l).Fits l := by
  constructor
  · intro h
    exact ⟨fun a => ⟨h.down a, h.fence a⟩, fun l => ⟨fun hl => h.credits l (State.isUp_eq_true.2 hl),
      fun hl => h.empty l (State.isUp_eq_false.2 hl), h.own l⟩⟩
  · rintro ⟨gates, links⟩
    exact ⟨fun a => (gates a).down, fun a => (gates a).fence, fun l hl => (links l).credits (State.isUp_eq_true.1 hl),
      fun l hl => (links l).empty (State.isUp_eq_false.1 hl), fun l => (links l).own⟩

theorem PortLaw.gate (h : PortLaw s) (a : AgentId) : s.GateFits a := (portLaw_iff.1 h).1 a

theorem PortLaw.fits (h : PortLaw s) (l : LinkId) : (s.link l).Fits l := (portLaw_iff.1 h).2 l

theorem KeepsPort.gateFits (k : KeepsPort a s t) (h : s.GateFits a) : t.GateFits a where
  down := by rw [k.state, State.isUp_eq k.links]; exact h.down
  fence := by rw [k.state, k.fence]; exact h.fence

theorem Steady.keepsGate (k : Steady s t) (h : s.GateFits a) : t.GateFits a where
  down := by rw [k.state, State.isUp_eq k.links]; exact h.down
  fence := by rw [k.state, k.fenceN]; exact h.fence

theorem PortLaw.of_keeps (h : PortLaw s) (k : ∀ a, KeepsPort a s t) : PortLaw t :=
  portLaw_iff.2 ⟨fun a => (k a).gateFits (h.gate a), fun l => State.link_eq (k 0).links l ▸ h.fits l⟩

theorem PortLaw.of_steady (h : PortLaw s) (k : Steady s t) : PortLaw t :=
  portLaw_iff.2 ⟨fun a => k.keepsGate (h.gate a), fun l => State.link_eq k.links l ▸ h.fits l⟩

/-- An action on one agent's port keeps the law when it keeps every other port and that port's gate fits after it. -/
theorem PortLaw.of_port (gates : ∀ a, a ≠ b → s.GateFits a) (links : ∀ l, (s.link l).Fits l)
    (k : ∀ a, a ≠ b → KeepsPort a s t) (hb : t.GateFits b) : PortLaw t := by
  refine portLaw_iff.2 ⟨fun a => ?_, fun l => ?_⟩
  · by_cases ha : a = b
    · exact ha ▸ hb
    · exact (k a ha).gateFits (gates a ha)
  · obtain ⟨a, ha⟩ := exists_ne b
    exact State.link_eq (k a ha).links l ▸ links l

theorem PortLaw.of_eq (h : PortLaw s) (hr : t.portRecords = s.portRecords) : PortLaw t :=
  h.of_keeps fun a => (KeepsPort.refl a s).of_eq hr

/-! ## Departures -/

/-- A departure leaves the port's state and a low line (R142). -/
theorem State.departParts_gate (s : State) (b : AgentId) (st : PortState) (r : PortReason) (fenced posted : Bool) :
    ((s.departParts b st r fenced posted).port b).state = st ∧ (s.departParts b st r fenced posted).fenceN[b] = false ∧
      (s.departParts b st r fenced posted).links = s.links := by
  unfold State.departParts
  extract_lets port s1 s2 table s3 s4 tags s5 s6
  have hsteady : Steady s1 s2 := State.removeWhere_steady s1 b true _
  clear_value s2
  have hstate : (s5.port b).state = st := by
    rw [show s5.port b = { s2.port b with tags := noneOf 4 } from State.port_setPort_self ..]
    exact (hsteady.state b).trans (congrArg Port.state (State.port_setPort_self ..))
  have hfence : s5.fenceN[b] = false := by
    rw [show s5.fenceN = s.fenceN.set b false from hsteady.fenceN]
    simp
  have hlinks : s5.links = s.links := hsteady.links
  have h6 : KeepsPort b s5 s6 := ite_keepsPort (State.sendAgent_keepsPort (.refl b s5) b _) (.refl b s5)
  have h7 := ite_keepsPort (c := posted = true) (State.postPort_keepsPort h6 b) h6
  exact ⟨h7.state.trans hstate, h7.fence.trans hfence, h7.links.trans hlinks⟩

theorem State.departParts_gateFits {st : PortState} (hst : st ≠ .admitted)
    (hup : st = .down ↔ s.isUp (.agent b) = false) (r : PortReason) (fenced posted : Bool) :
    (s.departParts b st r fenced posted).GateFits b := by
  obtain ⟨hs, hf, hl⟩ := s.departParts_gate b st r fenced posted
  exact ⟨by rw [hs, hup, State.isUp_eq hl], by simp [hs, hf, hst]⟩

/-- On an UP link a port departs to a state that is neither ADMITTED nor DOWN. -/
theorem PortLaw.departParts (h : PortLaw s) {st : PortState} (hd : (s.port b).state ≠ .down) (hst : st ≠ .admitted)
    (hstd : st ≠ .down) (r : PortReason) (fenced posted : Bool) : PortLaw (s.departParts b st r fenced posted) :=
  PortLaw.of_port (fun a _ => h.gate a) h.fits
    (fun a ha => State.departParts_keepsPort (.refl a s) ha st r fenced posted)
    (State.departParts_gateFits hst (iff_of_false hstd (mt (h.gate b).down.2 hd)) r fenced posted)

theorem PortLaw.endWaits (h : PortLaw t) (s : State) : PortLaw (endWaits cascade s t) :=
  h.of_steady (endWaits_cascade_steady s t)

theorem State.GateFits.low (h : s.GateFits a) (ha : (s.port a).state ≠ .admitted) : s.fenceN[a] = false := by
  simpa using mt h.fence.1 ha

/-- A port with a low line takes a state that is not ADMITTED. -/
theorem State.setPort_gateFits {p : Port} (hf : s.fenceN[b] = false) (hp : p.state ≠ .admitted)
    (hup : p.state = .down ↔ s.isUp (.agent b) = false) : (s.setPort b p).GateFits b := by
  have hport : (s.setPort b p).port b = p := s.port_setPort_self b p
  exact ⟨by rw [hport]; exact hup, by rw [hport]; exact iff_of_false (by simpa using hf) hp⟩

theorem PortLaw.setPort (h : PortLaw s) {p : Port} (ha : (s.port b).state ≠ .admitted)
    (hd : (s.port b).state ≠ .down) (hp : p.state ≠ .admitted) (hpd : p.state ≠ .down) : PortLaw (s.setPort b p) :=
  PortLaw.of_port (fun a _ => h.gate a) h.fits (fun a ha => State.setPort_keepsPort_of_ne (.refl a s) ha _)
    (State.setPort_gateFits ((h.gate b).low ha) hp (iff_of_false hpd (mt (h.gate b).down.2 hd)))

/-! ## Links -/

theorem State.GateFits.setLink (h : s.GateFits a) {l : LinkId} {x : Link}
    (hx : (s.setLink l x).isUp (.agent a) = s.isUp (.agent a)) : (s.setLink l x).GateFits a :=
  ⟨by rw [hx]; exact h.down, h.fence⟩

theorem State.GateFits.setLink_of_ne (h : s.GateFits a) {l : LinkId} (hl : l ≠ .agent a) (x : Link) :
    (s.setLink l x).GateFits a :=
  h.setLink (by rw [State.isUp_setLink, if_neg hl.symm])

theorem PortLaw.links_setLink (h : PortLaw s) {l : LinkId} {x : Link} (hx : x.Fits l) (k : LinkId) :
    ((s.setLink l x).link k).Fits k := by
  rw [State.link_setLink]
  split
  · subst_vars; exact hx
  · exact h.fits k

/-- A Link Interface is written without the link becoming UP or leaving UP. -/
theorem PortLaw.setLink (h : PortLaw s) {l : LinkId} {x : Link} (hx : x.Fits l) (hup : (x.state == .up) = s.isUp l) :
    PortLaw (s.setLink l x) :=
  portLaw_iff.2 ⟨fun a => (h.gate a).setLink (by rw [State.isUp_setLink]; split <;> simp_all), h.links_setLink hx⟩

/-- A port whose link has left UP becomes DOWN (R141). -/
theorem State.losePort_gateFits (hup : s.isUp (.agent b) = false)
    (hf : (s.port b).state ≠ .admitted → s.fenceN[b] = false) : (s.losePort b).GateFits b := by
  have other (h : (s.port b).state ≠ .admitted) :
      ((s.setPort b { s.port b with state := .down, reason := .linkLost }).postPort b).GateFits b :=
    (State.postPort_keepsPort (.refl b _) b).gateFits
      (State.setPort_gateFits (hf h) (by simp) (iff_of_true rfl hup))
  unfold State.losePort
  split
  · rename_i hs
    exact ⟨iff_of_true hs hup, by simp [hf (by simp [hs]), hs]⟩
  · exact (endWaits_cascade_steady s _).keepsGate
      (State.departParts_gateFits (by simp) (iff_of_true rfl hup) ..)
  · exact other (by simp [*])
  · exact other (by simp [*])

/-- A link that leaves UP, with what its owner does then (R141, R159, R161). -/
theorem PortLaw.leaveUp (h : PortLaw s) (l : LinkId) {st : LinkState} (hst : st ≠ .up) :
    PortLaw ((s.setLink l (.fresh st)).leaveUp l) := by
  have links := h.links_setLink (Link.fresh_fits st l)
  have gates (a : AgentId) (hl : l ≠ .agent a) : (s.setLink l (.fresh st)).GateFits a :=
    (h.gate a).setLink_of_ne hl _
  cases l with
  | agent b =>
    have hb : ((s.setLink (.agent b) (.fresh st)).losePort b).GateFits b := by
      refine State.losePort_gateFits ?_ (h.gate b).low
      simpa [State.isUp_setLink, Link.fresh] using hst
    exact PortLaw.of_port (fun a ha => gates a (by simpa using ha.symm)) links
      (fun a ha => State.losePort_keepsPort (.refl a _) ha) hb
  | sup => exact PortLaw.of_eq (portLaw_iff.2 ⟨fun a => gates a (by simp), links⟩) (by rfl)
  | mem =>
    exact PortLaw.of_keeps (portLaw_iff.2 ⟨fun a => gates a (by simp), links⟩) fun a =>
      (State.loseMem_engineOnly _).keepsPort (.refl a _)

/-- A link that becomes UP, with what its owner does then (R136, R161). -/
theorem PortLaw.comeUp (h : PortLaw s) {l : LinkId} (hl : s.isUp l = false) : PortLaw (s.comeUp l) := by
  have links := h.links_setLink (Link.fresh_fits .up l)
  have gates (a : AgentId) (hl : l ≠ .agent a) : (s.setLink l (.fresh .up)).GateFits a :=
    (h.gate a).setLink_of_ne hl _
  cases l with
  | agent b =>
    have hdown : (s.port b).state ≠ .admitted := by simp [(h.gate b).down.2 hl]
    refine PortLaw.of_port (fun a ha => gates a (by simpa using ha.symm)) links
      (fun a ha => State.setPort_keepsPort_of_ne (.refl a _) ha _)
      (State.setPort_gateFits ((h.gate b).low hdown) (by simp) ?_)
    simp [State.isUp_setLink, Link.fresh]
  | sup => exact portLaw_iff.2 ⟨fun a => gates a (by simp), links⟩
  | mem =>
    exact PortLaw.of_keeps (portLaw_iff.2 ⟨fun a => gates a (by simp), links⟩) fun a =>
      (State.drive_engineOnly _).keepsPort (.refl a _)

/-- The taking of a message returns the credit that it used (R163). -/
theorem PortLaw.returnCredit (h : PortLaw s) {l : LinkId} {m : Instr} {rest : List Instr}
    (hb : (s.link l).buffer = m :: rest) :
    PortLaw (s.returnCredit l rest) ∧ s.isUp l = true ∧ (commandMessage m).map Prod.fst = some l := by
  obtain ⟨credits, empty, own⟩ := h.fits l
  have hup : (s.link l).state = .up := by
    by_contra hup
    simp [empty hup] at hb
  have hx : ({ s.link l with credits := (s.link l).credits + 1, buffer := rest } : Link).Fits l := by
    refine ⟨fun _ => ?_, fun hn => absurd hup hn, fun n hn => own n (hb ▸ List.mem_cons_of_mem m hn)⟩
    have := credits hup
    simp only [hb, List.length_cons] at this ⊢
    omega
  exact ⟨(h.setLink hx rfl).of_eq (by rfl), State.isUp_eq_true.2 hup, own m (hb ▸ List.mem_cons_self)⟩

/-- A message of the link that joins the receive buffer uses a credit (R163). -/
theorem PortLaw.bufferMessage (h : PortLaw s) {l : LinkId} {m : Instr} (hup : s.isUp l = true)
    (hc : (s.link l).credits ≠ 0) (hm : (commandMessage m).map Prod.fst = some l) : PortLaw (s.bufferMessage l m) := by
  obtain ⟨credits, -, own⟩ := h.fits l
  refine h.setLink ⟨fun hu => ?_, fun hn => absurd (State.isUp_eq_true.1 hup) hn, fun n hn => ?_⟩ rfl
  · have := credits hu
    simp only [List.length_append, List.length_singleton]
    omega
  · rcases List.mem_append.1 hn with hn | hn
    · exact own n hn
    · rwa [List.mem_singleton.1 hn]

/-! ## Every action -/

theorem State.putOutside_portLaw (h : PortLaw s) (b : AgentId) : PortLaw (s.putOutside b) := by
  unfold State.putOutside
  split
  · rename_i hadm
    have hs : (s.port b).state = .admitted := by simpa [State.isAdmitted] using hadm
    exact h.departParts (by simp [hs]) (by simp) (by simp) ..
  · exact h

theorem PortLaw.openGate (h : PortLaw s) (hs : (s.port b).state = .waiting) :
    PortLaw ((s.setPort b { s.port b with state := .admitted, context := 0 }).setFence b true) := by
  refine PortLaw.of_port (fun a _ => h.gate a) h.fits (fun a ha => State.setFence_keepsPort_of_ne
    (State.setPort_keepsPort_of_ne (.refl a s) ha _) ha true) ?_
  have hd : s.isUp (.agent b) ≠ false := mt (h.gate b).down.2 (by simp [hs])
  have hstate : (((s.setPort b { s.port b with state := .admitted, context := 0 }).setFence b true).port b).state =
      .admitted := congrArg Port.state (State.port_setPort_self ..)
  exact ⟨iff_of_false (by simp) hd, iff_of_true (by simp) hstate⟩

theorem PortLaw.restarted (h : PortLaw s) : PortLaw s.restarted := by
  refine portLaw_iff.2 ⟨fun a => ?_, h.fits⟩
  have hport : s.restarted.port a = (s.port a).restarted := by simp [State.restarted, State.port]
  refine ⟨?_, iff_of_false (by simp [State.restarted, State.reset, noneOf]) (hport ▸ (s.port a).restarted_not_admitted)⟩
  rw [hport, Port.restarted_down]
  exact (h.gate a).down

theorem portActions : ActionsKeep PortLaw (fun m s => PortLaw s ∧ ∃ l, s.isUp l = true ∧
    (commandMessage m).map Prod.fst = some l) PortLaw where
  idle := id
  pre h := h.1
  outPre _ h := h.of_eq (by rfl)
  out _ _ h := h.of_eq (by rfl)
  buffer h hup hc hm := h.bufferMessage hup hc hm
  take {s l m rest} h hb := by
    obtain ⟨law, hup, hm⟩ := h.returnCredit hb
    refine ⟨law, l, ?_, hm⟩
    simpa [State.returnCredit, State.isUp, State.link_setLink] using hup
  reset _ := (portsLaw_iff.1 (PortsLaw.of_reset (by rfl))).1
  released h := h.of_eq (by rfl)
  setLinkState {s l st} h hl hst :=
    h.setLink ⟨fun hu => absurd hu hst, fun _ => (h.fits l).empty hl, (h.fits l).own⟩ (by simp [State.isUp, hl, hst])
  comeUp h hl := h.comeUp hl
  leaveUp {s l st} h _ hst := h.leaveUp l hst
  expiry h _ _ :=
    PortLaw.endWaits (foldl_keeps (P := PortLaw) (fun _ b hu => State.putOutside_portLaw hu b) _ _ (h.of_eq (by rfl))) _
  fill ok h _ := h.of_keeps fun a => State.fillEnds_keepsPort (.refl a _) ..
  lookup {s a t w r} h ha ht hw hr := by
    refine h.of_steady ?_
    unfold takeLookup
    split
    · split
      · exact (State.setPark_steady ..).trans (State.setLookupTag_steady ..)
      · exact State.sendAgent_steady ..
    · unfold answerLookup
      split
      · exact State.sendAgent_steady ..
      · split
        · exact State.sendAgent_steady ..
        · exact grant_steady (fun e u hu => hu.trans (cascade_steady e u)) none _ _ _ _ _ _ (.refl s)
  count {s a} w g h ha := by
    have hf : PortLaw (s.forgetRecall a w.toNat) := h.of_steady (State.setTable_steady ..)
    unfold takeReleased
    dsimp only
    split
    · exact hf
    · exact PortLaw.endWaits (hf.of_steady (State.removeSlot_steady ..)) _
  give i h _ :=
    PortLaw.endWaits (h.of_steady ((State.removeSlot_steady ..).trans (State.sendAgent_steady ..))) _
  flush h _ :=
    PortLaw.endWaits (h.of_steady (((State.removeWhere_steady ..).trans (State.setTable_steady ..)).trans
      (State.sendAgent_steady ..))) _
  switch {s a} c h _ :=
    PortLaw.endWaits (PortLaw.of_keeps h fun b => State.sendAgent_keepsPort (State.setContext_keepsPort
      (State.removeWhere_keepsPort (.refl b s) a false _) a c) a _) _
  join {s a} h hs :=
    PortLaw.of_keeps (h.setPort (by simp [hs]) (by simp [hs]) (by simp) (by simp))
      fun b => State.postPort_keepsPort (.refl b _) a
  depart {s a st} r f p h ha hst hstd := by
    have hs : (s.port a).state = .admitted := by simpa [State.isAdmitted] using ha
    exact (h.departParts (by simp [hs]) hst hstd r f p).endWaits _
  openGate h hs := h.openGate hs
  turnAway h hs := h.setPort (by simp [hs]) (by simp [hs]) (by simp) (by simp)
  configure {s c} h _ _ := by
    refine h.of_keeps fun a => ?_
    unfold State.configureWith
    dsimp only
    split
    · exact (State.enqueue_engineOnly _ _ _).keepsPort ((KeepsPort.refl a s).of_eq (by rfl))
    · exact (KeepsPort.refl a s).of_eq (by rfl)
  create h _ := h.of_eq (by rfl)
  joinGroup {s tag q l e slot g} h _ _ _ _ := h.of_keeps fun a =>
    State.accept_keepsPort ((State.acceptParts_keepsPort (.refl a s) tag q e slot).of_eq (by rfl)) tag
  standalone {s tag q l e slot} h _ _ _ _ := h.of_keeps fun a =>
    startStandalone_keepsPort (State.acceptParts_keepsPort (.refl a s) tag q e slot) e
  abandon m h _ _ := h.of_keeps fun a =>
    retake_keepsPort cascade_keepsPort none _ (State.sendSup_keepsPort (State.abandonParts_keepsPort (.refl a _) ..) m)
  openGroup h _ := h.of_eq (by rfl)
  freeGroup h _ _ := h.of_eq (by rfl)
  commit tag h _ _ := h.of_keeps fun a => commitGroup_keepsPort (.refl a _) tag _
  abandonGroup {s g} h _ := h.of_keeps fun a => State.closeGroup_keepsPort
    (foldl_keeps (P := KeepsPort a s) (fun _ e hu => abandonMember_keepsPort g e hu) _ _ (.refl a s)) ..
  suspend h _ := h.of_eq (by rfl)
  suspendLater _ h _ _ := h.of_eq (by rfl)
  resume h _ := h.of_keeps fun a => (State.resume_engineOnly _).keepsPort (.refl a _)
  resumeEarly h _ := h.of_keeps fun a => (State.resume_engineOnly _).keepsPort (State.finish_keepsPort (.refl a _) ..)
  rescrub {s base count r i} h _ _ _ _ := h.of_keeps fun a =>
    (State.enqueue_engineOnly _ _ _).keepsPort ((KeepsPort.refl a s).of_eq (by rfl))
  credit m h := h.1.of_keeps fun a => deliver_keepsPort (State.sendSup_keepsPort ((KeepsPort.refl a _).of_eq (by rfl)) m) _
  restart h := h.restarted

/-- Settles O50: a gate opens at ADMIT only and closes in the departure that leaves ADMITTED; a link that leaves or
reaches UP takes its port with it; the buffer and the credits move by one together. -/
theorem portLawKept : Obligations.PortLawKept := by
  unfold Obligations.PortLawKept
  intro s t h hst
  exact step_keeps portActions (fun _ h => h.of_eq (by rfl)) h hst

/-! ## The outbox -/

/-- An action that leaves the outbox, its line, the credit and S as they are keeps the law. -/
theorem OutboxLaw.of_eq (h : OutboxLaw s)
    (hr : (t.outbox, t.noticeN, t.credit, t.isUp .sup) = (s.outbox, s.noticeN, s.credit, s.isUp .sup)) :
    OutboxLaw t := by
  simp only [Prod.mk.injEq] at hr
  obtain ⟨ho, hn, hc, hu⟩ := hr
  refine ⟨?_, ?_, ?_, ?_, ?_⟩
  · rw [hn, ho]; exact h.line
  · rw [ho]; exact h.onePort
  · rw [State.mute, ho, hc, hu]; exact h.waits
  · rw [hc]; exact h.bound
  · rw [hu, hc]; exact h.lost

/-- What the law says but for the delivery: as it stands while the outbox is written and not yet delivered. -/
structure OutboxFits (s : State) : Prop where
  line : s.noticeN = true ↔ s.outbox = []
  onePort : ∀ a, s.outbox.countP (Notice.isPortOf a) ≤ 1
  bound : s.credit ≤ 255
  lost : s.isUp .sup = false → s.credit = 0

/-- Delivery empties the outbox or stops for want of credit or of S (R156). -/
theorem deliver_outboxLaw (l : List Notice) : ∀ {s : State}, OutboxFits s → s.outbox = l → OutboxLaw (deliver l s) := by
  induction l with
  | nil => exact fun h hl => ⟨h.line, h.onePort, .inl hl, h.bound, h.lost⟩
  | cons n rest ih =>
    intro s h hl
    unfold deliver
    split
    · rename_i hc
      simp only [Bool.and_eq_true, decide_eq_true_eq] at hc
      refine ih ⟨?_, fun a => ?_, ?_, ?_⟩ ?_
      · simp
      · have := hl ▸ h.onePort a
        rw [List.countP_cons] at this
        simp only [State.noticeDelivered_outbox, State.setOutbox_outbox]
        omega
      · have := h.bound
        simp only [State.noticeDelivered_credit, State.setOutbox_credit, State.setCredit_credit]
        omega
      · simp [hc.1]
      · simp
    · rename_i hc
      have hm : s.mute := by
        simp only [Bool.and_eq_true, decide_eq_true_eq, not_and, not_lt, Nat.le_zero] at hc
        cases hu : s.isUp .sup
        · exact .inr hu
        · exact .inl (hc hu)
      exact ⟨h.line, h.onePort, .inr hm, h.bound, h.lost⟩

theorem Notice.isPortOf_updated (a b : AgentId) (st : PortState) (r : PortReason) (n : Notice) :
    (n.updated b st r).isPortOf a = n.isPortOf a := by
  cases n with
  | port c st' r' k =>
    by_cases hc : c = b
    · simp [Notice.updated, Notice.isPortOf, hc]
    · simp [Notice.updated, Notice.isPortOf, hc]
  | scrub => rfl

/-- A posting updates the agent's notice or joins the tail where it has none (R155). -/
theorem portPosting_onePort {l : List Notice} (h : ∀ a, l.countP (Notice.isPortOf a) ≤ 1) (b : AgentId) (st : PortState)
    (r : PortReason) (a : AgentId) : (portPosting l b st r).countP (Notice.isPortOf a) ≤ 1 := by
  unfold portPosting
  split
  · rw [List.countP_map]
    have : (Notice.isPortOf a ∘ Notice.updated b st r) = Notice.isPortOf a :=
      funext fun n => Notice.isPortOf_updated a b st r n
    rw [this]
    exact h a
  · rename_i hn
    rw [List.countP_append, List.countP_singleton]
    by_cases hab : b = a
    · subst hab
      have : l.countP (Notice.isPortOf b) = 0 := by
        rw [List.countP_eq_zero]
        simpa using hn
      split <;> omega
    · have := h a
      simp [Notice.isPortOf, hab]
      omega

theorem portPosting_ne_nil (l : List Notice) (b : AgentId) (st : PortState) (r : PortReason) :
    portPosting l b st r ≠ [] := by
  unfold portPosting
  split
  · rename_i h
    intro hn
    simp [List.map_eq_nil_iff.1 hn] at h
  · simp

theorem OutboxLaw.postPort (h : OutboxLaw s) (a : AgentId) : OutboxLaw (s.postPort a) :=
  deliver_outboxLaw _ ⟨by simp [State.setOutbox], portPosting_onePort h.onePort a _ _, h.bound, h.lost⟩ rfl

theorem OutboxLaw.postScrub (h : OutboxLaw s) {n : Notice} (hn : ∀ a, n.isPortOf a = false) :
    OutboxLaw (s.postScrub n) := by
  refine deliver_outboxLaw _ ⟨by simp [State.setOutbox], fun a => ?_, h.bound, h.lost⟩ rfl
  have := h.onePort a
  simpa [State.setOutbox, List.countP_append, hn] using this

theorem OutboxLaw.sendSup (h : OutboxLaw s) (m : SupMsg) : OutboxLaw (s.sendSup m) :=
  h.of_eq (by simp)

/-! ## The engine and the outbox -/

theorem OutboxLaw.sendOneFill (h : OutboxLaw s) : OutboxLaw s.sendOneFill := by
  unfold State.sendOneFill
  split
  · split
    · split
      · exact h.of_eq (by rfl)
      · exact h.of_eq (by simp)
    · exact h
  · exact h

theorem OutboxLaw.startNext (h : OutboxLaw s) : OutboxLaw s.startNext := by
  unfold State.startNext
  split
  · split
    · exact h.of_eq (by rfl)
    · dsimp only
      split <;> exact h.of_eq (by rfl)
  · exact h

theorem OutboxLaw.drive (h : OutboxLaw s) : OutboxLaw s.drive := by
  refine runEngine_keeps (fun _ h => h.sendOneFill) (fun s t h ht => ?_) _ s h
  unfold State.endJob at ht
  split at ht
  · cases ht
  · rename_i i j _
    split at ht
    · cases ht
    · cases ht
      have h1 : OutboxLaw (s.setSlot i (.ended j)) := h.of_eq (by rfl)
      exact (h1.postScrub (n := j.notice i) fun _ => rfl).startNext

theorem OutboxLaw.afterFill (h : OutboxLaw s) : OutboxLaw s.afterFill := by
  have hd := h.drive
  unfold State.afterFill State.settleSuspend
  split
  · split
    · exact OutboxLaw.sendSup (hd.of_eq (by rfl)) _
    · exact hd
  · exact hd

theorem OutboxLaw.enqueue (h : OutboxLaw s) (i : Fin 16) (j : Job) : OutboxLaw (s.enqueue i j) := by
  unfold State.enqueue
  dsimp only
  split
  · exact OutboxLaw.drive (OutboxLaw.startNext (h.of_eq (by rfl)))
  · exact h.of_eq (by rfl)

theorem OutboxLaw.applyParts (h : OutboxLaw s) (e : Fin 16) (x : Entry) : OutboxLaw (s.applyParts e x) := by
  unfold State.applyParts
  split
  · exact h
  · rename_i l _
    have h1 : OutboxLaw ((s.setWindow x.window (x.kind.applied (s.window x.window) l)).moveFrames x l) := by
      unfold State.moveFrames
      dsimp only
      split
      · split
        · exact OutboxLaw.enqueue (h.of_eq (by rfl)) ..
        · exact h.of_eq (by rfl)
      · exact h.of_eq (by rfl)
    exact OutboxLaw.sendSup (h1.of_eq (by rfl)) _

theorem OutboxLaw.abandonParts (h : OutboxLaw s) (e : Fin 16) (x : Entry) : OutboxLaw (s.abandonParts e x) := by
  unfold State.abandonParts
  extract_lets r s1 s2 s3
  have h3 : OutboxLaw s3 := by
    unfold s3
    split <;> exact h.of_eq (by rfl)
  exact OutboxLaw.sendSup (h3.of_eq (by rfl)) _

theorem OutboxLaw.of_reset (hr : (s.outbox, s.noticeN, s.credit) = ([], true, 0)) : OutboxLaw s := by
  simp only [Prod.mk.injEq] at hr
  obtain ⟨ho, hn, hc⟩ := hr
  exact ⟨by simp [ho, hn], by simp [ho], .inl ho, by simp [hc], fun _ => hc⟩

theorem outboxParts : PartsKeep (fun s => PortLaw s ∧ OutboxLaw s)
    (fun m s => (PortLaw s ∧ OutboxLaw s) ∧ ∃ l, s.isUp l = true ∧ (commandMessage m).map Prod.fst = some l)
    OutboxLaw where
  law h := h.2
  pre h := h.1
  outPre o h := ⟨portActions.outPre o h.1, h.2.of_eq (by rfl)⟩
  buffer {s l m} h hup hc hm := ⟨h.1.bufferMessage hup hc hm, h.2.of_eq (by
    cases l <;> rfl)⟩
  take {s l m rest} h hb := by
    obtain ⟨law, hup⟩ := portActions.take h.1 hb
    exact ⟨⟨law, h.2.of_eq (by cases l <;> rfl)⟩, hup⟩
  out _ _ h := h.of_eq (by rfl)
  table h _ := h.of_eq (by rfl)
  holders h := h.of_eq (by rfl)
  port _ _ h := h.of_eq (by rfl)
  fence _ _ h := h.of_eq (by rfl)
  park _ h := h.of_eq (by rfl)
  entry h _ _ := h.of_eq (by rfl)
  group _ _ h := h.of_eq (by rfl)
  addTag _ h := h.of_eq (by rfl)
  freeTag _ h := h.of_eq (by rfl)
  post a h := h.postPort a
  apply h _ := h.applyParts ..
  abandon h _ := h.abandonParts ..
  accepts {s tag q l e slot} h _ _ _ := h.of_eq (by
    unfold State.acceptParts State.reserveRun
    cases slot <;> cases q.kind <;> (try cases ‹Option Run›) <;> rfl)
  reset _ := .of_reset (by rfl)
  released h := h.of_eq (by rfl)
  restart {s} h := ⟨by simp [State.restarted, State.reset], fun _ => Nat.zero_le 1, .inl rfl, h.bound, h.lost⟩
  linkState {s l st} h hl hst := h.2.of_eq (by
    simp only [State.isUp_setLink, Prod.mk.injEq]
    refine ⟨rfl, rfl, rfl, ?_⟩
    split
    · subst_vars
      simp [State.isUp, hl, hst]
    · rfl)
  linkUp {s l} h hl := by
    by_cases hs : l = .sup
    · subst hs
      have hc : s.credit = 0 := h.lost hl
      exact ⟨h.line, h.onePort, .inr (.inl hc), h.bound, fun _ => hc⟩
    · exact h.of_eq (by simp [State.isUp_setLink, Ne.symm hs])
  linkDown {s l st} h _ hl := h.of_eq (by simp [State.isUp_setLink, Ne.symm hl])
  loseSup h _ := ⟨h.line, h.onePort, .inr (.inl rfl), Nat.zero_le _, fun _ => rfl⟩
  drive h := h.drive
  loseMem {s} h := by
    unfold State.loseMem
    extract_lets s1
    have h1 : OutboxLaw s1 := by
      unfold s1
      split
      · exact h.of_eq (by rfl)
      · exact h
    exact OutboxLaw.afterFill (h1.of_eq (by rfl))
  fill {s k f} ok h _ := by
    refine OutboxLaw.afterFill (h.of_eq ?_)
    split
    · rfl
    · split
      · split
        · unfold State.countBlock
          dsimp only
          split <;> rfl
        · rfl
      · rfl
  configure h _ _ := by
    unfold State.configureWith
    dsimp only
    split
    · exact OutboxLaw.enqueue (h.of_eq (by rfl)) ..
    · exact h.of_eq (by rfl)
  create h _ := h.of_eq (by rfl)
  suspend h _ := h.of_eq (by rfl)
  suspendLater _ h _ _ := h.of_eq (by rfl)
  resume h _ := by
    unfold State.resume
    split
    · exact h.of_eq (by rfl)
    · exact OutboxLaw.drive (OutboxLaw.startNext (h.of_eq (by rfl)))
  rescrub h _ _ _ _ := OutboxLaw.enqueue (h.of_eq (by rfl)) ..
  credit {s tag n} m h := by
    obtain ⟨⟨-, law⟩, l, hup, hl⟩ := h
    have hl : LinkId.sup = l := by simpa [commandMessage] using hl
    subst hl
    refine deliver_outboxLaw _ ⟨?_, ?_, ?_, ?_⟩ rfl
    · simpa using law.line
    · simpa using law.onePort
    · simp
    · simp [hup]

/-- Settles O52: the outbox is written by a posting or by a delivery, and either ends with `deliver`, which stops only
with nothing left, no credit or S not UP. -/
theorem outboxLawKept : Obligations.OutboxLawKept := by
  unfold Obligations.OutboxLawKept
  intro s t h hst
  exact ⟨step_keeps portActions (fun _ h => h.of_eq (by rfl)) h.1 hst,
    step_keeps outboxParts.actions (fun _ h => ⟨h.1.of_eq (by rfl), h.2.of_eq (by rfl)⟩) h hst⟩

end Sys2Proof.Machine
end

section
/-!
PROOFS of O55, that every step keeps the length of the Park List and the agreement of lookup tags with it (R46, R47). A
re-take takes its entries off the list together and frees their tags one by one: in between, the law holds of the list
with the entries taken off and not yet answered (`ParkFits`).
-/

namespace Sys2Proof.Machine

variable {s t : State} {taken rest : List Parked}

/-- Two parked lookups are of different agents or have different tags. -/
def Parked.Apart (p q : Parked) : Prop := ¬(p.agent = q.agent ∧ p.tag = q.tag)

/-- The law of the Park List while some entries are taken off it and their tags still in use. -/
structure ParkFits (taken : List Parked) (s : State) : Prop where
  bound : s.park.length ≤ 16
  once : (s.park ++ taken).Pairwise Parked.Apart
  tags : ∀ a t, (s.port a).tags[t] = true ↔ ∃ p ∈ s.park ++ taken, p.agent = a ∧ p.tag = t

theorem parkLaw_iff : ParkLaw s ↔ ParkFits [] s := by
  constructor
  · intro h
    exact ⟨h.bound, by simp only [List.append_nil]; exact h.once, by simpa using h.tags⟩
  · intro h
    exact ⟨h.bound, by have := h.once; rwa [List.append_nil] at this, by simpa using h.tags⟩

/-- The records that the law reads. -/
def State.parkRecords (s : State) : List Parked × Vector Port 8 := (s.park, s.ports)

theorem ParkFits.of_eq (h : ParkFits taken s) (hr : t.parkRecords = s.parkRecords) : ParkFits taken t := by
  obtain ⟨hk, hp⟩ := Prod.mk.inj hr
  have port (a : AgentId) : t.port a = s.port a := by simp only [State.port, hp]
  exact ⟨hk ▸ h.bound, hk ▸ h.once, fun a u => by rw [port, hk]; exact h.tags a u⟩

theorem EngineOnly.parkFits (e : EngineOnly s t) (h : ParkFits taken s) : ParkFits taken t :=
  h.of_eq (by rw [State.parkRecords, e.park, e.ports]; rfl)

theorem Parked.apart_symm {p q : Parked} (h : p.Apart q) : q.Apart p := fun ⟨ha, ht⟩ => h ⟨ha.symm, ht.symm⟩

/-- Entries move between the list and those taken off it. -/
theorem ParkFits.setPark (h : ParkFits taken s) {l : List Parked} (hl : l.length ≤ 16)
    (hp : (l ++ rest).Perm (s.park ++ taken)) : ParkFits rest (s.setPark l) :=
  ⟨hl, (hp.pairwise_iff Parked.apart_symm).2 h.once, fun a u => by
    refine (h.tags a u).trans ?_
    simp only [hp.mem_iff, State.setPark_park]⟩

/-- The tag of an entry taken off the list leaves the set in use (R50). -/
theorem ParkFits.freeTag {p : Parked} (h : ParkFits (p :: taken) s) :
    ParkFits taken (s.setLookupTag p.agent p.tag false) := by
  have hperm : (s.park ++ p :: taken).Perm (p :: (s.park ++ taken)) := List.perm_middle
  obtain ⟨apart, once⟩ := List.pairwise_cons.1 ((hperm.pairwise_iff Parked.apart_symm).1 h.once)
  refine ⟨h.bound, once, fun a u => ?_⟩
  have hau := h.tags a u
  simp only [hperm.mem_iff, List.mem_cons, exists_eq_or_imp] at hau
  unfold State.setLookupTag
  rw [State.port_setPort]
  simp only [State.setPort_park]
  by_cases ha : a = p.agent
  · subst ha
    simp only [if_pos, vector_get_set]
    by_cases hu : u = p.tag
    · subst hu
      simp only [if_pos, Bool.false_eq_true, false_iff, not_exists, not_and]
      exact fun q hq hqa hqt => apart q hq ⟨hqa.symm, hqt.symm⟩
    · simpa [hu, Ne.symm hu] using hau
  · simpa [ha, Ne.symm ha] using hau

/-! ## The Slot Mirror's actions -/

theorem State.report_parkRecords (ab : Option (Fin 4)) (a : AgentId) (w : Nat) (d : Bool) :
    (s.report ab a w d).parkRecords = s.parkRecords := by
  rcases s.report_cases ab a w d with hr | ⟨e, x, -, -, -, -, hr⟩
  · rw [hr]
  · rw [hr]; rfl

theorem State.removeSlot_parkRecords (ab : Option (Fin 4)) (a : AgentId) (d : Bool) (i : Fin 64) :
    (s.removeSlot ab a d i).parkRecords = s.parkRecords := by
  cases hh : (s.table a).slots[i] with
  | none => rw [State.removeSlot_empty hh]
  | some x =>
    rw [State.removeSlot_held hh, State.report_parkRecords]
    rfl

theorem State.removeWhere_parkFits (h : ParkFits taken s) (a : AgentId) (d : Bool) (pick : Holding → Bool) :
    ParkFits taken (s.removeWhere a d pick) :=
  foldl_keeps (P := ParkFits taken)
    (fun u i hu => by
      split
      · split
        · exact hu.of_eq (State.removeSlot_parkRecords ..)
        · exact hu
      · exact hu)
    _ _ h

theorem ParkFits.sendAgent (h : ParkFits taken s) (a : AgentId) (m : AgentMsg) : ParkFits taken (s.sendAgent a m) :=
  h.of_eq (by simp [State.parkRecords])

theorem ParkFits.sendSup (h : ParkFits taken s) (m : SupMsg) : ParkFits taken (s.sendSup m) :=
  h.of_eq (by simp [State.parkRecords])

theorem ParkFits.sendGrant (h : ParkFits taken s) (a : AgentId) (tag : Fin 4) (i : Fin 64) (w : Nat) (l : LiveFields)
    (r : Rights) (ev : Option Nat) : ParkFits taken (s.sendGrant a tag i w l r ev) := by
  unfold State.sendGrant
  dsimp only
  split
  · exact ParkFits.sendAgent (h.of_eq (by rfl)) a _
  · exact h.sendAgent a _

theorem ParkFits.sendRecall (h : ParkFits taken s) (w : Nat) (a : AgentId) : ParkFits taken (s.sendRecall w a) := by
  unfold State.sendRecall
  dsimp only
  split
  · exact h
  · exact ParkFits.sendAgent (h.of_eq (by rfl)) a _

/-! ## Ends of changes -/

/-- An end of waiting keeps the law whatever entries are taken off the list. -/
def KeepsPark (k : EndWait) : Prop := ∀ taken e s, ParkFits taken s → ParkFits taken (k e s)

theorem answerLookup_parkFits {k : EndWait} (hk : KeepsPark k) (ab : Option (Fin 4)) (a : AgentId) (tag : Fin 4)
    (w : Nat) (r : Rights) (h : ParkFits taken s) : ParkFits taken (answerLookup k ab a tag w r s) := by
  unfold answerLookup
  split
  · exact h.sendAgent a _
  · split
    · exact h.sendAgent a _
    · unfold grant
      dsimp only
      split
      · exact ParkFits.sendGrant (h.of_eq (by rfl)) ..
      · have h1 := h.of_eq (State.removeSlot_parkRecords ab a false (s.table a).choose)
        exact endWaits_keeps (hk taken) _ _ (ParkFits.sendGrant (h1.of_eq (by rfl)) ..)

/-- The entries of the window are taken off the list, and each is answered with its tag freed. -/
theorem retake_parkFits {k : EndWait} (hk : KeepsPark k) (ab : Option (Fin 4)) (w : Nat) (h : ParkFits taken s) :
    ParkFits taken (retake k ab w s) := by
  have answered : ∀ (ps : List Parked) (u : State), ParkFits (ps ++ taken) u →
      ParkFits taken (ps.foldl (fun s p => retakeOne k ab p s) u) := by
    intro ps
    induction ps with
    | nil => exact fun _ hu => hu
    | cons p ps ih => exact fun u hu => ih _ (answerLookup_parkFits hk ab _ _ _ _ hu.freeTag)
  refine answered _ _ (h.setPark ((List.length_filter_le ..).trans h.bound) ?_)
  rw [← List.append_assoc]
  refine List.Perm.append_right taken (List.perm_append_comm.trans ?_)
  simpa [bne] using List.filter_append_perm (fun p : Parked => p.window == w) s.park

theorem State.applyParts_parkFits (h : ParkFits taken s) (e : Fin 16) (x : Entry) :
    ParkFits taken (s.applyParts e x) := by
  unfold State.applyParts
  split
  · exact h
  · rename_i l _
    obtain ⟨m, hm⟩ := (s.setWindow x.window (x.kind.applied (s.window x.window) l)).moveFrames_engineOnly x l
    exact ParkFits.sendSup ((hm.parkFits (h.of_eq (by rfl))).of_eq (by rfl)) _

theorem State.closeGroup_parkFits (h : ParkFits taken s) (g : Fin 4) (o : DoneOutcome) (l : FinSet 8) :
    ParkFits taken (s.closeGroup g o l) := by
  unfold State.closeGroup
  dsimp only
  split
  · exact h.of_eq (by simp [State.parkRecords])
  · exact h.of_eq (by rfl)

/-- `CascadeKeeps` for all entries taken off the list at once. -/
theorem endWaiting_parkFits {k : EndWait} (hk : KeepsPark k) (ab : Option (Fin 4)) : KeepsPark (endWaiting k ab) := by
  have one (taken : List Parked) (e : Fin 16) (s : State) (h : ParkFits taken s) :
      ParkFits taken (applyEntry k ab e s) := by
    unfold applyEntry
    split
    · exact h
    · exact retake_parkFits hk ab _ (State.applyParts_parkFits h ..)
  intro taken e s h
  unfold endWaiting
  split
  · exact h
  · split
    · exact one taken e s h
    · dsimp only
      split
      · exact State.closeGroup_parkFits (foldl_keeps (fun s e => one taken e s) _ _ (h.of_eq (by rfl))) ..
      · exact h.of_eq (by rfl)

theorem cascadeDepth_parkFits (ab : Option (Fin 4)) : ∀ n, KeepsPark (cascadeDepth ab n)
  | 0 => fun _ _ _ h => h
  | n + 1 => endWaiting_parkFits (cascadeDepth_parkFits ab n) ab

theorem endWaits_parkFits (s : State) (h : ParkFits taken t) : ParkFits taken (endWaits cascade s t) :=
  endWaits_keeps (cascadeDepth_parkFits none _ taken) s t h

theorem applyEntry_parkFits (e : Fin 16) (h : ParkFits taken s) : ParkFits taken (applyEntry cascade none e s) := by
  unfold applyEntry
  split
  · exact h
  · exact retake_parkFits (cascadeDepth_parkFits none _) none _ (State.applyParts_parkFits h ..)

theorem State.abandonParts_parkFits (h : ParkFits taken s) (e : Fin 16) (x : Entry) :
    ParkFits taken (s.abandonParts e x) := by
  unfold State.abandonParts
  dsimp only
  refine ParkFits.sendSup ?_ _
  split <;> exact h.of_eq (by rfl)

/-! ## Departures -/

/-- A port is written with its lookup tags kept. -/
theorem ParkFits.setPort (h : ParkFits taken s) {a : AgentId} {p : Port} (hp : p.tags = (s.port a).tags) :
    ParkFits taken (s.setPort a p) :=
  ⟨h.bound, h.once, fun b u => by
    have hbu := h.tags b u
    have hport : ((s.setPort a p).port b).tags = (s.port b).tags := by
      rw [State.port_setPort]
      split
      · subst_vars; exact hp
      · rfl
    simpa only [hport, State.setPort_park] using hbu⟩

/-- An agent's entries leave the list and its tags are free (R55). -/
theorem ParkFits.leave (h : ParkFits [] s) (a : AgentId) {p : Port} (hp : p.tags = noneOf 4) :
    ParkFits [] ((s.setPark (s.park.filter fun q => q.agent != a)).setPort a p) := by
  refine ⟨(List.length_filter_le ..).trans h.bound, ?_, fun b u => ?_⟩
  · have := h.once
    rw [List.append_nil] at this ⊢
    exact this.filter _
  · have hbu := h.tags b u
    simp only [List.append_nil, State.setPort_park, State.setPark_park, List.mem_filter, State.port_setPort,
      State.setPark_port] at hbu ⊢
    by_cases hb : b = a
    · subst hb
      simp only [if_pos, hp, noneOf_get, Bool.false_eq_true, false_iff]
      rintro ⟨q, ⟨-, hq⟩, rfl, -⟩
      simp at hq
    · simp only [if_neg hb, hbu]
      constructor
      · rintro ⟨q, hq, rfl, rfl⟩
        exact ⟨q, ⟨hq, by simpa using hb⟩, rfl, rfl⟩
      · rintro ⟨q, ⟨hq, -⟩, rfl, rfl⟩
        exact ⟨q, hq, rfl, rfl⟩

theorem State.departParts_parkFits (h : ParkFits [] s) (a : AgentId) (st : PortState) (r : PortReason)
    (fenced posted : Bool) : ParkFits [] (s.departParts a st r fenced posted) := by
  unfold State.departParts
  extract_lets port s1 s2 table s3 s4 tags s5 s6
  have h0 : ParkFits [] (s.setPort a { port with state := st, reason := r }) := h.setPort rfl
  have h1 : ParkFits [] s1 := h0.of_eq (by rfl)
  have h2 : ParkFits [] s2 := State.removeWhere_parkFits h1 a true _
  clear_value s2
  have h3 : ParkFits [] s3 := h2.of_eq (by rfl)
  have h5 : ParkFits [] s5 := h3.leave a rfl
  have h6 : ParkFits [] s6 := by
    unfold s6
    split
    · exact h5.sendAgent a _
    · exact h5
  split
  · exact h6.of_eq (by simp [State.parkRecords])
  · exact h6

theorem ParkFits.setContext (h : ParkFits taken s) (a : AgentId) (c : Fin 16) :
    ParkFits taken (s.setPort a { s.port a with context := c }) := h.setPort rfl

theorem ParkFits.setPointer (h : ParkFits taken s) (a : AgentId) (p : Fin 64) : ParkFits taken (s.setPointer a p) :=
  h.of_eq (by rfl)

theorem ParkFits.setFence (h : ParkFits taken s) (a : AgentId) (high : Bool) : ParkFits taken (s.setFence a high) :=
  h.of_eq (by rfl)

theorem ParkFits.postPort (h : ParkFits taken s) (a : AgentId) : ParkFits taken (s.postPort a) :=
  h.of_eq (by simp [State.parkRecords])

theorem State.depart_parkFits (h : ParkFits [] s) (a : AgentId) (st : PortState) (r : PortReason)
    (fenced posted : Bool) : ParkFits [] (s.depart a st r fenced posted) :=
  endWaits_parkFits s (State.departParts_parkFits h a st r fenced posted)

/-! ## Changes -/

theorem startRecall_parkFits (h : ParkFits taken s) (e : Fin 16) (x : Entry) : ParkFits taken (s.startRecall e x) :=
  foldl_keeps (P := ParkFits taken) (fun _ a hu => hu.sendRecall x.window a) _ _ (h.of_eq (by rfl))

theorem acceptParts_parkFits (h : ParkFits taken s) (tag : BitVec 8) (q : ChangeRequest) (e : Fin 16)
    (slot : Option (Fin 16)) : ParkFits taken (s.acceptParts tag q e slot) := by
  refine h.of_eq ?_
  unfold State.acceptParts State.reserveRun
  cases slot <;> cases q.kind <;> (try cases ‹Option Run›) <;> rfl

/-- A lookup whose tag is not in use joins the list (R48). -/
theorem ParkFits.parkLookup (h : ParkFits [] s) {a : AgentId} {u : Fin 4} (hu : (s.port a).tags[u] = false)
    (hl : s.park.length < 16) (w : Nat) (r : Rights) : ParkFits [] (s.parkLookup a u w r) := by
  have hnew : ∀ p ∈ s.park, ¬(p.agent = a ∧ p.tag = u) := fun p hp ⟨ha, ht⟩ => by
    have := (h.tags a u).2 ⟨p, by simpa using hp, ha, ht⟩
    simp [hu] at this
  have honce := h.once
  rw [List.append_nil] at honce
  refine ⟨by simp [State.parkLookup]; omega, ?_, fun b v => ?_⟩
  · simpa [State.parkLookup, List.pairwise_append, honce, Parked.Apart] using hnew
  · have hbv := h.tags b v
    have hport : (s.parkLookup a u w r).port b =
        if b = a then { s.port a with tags := (s.port a).tags.set u true } else s.port b := State.port_setPort ..
    simp only [List.append_nil, State.parkLookup, State.setLookupTag_park, State.setPark_park, List.mem_append,
      List.mem_singleton, or_and_right, exists_or, exists_eq_left] at hbv hport ⊢
    simp only [hport, ← hbv]
    by_cases hb : b = a
    · subst hb
      simp only [if_pos, vector_get_set]
      by_cases hv : v = u
      · simp [hv]
      · simp [hv, Ne.symm hv]
    · simp [hb, Ne.symm hb]

theorem ParkFits.of_reset (hp : s.park = []) (ht : ∀ a, (s.port a).tags = noneOf 4) : ParkFits [] s :=
  ⟨by simp [hp], by simp [hp], fun a u => by simp [hp, ht, noneOf]⟩

theorem parkActions : ActionsKeep (ParkFits []) (fun _ => ParkFits []) (ParkFits []) where
  idle := id
  pre := id
  outPre _ h := h.of_eq (by rfl)
  out _ _ h := h.of_eq (by rfl)
  buffer h _ _ _ := h.of_eq (by rfl)
  take h _ := h.of_eq (by rfl)
  reset _ := .of_reset rfl fun a => by simp [State.port, State.reset, Port.initial]
  released h := h.of_eq (by rfl)
  setLinkState h _ _ := h.of_eq (by rfl)
  comeUp {s l} h _ := by
    have h1 : ParkFits [] (s.setLink l (.fresh .up)) := h.of_eq (by rfl)
    cases l with
    | agent a => exact h1.setPort rfl
    | sup => exact h1
    | mem => exact (State.drive_engineOnly _).parkFits h1
  leaveUp {s l st} h _ _ := by
    have h1 : ParkFits [] (s.setLink l (.fresh st)) := h.of_eq (by rfl)
    cases l with
    | agent a =>
      unfold State.leaveUp State.losePort
      dsimp only
      split
      · exact h1
      · exact State.depart_parkFits h1 ..
      all_goals exact ParkFits.postPort (h1.setPort (by rfl)) a
    | sup => exact h1.of_eq (by rfl)
    | mem => exact (State.loseMem_engineOnly _).parkFits h1
  expiry h _ _ := endWaits_parkFits _ (foldl_keeps (P := ParkFits []) (fun u a hu => by
    unfold State.putOutside
    split
    · exact State.departParts_parkFits hu ..
    · exact hu) _ _ (h.of_eq (by rfl)))
  fill {s k f} ok h _ := by
    refine (State.afterFill_engineOnly _).parkFits (h.of_eq ?_)
    split
    · rfl
    · split
      · split
        · unfold State.countBlock
          dsimp only
          split <;> rfl
        · rfl
      · rfl
  lookup {s a t w r} h _ ht _ _ := by
    unfold takeLookup
    split
    · split
      · exact h.parkLookup ht ‹_› w r
      · exact h.sendAgent a _
    · exact answerLookup_parkFits (cascadeDepth_parkFits none _) none a t w r h
  count {s a} w g h _ := by
    have hf : ParkFits [] (s.forgetRecall a w.toNat) := h.of_eq (by rfl)
    unfold takeReleased
    dsimp only
    split
    · exact hf
    · exact endWaits_parkFits s (hf.of_eq (State.removeSlot_parkRecords ..))
  give i h _ := endWaits_parkFits _ ((h.of_eq (State.removeSlot_parkRecords ..)).sendAgent _ _)
  flush {s a} h _ := by
    have h1 := State.removeWhere_parkFits h a false fun _ => true
    exact endWaits_parkFits s ((h1.setPointer a 0).sendAgent a _)
  switch {s a} c h _ := by
    have h1 := State.removeWhere_parkFits h a false Holding.isBound
    exact endWaits_parkFits s ((h1.setContext a c).sendAgent a _)
  join h _ := ParkFits.postPort (h.setPort (by rfl)) _
  depart r f p h _ _ _ := State.depart_parkFits h ..
  openGate {s a} h _ :=
    ParkFits.setFence (s := s.setPort a { s.port a with state := .admitted, context := 0 }) (h.setPort rfl) a true
  turnAway h _ := h.setPort (by rfl)
  configure h _ _ := by
    unfold State.configureWith
    dsimp only
    split
    · exact (State.enqueue_engineOnly _ _ _).parkFits (h.of_eq (by rfl))
    · exact h.of_eq (by rfl)
  create h _ := h.of_eq (by rfl)
  joinGroup {s tag q l e slot g} h _ _ _ _ :=
    ParkFits.sendSup ((acceptParts_parkFits h tag q e slot).of_eq (by rfl)) _
  standalone {s tag q l e slot} h _ _ _ _ := by
    have h1 := acceptParts_parkFits h tag q e slot
    unfold startStandalone
    split
    · exact h1
    · split
      · exact applyEntry_parkFits e h1
      · exact ParkFits.sendSup ((startRecall_parkFits h1 e _).of_eq (by rfl)) _
  abandon {s e x} m h _ _ :=
    retake_parkFits (cascadeDepth_parkFits none _) none _ ((State.abandonParts_parkFits h e x).sendSup m)
  openGroup h _ := h.of_eq (by rfl)
  freeGroup h _ _ := h.of_eq (by rfl)
  commit {s g} tag h _ _ := by
    unfold commitGroup
    extract_lets members s1 s2
    have h1 : ParkFits [] s1 := foldl_keeps (P := ParkFits []) (fun u e hu => by
      unfold startMember
      split
      · exact hu
      · exact startRecall_parkFits hu e _) _ _ h
    have h2 : ParkFits [] s2 := h1.of_eq (by rfl)
    split
    · exact State.closeGroup_parkFits (foldl_keeps (fun _ e hu => applyEntry_parkFits e hu) _ _ h2) ..
    · exact ParkFits.sendSup (h2.of_eq (by rfl)) _
  abandonGroup {s g} h _ := by
    refine State.closeGroup_parkFits (foldl_keeps (P := ParkFits []) (fun u e hu => ?_) _ _ h) ..
    unfold abandonMember
    split
    · exact hu
    · exact retake_parkFits (cascadeDepth_parkFits _ _) _ _ (State.abandonParts_parkFits hu e _)
  suspend h _ := h.of_eq (by rfl)
  suspendLater _ h _ _ := h.of_eq (by rfl)
  resume h _ := (State.resume_engineOnly _).parkFits h
  resumeEarly h _ := (State.resume_engineOnly _).parkFits (ParkFits.sendSup (h.of_eq (by rfl)) _)
  rescrub h _ _ _ _ := (State.enqueue_engineOnly _ _ _).parkFits (h.of_eq (by rfl))
  credit m h := h.of_eq (by simp [State.parkRecords])
  restart {s} _ := .of_reset rfl fun a => by
    rw [show s.restarted.port a = (s.port a).restarted by simp [State.restarted, State.port]]
    exact Port.restarted_tags _

/-- Settles O55: a lookup is parked with a tag not in use, which is in use from then on; it leaves the list with its tag
freed in the same action, by a re-take or by its agent's departure. -/
theorem parkLawKept : Obligations.ParkLawKept := by
  unfold Obligations.ParkLawKept
  intro s t h hst
  exact parkLaw_iff.2 (step_keeps parkActions (fun _ h => h.of_eq (by rfl)) (parkLaw_iff.1 h) hst)

end Sys2Proof.Machine
end

section
/-!
PROOFS of the statements about the machine as a whole: O2, that every command completes and keeps the queue, by the
actions of `ActionsKeep`; O1, O3, O5, O6, O8 and O49, on the step, the receive buffers, reset and RESTART.
-/

namespace Sys2Proof.Machine

variable {s t : State}

/-! ## The queue -/

/-- The queue of commands to come is q. -/
def QueueIs (q : List Instr) (s : State) : Prop := s.pending = q

theorem EngineOnly.queueIs {q : List Instr} (e : EngineOnly s t) (h : QueueIs q s) : QueueIs q t := e.pending.trans h

theorem queueParts (q : List Instr) : PartsKeep (QueueIs q) (fun _ => QueueIs q) (QueueIs q) where
  law := id
  pre := id
  outPre _ h := h
  buffer h _ _ _ := h
  take h _ := h
  out _ _ h := h
  table h _ := h
  holders h := h
  port _ _ h := h
  fence _ _ h := h
  park _ h := h
  entry h _ _ := h
  group _ _ h := h
  addTag _ h := h
  freeTag _ h := h
  post _ h := (State.postPort_pending ..).trans h
  apply h _ := (State.applyParts_steady ..).pending.trans h
  abandon {s e x} h _ := by
    unfold State.abandonParts
    cases x.scrubSlot <;> exact (State.sendSup_pending ..).trans h
  accepts {s tag q l e slot} h _ _ _ := by
    unfold State.acceptParts State.reserveRun
    cases slot <;> cases q.kind <;> (try cases ‹Option Run›) <;> exact h
  reset h := h
  released h := h
  restart h := h
  linkState h _ _ := h
  linkUp h _ := h
  linkDown h _ _ := h
  loseSup h _ := h
  drive h := (State.drive_engineOnly _).queueIs h
  loseMem h := (State.loseMem_engineOnly _).queueIs h
  fill {s k f} ok h _ := by
    refine (State.afterFill_engineOnly _).queueIs ?_
    split
    · exact h
    · split
      · split
        · unfold State.countBlock
          dsimp only
          split <;> exact h
        · exact h
      · exact h
  configure h _ _ := by
    unfold State.configureWith
    dsimp only
    split
    · exact (State.enqueue_engineOnly _ _ _).queueIs h
    · exact h
  create h _ := h
  suspend h _ := h
  suspendLater _ h _ _ := h
  resume h _ := (State.resume_engineOnly _).queueIs h
  rescrub h _ _ _ _ := (State.enqueue_engineOnly _ _ _).queueIs h
  credit m h := ((deliver_pending ..).trans (State.sendSup_pending ..)).trans h

/-- Settles O2: no arm of the dispatch faults or refuses, and no action writes the queue. -/
theorem everyCommandCompletes : Obligations.EveryCommandCompletes := by
  unfold Obligations.EveryCommandCompletes
  intro c s
  exact (queueParts s.pending).actions.exec rfl c

/-! ## The step -/

/-- Settles O1: the two cases of the step. -/
theorem stepTakesTheFront : Obligations.StepTakesTheFront := by
  unfold Obligations.StepTakesTheFront
  constructor
  · intro c rest s hs
    rw [step, hs]
  · intro s hs hb
    have hn : linkOrder.find? (fun l => (s.link l).buffer != []) = none := by simp [hb]
    rw [step, hs]
    simp only [takeWaiting, hn]

/-- The oldest message is taken on a state that differs by the credit-return word and the link's record. -/
theorem State.returnCredit_eq (l : LinkId) (rest : List Instr) :
    s.returnCredit l rest =
      { s.setLink l { s.link l with credits := (s.link l).credits + 1, buffer := rest } with
        out := { s.out with creditReturns := s.out.creditReturns ++ [l] } } := rfl

theorem State.bufferMessage_link (l : LinkId) (m : Instr) :
    (s.bufferMessage l m).link l =
      { s.link l with credits := (s.link l).credits - 1, buffer := (s.link l).buffer ++ [m] } :=
  State.link_setLink_self ..

/-- A message that joins a receive buffer in which messages wait already is not the one taken. -/
theorem takeOldest_bufferMessage {l : LinkId} {m o : Instr} {rest : List Instr} (hc : (s.link l).credits ≠ 0)
    (hb : (s.link l).buffer = o :: rest) :
    takeOldest l (s.begin.bufferMessage l m) =
      act o { s.setLink l { s.link l with buffer := rest ++ [m] } with
        out := { Outputs.nothing with creditReturns := [l] } } := by
  have hlink := State.bufferMessage_link (s := s.begin) l m
  have hbuf : ((s.begin.bufferMessage l m).link l).buffer = o :: (rest ++ [m]) := by
    rw [hlink]
    simp [hb]
  rw [takeOldest_cons hbuf]
  congr 1
  have hcr : (s.link l).credits - 1 + 1 = (s.link l).credits := Nat.succ_pred_eq_of_ne_zero hc
  rw [State.returnCredit_eq, hlink]
  simp only [State.bufferMessage, State.begin_link, hcr, State.setLink_setLink]
  rfl

/-- Settles O3: each clause is a branch of the reception or of the step on an empty queue. -/
theorem messagesWait : Obligations.MessagesWait := by
  unfold Obligations.MessagesWait
  intro m l s hm
  simp only [exec_message hm]
  refine ⟨fun h => ?_, fun hup hc hlt => ?_, fun o rest hup hc hge hb => ?_, fun hup => ?_, fun o rest hq hb hk => ?_⟩
  · rw [receiveMessage_of_receives h]
    rfl
  · have hdue : (s.begin.bufferMessage l m).due l = false := by
      unfold State.due
      rw [State.bufferMessage_link]
      simp only [State.begin_link, List.length_append, List.length_singleton, decide_eq_false_iff_not, not_lt]
      exact hlt
    have hst : (s.link l).state = .up := State.isUp_eq_true.1 hup
    simp only [receiveMessage, hup, hc, hdue, if_true, if_false, Bool.false_eq_true]
    simp only [State.bufferMessage, State.begin_link, hst]
    rfl
  · have hdue : (s.begin.bufferMessage l m).due l = true := by
      unfold State.due
      rw [State.bufferMessage_link]
      simp only [State.begin_link, List.length_append, List.length_singleton, decide_eq_true_eq]
      exact Nat.lt_succ_of_le hge
    simp only [receiveMessage, hup, hc, hdue, if_true, if_false]
    rw [takeOldest_bufferMessage hc hb]
  · rw [receiveMessage_not_up hup]
    rfl
  · have hmem : l ∈ linkOrder := by cases l <;> simp [linkOrder]
    have hfind : linkOrder.find? (fun l => (s.link l).buffer != []) = some l := by
      obtain ⟨a, b, hab⟩ := List.append_of_mem hmem
      have hnodup : linkOrder.Nodup := by decide
      refine List.find?_eq_some_iff_append.2 ⟨by simp [hb], a, b, hab, fun k hka => ?_⟩
      obtain ⟨c, d, rfl⟩ := List.append_of_mem hka
      have := hk k ⟨c, d ++ l :: b, by simpa using hab, by simp⟩
      simp [this]
    rw [step, hq]
    simp only [takeWaiting, hfind]
    rw [takeOldest_cons (s := s.begin) hb, State.returnCredit_eq]
    rfl

/-! ## Reset and RESTART -/

/-- Settles O5: the reset state read field by field. -/
theorem resetGivesTheResetState : Obligations.ResetGivesTheResetState := by
  unfold Obligations.ResetGivesTheResetState
  refine ⟨fun s => ⟨rfl, rfl⟩, fun w => rfl, fun a => ?_, fun a => ?_, rfl, rfl, fun e => ?_, fun g => ?_, rfl, rfl, rfl,
    rfl, rfl, rfl, rfl, fun l => ?_⟩
  · simp [State.table, State.reset, SlotTable.initial]
  · simp [State.port, State.reset, Port.initial]
  · simp [State.entry, State.reset]
  · simp [State.group, State.reset, Group.initial]
  · cases l <;> simp [State.link, State.reset, Links.initial, Link.initial]

theorem State.sendAgent_of_up {a : AgentId} (h : s.isUp (.agent a) = true) (m : AgentMsg) :
    s.sendAgent a m = s.setOut { s.out with agents := s.out.agents.set a (s.out.agents[a] ++ [m]) } := if_pos h

theorem State.sendSup_of_up (h : s.isUp .sup = true) (m : SupMsg) :
    s.sendSup m = s.setOut { s.out with sup := s.out.sup ++ [m] } := if_pos h

/-- One message to each of some agents whose links are UP. -/
theorem sendEach_eq (m : AgentId → AgentMsg) {chosen : AgentId → Prop} [DecidablePred chosen] (l : List AgentId)
    (hl : l.Nodup) (up : ∀ a, chosen a → s.isUp (.agent a) = true) :
    l.foldl (fun t a => if chosen a then t.sendAgent a (m a) else t) s =
      s.setOut { s.out with
        agents := Vector.ofFn fun a => s.out.agents[a] ++ if a ∈ l ∧ chosen a then [m a] else [] } := by
  induction l generalizing s with
  | nil =>
    have : (Vector.ofFn fun a : AgentId => s.out.agents[a] ++ []) = s.out.agents := by ext i hi; simp
    simp only [List.foldl_nil, List.not_mem_nil, false_and, if_false, this]
    rfl
  | cons a l ih =>
    obtain ⟨ha, hl⟩ := List.nodup_cons.1 hl
    rw [List.foldl_cons]
    by_cases hc : chosen a
    · rw [if_pos hc, State.sendAgent_of_up (up a hc)]
      refine (ih hl (by exact up)).trans ?_
      rw [State.setOut_setOut]
      refine congrArg (fun v => s.setOut { s.out with agents := v }) (Vector.ext fun j hj => ?_)
      simp only [Vector.getElem_ofFn, State.setOut_out, vector_get_set, List.mem_cons]
      by_cases hja : (⟨j, hj⟩ : AgentId) = a
      · simp [hja, ha, hc]
      · simp [hja]
    · rw [if_neg hc, ih hl up]
      refine congrArg (fun v => s.setOut { s.out with agents := v }) (Vector.ext fun j hj => ?_)
      simp only [Vector.getElem_ofFn, List.mem_cons]
      by_cases hja : (⟨j, hj⟩ : AgentId) = a
      · simp [hja, hc]
      · simp [hja]

theorem Port.restarted_eq (p : Port) :
    p.restarted =
      if p.state = .down then { state := .down, reason := p.reason, context := 0, tags := noneOf 4 }
      else { state := .outside, reason := .restart, context := 0, tags := noneOf 4 } := by
  unfold Port.restarted
  split
  · rename_i h
    rw [← h]
  · rfl

/-- Settles O6: RESTART writes the reset state but for what R149 keeps; then one FENCED for each port that was not DOWN,
and DONE. -/
theorem restartResets : Obligations.RestartResets := by
  unfold Obligations.RestartResets
  intro tag s h up
  have hports : s.ports.map Port.restarted = Vector.ofFn fun a : AgentId =>
      if (s.port a).state = .down then
        { state := .down, reason := (s.port a).reason, context := 0, tags := noneOf 4 }
      else { state := .outside, reason := .restart, context := 0, tags := noneOf 4 } := by
    refine Vector.ext fun i hi => ?_
    rw [Vector.getElem_map, Port.restarted_eq, Vector.getElem_ofFn]
    rfl
  refine congrArg Host.Outcome.next ?_
  rw [receiveMessage_sup h]
  have hsup : s.isUp .sup = true := h.1
  have hfold := sendEach_eq (s := (s.setOut (.onSup [])).restarted) (fun _ => .fenced .restart)
    (chosen := fun a => ¬((s.setOut (.onSup [])).port a).state = .down) (List.finRange 8) (List.nodup_finRange 8) up
  simp only [ite_not] at hfold
  change State.sendPlainDone ((List.finRange 8).foldl _ _) tag = _
  rw [hfold, State.sendPlainDone, State.sendSup_of_up (by exact hsup)]
  simp only [State.restarted, State.setOut_ports, hports]
  refine congrArg (fun v => State.setOut _ { Outputs.onSup [.plainDone tag] with agents := v }) (Vector.ext fun j hj => ?_)
  simp [Outputs.onSup, Outputs.nothing]

/-! ## Links -/

/-- Settles O8: a link error, a parameter word on an UP link and a message without a credit all take the link to
TRAINING by `State.takeLinkError`. -/
theorem linkErrorsAreAlike : Obligations.LinkErrorsAreAlike := by
  unfold Obligations.LinkErrorsAreAlike
  intro l s hup
  have herr (c : LinkFault) : exec (.linkError l c) s = .next (s.begin.takeLinkError l) :=
    congrArg Host.Outcome.next (if_pos hup)
  refine ⟨fun c => (herr c).trans (herr _).symm, fun ok r n k => ?_, fun m hm hc => ?_⟩
  · have hst : (s.link l).state = .up := State.isUp_eq_true.1 hup
    rw [herr]
    simp only [exec, execParameterWord, hst]
  · rw [herr, exec_message hm, receiveMessage_no_credit hup hc]

/-- Settles O49: in the reset state every table and list is empty. -/
theorem resetMeetsTheLaws : Obligations.ResetMeetsTheLaws := by
  unfold Obligations.ResetMeetsTheLaws
  have hports := portsLaw_iff.1 (PortsLaw.of_reset (s := .reset) rfl)
  have table (a : AgentId) : State.reset.table a = .initial := by simp [State.table, State.reset]
  have held (a : AgentId) (i : Fin 64) : State.reset.held a i = none := by
    simp [State.held, table, SlotTable.initial]
  have entry (e : Fin 16) : State.reset.entry e = none := by simp [State.entry, State.reset]
  have group (g : Fin 4) : State.reset.group g = .initial := by simp [State.group, State.reset]
  have slot (i : Fin 16) : State.reset.slot i = .free := by simp [State.slot, State.reset, Scrub.initial]
  have fill (k : Fin 4) : State.reset.fill k = none := by simp [State.fill, State.reset, Scrub.initial]
  have window (w : Nat) : State.reset.window w = .initial := rfl
  have frame (f : Nat) : State.reset.frame f = .free := rfl
  have park : State.reset.park = [] := rfl
  have active : State.reset.active = none := by simp [State.active, slot, ScrubSlot.activeJob]
  have engine : State.reset.scrub.engine = .idle := rfl
  have queue : State.reset.scrub.queue = [] := rfl
  have outbox : State.reset.outbox = [] := rfl
  exact
    { ports := hports.1
      emptyPorts := hports.2
      outbox := .of_reset rfl
      holders := .of_reset rfl
      pending := .of_reset rfl
      park := parkLaw_iff.2 (.of_reset rfl fun a => by simp [State.port, State.reset, Port.initial])
      rights := fun a i h hh => by simp [held] at hh
      groups := by constructor <;> simp [entry, group, Group.initial]
      rounds := by constructor <;> simp [entry, park, State.parkSound]
      frames := by constructor <;> simp [frame, window, entry, Window.initial]
      scrub := by constructor <;> simp [slot, entry, active, engine, queue, fill, outbox]
      canonical := .of_reset rfl }

end Sys2Proof.Machine
end

section
/-!
PROOFS of O9, O11, O12, O13, O15, O37 and the rules they share with the other statements about single commands: what a
message taken at once finds, what a reply leaves, and what the checks of a request answer.
-/

namespace Sys2Proof.Machine

variable {s t : State} {a : AgentId}

/-! ## Messages taken at once -/

theorem exec_sup {c : Instr} (hc : (commandMessage c).map Prod.fst = some .sup) (h : s.receives .sup) :
    exec c s = .next (act c (s.setOut (.onSup []))) := by
  rw [exec_message hc, receiveMessage_sup h]

theorem exec_agent {c : Instr} (hc : (commandMessage c).map Prod.fst = some (.agent a)) (h : s.receives (.agent a)) :
    exec c s = .next (act c (s.setOut (.onAgent a []))) := by
  rw [exec_message hc, receiveMessage_agent h]

theorem exec_mem {c : Instr} (hc : (commandMessage c).map Prod.fst = some .mem) (h : s.receives .mem) :
    exec c s = .next (act c (s.setOut (.onMem []))) := by
  rw [exec_message hc, receiveMessage_mem h]

/-- A reply on S follows the messages that the action has sent there. -/
theorem State.setOut_sendSup (h : s.isUp .sup = true) (ms : List SupMsg) (m : SupMsg) :
    (s.setOut (.onSup ms)).sendSup m = s.setOut (.onSup (ms ++ [m])) := by
  rw [State.sendSup_of_up (by simpa using h)]
  rfl

theorem State.setOut_sendAgent (h : s.isUp (.agent a) = true) (ms : List AgentMsg) (m : AgentMsg) :
    (s.setOut (.onAgent a ms)).sendAgent a m = s.setOut (.onAgent a (ms ++ [m])) := by
  rw [State.sendAgent_of_up (by simpa using h), State.setOut_setOut]
  exact congrArg s.setOut (Outputs.onAgent_append a ms m)

/-- A message to an agent, then a plain DONE. -/
theorem State.setOut_tell (ha : s.isUp (.agent a) = true) (hup : s.isUp .sup = true) (m : AgentMsg) (tag : BitVec 8) :
    ((s.setOut (.onSup [])).sendAgent a m).sendPlainDone tag =
      s.setOut { Outputs.onSup [.plainDone tag] with agents := Outputs.nothing.agents.set a [m] } := by
  rw [State.sendAgent_of_up (by exact ha), State.sendPlainDone, State.sendSup_of_up (by exact hup)]
  simp [Outputs.onSup, Outputs.nothing, SupMsg.plainDone]

/-- A request on S that passes the common checks. -/
theorem request_served {tag : BitVec 8} (h : s.serves tag) (kind : BitVec 8) (exempt : Bool) (act : State → State)
    (o : Outputs) : request kind tag exempt act (s.setOut o) = act (s.setOut o) :=
  request_of_serves (by simpa using h.2.1) (by simpa using h.2.2) kind exempt act

/-- A request on S that passes the common checks and is refused by its own. -/
theorem refuseSup_eq (h : s.isUp .sup = true) (kind tag : BitVec 8) (r : Reason) :
    (s.setOut (.onSup [])).refuseSup kind tag r = { s with out := .onSup [.refused kind tag r] } :=
  State.setOut_sendSup h [] _

theorem sendPlainDone_eq (h : s.isUp .sup = true) (tag : BitVec 8) :
    (s.setOut (.onSup [])).sendPlainDone tag = { s with out := .onSup [.plainDone tag] } :=
  State.setOut_sendSup h [] _

/-! ## Fields of a request -/

theorem fieldBelow_ofNat {n m : Nat} (i : Fin n) (h : n ≤ 2 ^ m) : fieldBelow n (BitVec.ofNat m i).toNat = some i := by
  rw [fieldBelow_eq_some, BitVec.toNat_ofNat, Nat.mod_eq_of_lt (i.2.trans_le h)]

theorem withAgent_ofNat (a : AgentId) (kind tag : BitVec 8) (act : AgentId → State → State) :
    withAgent kind tag (BitVec.ofNat 9 a) act s = act a s := by
  simp only [withAgent, fieldBelow_ofNat a (m := 9) (by decide)]

theorem withAgent_over {n : BitVec 9} (h : 8 ≤ n.toNat) (kind tag : BitVec 8) (act : AgentId → State → State) :
    withAgent kind tag n act s = s.refuseSup kind tag .badAgent := by
  simp only [withAgent, fieldBelow_eq_none.2 h]

theorem withGroup_ofNat (g : Fin 4) (kind tag : BitVec 8) (act : Fin 4 → State → State) :
    withGroup kind tag (BitVec.ofNat 9 g) act s = act g s := by
  simp only [withGroup, fieldBelow_ofNat g (m := 9) (by decide)]

theorem withGroup_over {n : BitVec 9} (h : 4 ≤ n.toNat) (kind tag : BitVec 8) (act : Fin 4 → State → State) :
    withGroup kind tag n act s = s.refuseSup kind tag .badValue := by
  simp only [withGroup, fieldBelow_eq_none.2 h]

/-! ## The outbox -/

theorem State.postPort_of_mute (h : s.mute) (a : AgentId) :
    s.postPort a =
      { s with
        outbox := portPosting s.outbox a (s.port a).state (s.port a).reason
        noticeN := false } := by
  have hne := portPosting_ne_nil s.outbox a (s.port a).state (s.port a).reason
  have hn : (portPosting s.outbox a (s.port a).state (s.port a).reason).isEmpty = false := by simpa using hne
  unfold State.postPort
  dsimp only
  rw [deliver_mute (by simpa [State.mute] using h)]
  simp only [State.setOutbox, hn]

/-- With credit and S UP the oldest notice leaves. -/
theorem deliver_cons (hup : s.isUp .sup = true) (hc : 0 < s.credit) (n : Notice) (rest : List Notice) :
    deliver (n :: rest) s =
      deliver rest ((((s.sendSup (.notice n)).setCredit (s.credit - 1)).setOutbox rest).noticeDelivered n) :=
  if_pos (by simp [hup, hc])

theorem Notice.updated_other {a : AgentId} {n : Notice} (h : n.isPortOf a = false) (st : PortState) (r : PortReason) :
    n.updated a st r = n := by
  cases n with
  | port b st' r' c =>
    have : b ≠ a := by simpa [Notice.isPortOf] using h
    simp [Notice.updated, this]
  | scrub => rfl

/-- Settles O12: a posting at the tail, one in place, and one delivered at once. -/
theorem portPostings : Obligations.PortPostings := by
  unfold Obligations.PortPostings
  intro a s
  refine ⟨fun hm hn => ?_, fun pre post st r n hm ho hn => ?_, fun hup hc ho => ?_⟩
  · rw [State.postPort_of_mute hm]
    simp [portPosting, hn]
  · have others {l : List Notice} (hl : l.any (Notice.isPortOf a) = false) :
        l.map (Notice.updated a (s.port a).state (s.port a).reason) = l :=
      (List.map_congr_left fun m hm => Notice.updated_other (by simpa using List.any_eq_false.1 hl m hm) _ _).trans
        l.map_id'
    rw [List.any_append, Bool.or_eq_false_iff] at hn
    rw [State.postPort_of_mute hm]
    simp [portPosting, ho, others hn.1, others hn.2, Notice.isPortOf, Notice.updated, Config.maxNoticeCount]
  · have posted : portPosting s.outbox a (s.port a).state (s.port a).reason =
        [.port a (s.port a).state (s.port a).reason 1] := by simp [ho, portPosting]
    unfold State.postPort
    dsimp only
    rw [posted, deliver_cons (by exact hup) (by exact hc), State.sendSup_of_up (by exact hup)]
    cases s
    subst ho
    rfl

/-! ## Words received -/

theorem fillStatus_eq_none {c : BitVec 8} (h : c ≠ 1 ∧ c ≠ 2) : fillStatus c = none := by
  rw [fillStatus, if_neg h.1, if_neg h.2]

theorem fillId_ofNat : ∀ k : Fin 4, (BitVec.ofNat 2 k).toFin = k := by decide

/-- Settles O11: each is a branch that writes nothing, or the state of the link only. -/
theorem disregardedWords : Obligations.DisregardedWords := by
  unfold Obligations.DisregardedWords
  intro l s
  refine ⟨fun k => rfl, fun ws => rfl, fun w => rfl, fun c hup => ?_, fun hl => ?_, fun hl => ?_,
    fun ok r n k hl => ?_, fun k status seq => ⟨fun h hf => ?_, fun hk => ?_⟩⟩
  · simp only [exec, execLinkError, hup]
    rfl
  · simp only [exec, execCarrierLost, hl]
    rfl
  · simp only [exec, execCarrierLost, hl]
    rfl
  · simp only [exec, execParameterWord, hl]
    rfl
  · rw [exec_mem rfl h]
    refine congrArg Host.Outcome.next ?_
    simp only [act, actFilled, takeFilled, fillId_ofNat k, State.setOut_fill]
    split
    · rename_i f ok hfill hst
      rcases hf with hf | hf
      · rw [if_neg (hf f hfill)]
        rfl
      · simp [fillStatus_eq_none hf] at hst
    · rfl
  · simp only [exec, execFillDeadlineExpiry, State.begin_fill, hk]
    rfl

/-- Settles O9: the loss of S writes the credit; that of an agent's link closes the port and posts it. -/
theorem lossOfALinkWithoutHoldings : Obligations.LossOfALinkWithoutHoldings := by
  unfold Obligations.LossOfALinkWithoutHoldings
  intro c s
  refine ⟨fun hup => ⟨?_, ?_⟩, fun a hup hst hm => ?_⟩
  · simp only [exec, execLinkError, hup]
    rfl
  · simp only [exec, execCarrierLost, State.isUp_eq_true.1 hup]
    rfl
  · have lose {u : State} (hu : u.mute) (hp : u.port a = s.port a) :
        u.losePort a = { u.setPort a { s.port a with state := .down, reason := .linkLost } with
          outbox := portPosting u.outbox a .down .linkLost, noticeN := false } := by
      have h1 : u.losePort a = (u.setPort a { u.port a with state := .down, reason := .linkLost }).postPort a := by
        unfold State.losePort
        rcases hst with hst | hst <;> simp only [hp, hst]
      rw [h1, State.postPort_of_mute (s := u.setPort a _) hu, State.port_setPort_self, hp]
      rfl
    have mute (x : Link) (o : Outputs) : State.mute { s.setLink (.agent a) x with out := o } := hm
    constructor
    · simp only [exec, execLinkError, hup]
      exact congrArg Host.Outcome.next (lose (mute _ _) rfl)
    · simp only [exec, execCarrierLost, State.isUp_eq_true.1 hup]
      exact congrArg Host.Outcome.next (lose (mute _ _) rfl)

/-! ## ADMIT and FENCE, requests of an agent that is not let in, GROUP_OPEN -/

/-- Settles O13. -/
theorem admitAndFence : Obligations.AdmitAndFence := by
  unfold Obligations.AdmitAndFence
  intro tag a s h
  have hup : s.isUp .sup = true := h.1.1
  have admits (n : BitVec 9) : exec (.admitAgent tag n) s = .next
      (withAgent 0x29 tag n (takeAdmit tag) (s.setOut (.onSup []))) := by
    rw [exec_sup rfl h.1]
    exact congrArg Host.Outcome.next (request_served h ..)
  have fences (n : BitVec 9) : exec (.fence tag n) s = .next
      (withAgent 0x2A tag n (takeFence tag) (s.setOut (.onSup []))) := by
    rw [exec_sup rfl h.1]
    exact congrArg Host.Outcome.next (request_served h ..)
  refine ⟨fun n hn => ?_, fun hw ha => ?_, fun hw => ?_, fun hs => ?_⟩
  · rw [admits, fences, withAgent_over hn, withAgent_over hn, refuseSup_eq hup, refuseSup_eq hup]
    exact ⟨rfl, rfl⟩
  · rw [admits, fences, withAgent_ofNat, withAgent_ofNat]
    constructor
    · simp only [takeAdmit, State.setOut_port, hw, if_true]
      exact congrArg Host.Outcome.next (State.setOut_tell
        (s := (s.setPort a { s.port a with state := .admitted, context := 0 }).setFence a true) ha hup _ tag)
    · simp only [takeFence, State.setOut_port, hw]
      exact congrArg Host.Outcome.next (State.setOut_tell
        (s := s.setPort a { s.port a with state := .outside, reason := .supervisor }) ha hup _ tag)
  · rw [admits, withAgent_ofNat, takeAdmit, if_neg (by exact hw), refuseSup_eq hup]
  · rw [fences, withAgent_ofNat]
    rcases hs with hs | hs <;>
    · simp only [takeFence, State.setOut_port, hs]
      rw [sendPlainDone_eq hup]

/-- Settles O15: the admission check comes first in each request of an agent. -/
theorem notAdmittedRequests : Obligations.NotAdmittedRequests := by
  unfold Obligations.NotAdmittedRequests
  intro a tag w g r n s h ha
  have hup : s.isUp (.agent a) = true := h.1
  have hadm (o : Outputs) : (s.setOut o).isAdmitted a = false := by simpa [State.isAdmitted] using ha
  have refused (m : AgentMsg) : (s.setOut (.onAgent a [])).sendAgent a m = { s with out := .onAgent a [m] } :=
    State.setOut_sendAgent hup [] m
  refine ⟨?_, ?_, ?_, ?_, ?_, fun hs => ?_, fun hs => ?_⟩
  · rw [exec_agent rfl h]
    simp only [act, actLookup, lookupChecks, hadm]
    exact congrArg Host.Outcome.next (refused _)
  · rw [exec_agent rfl h]
    simp only [act, actReturn, hadm]
    exact congrArg Host.Outcome.next (refused _)
  · rw [exec_agent rfl h]
    simp only [act, actFlush, hadm]
    exact congrArg Host.Outcome.next (refused _)
  · rw [exec_agent rfl h]
    simp only [act, actSwitch, hadm]
    exact congrArg Host.Outcome.next (refused _)
  · rw [exec_agent rfl h]
    simp only [act, actReleased, hadm]
    rfl
  · rw [exec_agent rfl h]
    simp only [act, actJoin, takeJoin, State.setOut_port, hs]
    rfl
  · rw [exec_agent rfl h]
    simp only [act, actJoin, takeJoin, State.setOut_port, hs]
    rfl

/-- Settles O37. -/
theorem groupOpens : Obligations.GroupOpens := by
  unfold Obligations.GroupOpens
  intro tag s
  refine ⟨fun h => ?_, fun h n => ?_⟩
  · have hup : s.isUp .sup = true := h.1.1
    have opens (n : BitVec 9) : exec (.groupOpen tag n) s = .next
        (withGroup 0x26 tag n (takeGroupOpen tag) (s.setOut (.onSup []))) := by
      rw [exec_sup rfl h.1]
      exact congrArg Host.Outcome.next (request_served h ..)
    refine ⟨fun n hn => ?_, fun g => ⟨fun hg => ?_, fun hg => ?_⟩⟩
    · rw [opens, withGroup_over hn, refuseSup_eq hup]
    · rw [opens, withGroup_ofNat, takeGroupOpen, if_pos (by exact hg)]
      exact congrArg Host.Outcome.next (sendPlainDone_eq (s := s.setGroup g { state := .opened, members := [] }) hup tag)
    · rw [opens, withGroup_ofNat, takeGroupOpen, if_neg (by exact hg), refuseSup_eq hup]
  · have hup : s.isUp .sup = true := h.1
    rw [exec_sup rfl h]
    refine ⟨fun hs => ?_, fun hs ht => ?_⟩
    · simp only [act, actGroupOpen, request, State.setOut_isServing, hs]
      exact congrArg Host.Outcome.next (refuseSup_eq hup ..)
    · simp only [act, actGroupOpen, request, State.setOut_isServing, State.setOut_tagInUse, hs, ht]
      exact congrArg Host.Outcome.next (refuseSup_eq hup ..)

end Sys2Proof.Machine
end

section
/-!
SUPPORT of O58 and O59. What the Scrub Engine's own actions keep of its law, written without the entries that reserve
slots and without the two clauses that hold only between actions: that a RUNNING engine has an ACTIVE job and that a
SUSPENDING one has a fill in flight (R114 to R125).
-/

namespace Sys2Proof.Machine

variable {s t : State} {i : Fin 16} {j j' : Job}

/-- A frame lies in one of the job's runs. -/
abbrev Job.has (j : Job) (f : Nat) : Prop := j.first.has f ∨ ∃ r ∈ j.second, r.has f

/-- The runs of a job have frames and stand in order, and its position stands in one of them (R116). -/
structure Job.Ordered (j : Job) : Prop where
  first : 1 ≤ j.first.count
  second : ∀ r ∈ j.second, 1 ≤ r.count ∧ j.first.base + j.first.count ≤ r.base
  position : ∀ p ∈ j.position, j.names p

/-- Whether a notice is the SCRUB notice of slot i. -/
def Notice.isScrubOf (i : Fin 16) : Notice → Bool
  | .scrub k .. => decide (k = i)
  | .port .. => false

@[simp] theorem Notice.isScrubOf_scrub (i k : Fin 16) (o : Origin) (r : Run) (q : Option Run) (x y : Nat) :
    Notice.isScrubOf i (.scrub k o r q x y) = decide (k = i) := rfl

@[simp] theorem Notice.isScrubOf_port (i : Fin 16) (a : AgentId) (st : PortState) (r : PortReason) (c : Nat) :
    Notice.isScrubOf i (.port a st r c) = false := rfl

/-- The notices of the ended jobs are in an outbox, one for each (R124, R155). -/
structure NoticesFit (s : State) (o : List Notice) : Prop where
  agree : ∀ i o' r q x y, .scrub i o' r q x y ∈ o ↔
    ∃ j, s.slot i = .ended j ∧ o' = j.origin ∧ r = j.first ∧ q = j.second ∧ x = j.freed ∧ y = j.quarantined
  once : ∀ i, o.countP (Notice.isScrubOf i) ≤ 1

/-- The law of the Scrub Engine within an action. -/
structure EngineLaw (s : State) : Prop where
  scrubbing : ∀ f i, s.frame f = .scrubbing i → ∃ j, (s.slot i = .queued j ∨ s.slot i = .active j) ∧ j.has f
  queued : s.scrub.queue.Nodup ∧ ∀ i, i ∈ s.scrub.queue ↔ ∃ j, s.slot i = .queued j
  oneActive : ∀ i k j j', s.slot i = .active j → s.slot k = .active j' → i = k
  idle : s.scrub.engine = .idle → (∀ i j, s.slot i ≠ .active j) ∧ s.scrub.queue = []
  fills : ∀ k, ∀ f ∈ s.fill k, ∃ i j, s.slot i = .active j ∧ j.has f.frame
  suspended : s.scrub.engine = .suspended → ∀ k, s.fill k = none
  jobs : ∀ i j, s.slot i = .queued j ∨ s.slot i = .active j → j.Ordered
  notices : NoticesFit s s.outbox
  unconfigured : s.device = .unconfigured → ∀ i, s.slot i = .free

/-- A RUNNING engine has an ACTIVE job (R117). -/
def State.Busy (s : State) : Prop := s.scrub.engine = .running → ∃ i j, s.slot i = .active j

/-! ## The ACTIVE job -/

theorem State.active_eq_none : s.active = none ↔ ∀ i j, s.slot i ≠ .active j := by
  simp only [State.active, List.findSome?_eq_none_iff, List.mem_finRange, true_implies, Option.map_eq_none_iff]
  refine forall_congr' fun i => ?_
  cases s.slot i <;> simp [ScrubSlot.activeJob]

theorem State.active_eq_some (one : ∀ i k j j', s.slot i = .active j → s.slot k = .active j' → i = k) :
    s.active = some (i, j) ↔ s.slot i = .active j := by
  refine ⟨State.slot_of_active, fun h => ?_⟩
  cases ha : s.active with
  | none => exact absurd h (State.active_eq_none.1 ha i j)
  | some p =>
    obtain ⟨k, j'⟩ := p
    have hk := State.slot_of_active ha
    obtain rfl := one k i j' j hk h
    rw [hk] at h
    cases h
    rfl

theorem Job.covers_eq_true {f : Nat} : j.covers f = true ↔ j.has f := by
  unfold Job.covers Job.runs
  cases hs : j.second <;> simp [Run.covers, Job.has, hs]

/-! ## Positions -/

theorem Job.nextFrame_names (second : ∀ r ∈ j.second, 1 ≤ r.count) {p : Position} (hp : j.names p) :
    ∀ q ∈ j.nextFrame p, j.names q := by
  unfold Job.nextFrame
  unfold Job.names at hp ⊢
  obtain ⟨b, f, c⟩ := p
  cases b <;> cases hs : j.second <;> simp_all <;> grind

theorem Job.nextBlock_names (second : ∀ r ∈ j.second, 1 ≤ r.count) {p : Position} (hp : j.names p) :
    ∀ q ∈ j.nextBlock p, j.names q := by
  unfold Job.nextBlock
  split
  · rintro q ⟨⟩
    exact hp
  · exact j.nextFrame_names second hp

/-- A position passed to is a block of the job in a frame that is SCRUBBING for its slot. -/
theorem passOver_names (second : ∀ r ∈ j.second, 1 ≤ r.count) :
    ∀ (n : Nat) (p : Option Position), (∀ q ∈ p, j.names q) →
      ∀ q ∈ passOver s i j n p, j.names q ∧ s.frame q.frame = .scrubbing i
  | 0, _, _ => by simp [passOver]
  | n + 1, none, _ => by simp [passOver]
  | n + 1, some p, hp => by
    have hp : j.names p := hp p rfl
    have next := passOver_names second n (j.nextFrame p) (j.nextFrame_names second hp)
    unfold passOver
    split
    · split
      · rintro q ⟨⟩
        exact ⟨hp, ‹_›⟩
      · exact next
    · exact next

theorem State.passed_names (h : j.Ordered) {p : Option Position} (hp : ∀ q ∈ p, j.names q) :
    ∀ q ∈ s.passed i j p, j.names q ∧ s.frame q.frame = .scrubbing i :=
  passOver_names (fun r hr => (h.second r hr).1) _ p hp

/-! ## The parts of the engine's actions -/

namespace EngineLaw

/-- An action that writes nothing of the engine, its frames and its notices. -/
theorem of_eq (h : EngineLaw s) (hf : ∀ f i, t.frame f = .scrubbing i → s.frame f = .scrubbing i)
    (he : (t.scrub, t.outbox, t.device) = (s.scrub, s.outbox, s.device)) : EngineLaw t := by
  simp only [Prod.mk.injEq] at he
  obtain ⟨hs, ho, hd⟩ := he
  have slot (i : Fin 16) : t.slot i = s.slot i := by simp only [State.slot, hs]
  have fill (k : Fin 4) : t.fill k = s.fill k := by simp only [State.fill, hs]
  constructor
  · simpa only [slot] using fun f i hi => h.scrubbing f i (hf f i hi)
  · simpa only [slot, hs] using h.queued
  · simpa only [slot] using h.oneActive
  · simpa only [slot, hs] using h.idle
  · simpa only [slot, fill] using h.fills
  · simpa only [hs, fill] using h.suspended
  · simpa only [slot] using h.jobs
  · exact ⟨by simpa only [slot, ho] using h.notices.agree, by simpa only [ho] using h.notices.once⟩
  · simpa only [slot, hd] using h.unconfigured

/-- The ACTIVE job is rewritten, its runs kept. -/
theorem setActive (h : EngineLaw s) (hi : s.slot i = .active j) (hf : j'.first = j.first) (hs : j'.second = j.second)
    (hp : ∀ p ∈ j'.position, j'.names p) : EngineLaw (s.setSlot i (.active j')) := by
  have hj := h.jobs i j (.inr hi)
  have has (f : Nat) : j'.has f ↔ j.has f := by simp only [Job.has, hf, hs]
  have ord : j'.Ordered := ⟨hf ▸ hj.first, by rw [hf, hs]; exact hj.second, hp⟩
  constructor
  · intro f k hk
    obtain ⟨j0, h0, hh⟩ := h.scrubbing f k hk
    rw [State.slot_setSlot]
    grind
  · refine ⟨h.queued.1, fun k => ?_⟩
    rw [State.slot_setSlot]
    have := h.queued.2 k
    change k ∈ s.scrub.queue ↔ _
    grind
  · intro i1 i2 j1 j2
    have := h.oneActive
    rw [State.slot_setSlot, State.slot_setSlot]
    grind
  · intro he
    exact absurd hi ((h.idle he).1 i j)
  · intro k f hk
    obtain ⟨i0, j0, h0, hh⟩ := h.fills k f hk
    obtain rfl := h.oneActive _ _ _ _ h0 hi
    rw [hi] at h0
    cases h0
    exact ⟨i0, j', by simp, (has _).2 hh⟩
  · exact h.suspended
  · intro k jk
    rw [State.slot_setSlot]
    have := h.jobs k jk
    grind
  · refine ⟨fun k => ?_, h.notices.once⟩
    have := h.notices.agree k
    rw [State.slot_setSlot]
    change ∀ o' r q x y, _ ∈ s.outbox ↔ _
    grind
  · intro hd
    have := h.unconfigured hd i
    rw [hi] at this
    cases this

/-- Fills in flight are written, each of a frame of the ACTIVE job; none is sent while the engine is SUSPENDED. -/
theorem setFills (h : EngineLaw s) {v : Vector (Option Fill) 4}
    (hv : ∀ k : Fin 4, ∀ f ∈ v[k], s.fill k = some f ∨
      s.scrub.engine ≠ .suspended ∧ ∃ i j, s.slot i = .active j ∧ j.has f.frame) (q : BitVec 16) :
    EngineLaw (s.setScrub { s.scrub with fills := v, seq := q }) where
  scrubbing := h.scrubbing
  queued := h.queued
  oneActive := h.oneActive
  idle := h.idle
  fills k f hf := (hv k f hf).elim (h.fills k f) And.right
  suspended he k := Option.eq_none_iff_forall_ne_some.2 fun f hf =>
    (hv k f hf).elim (by rw [h.suspended he k]; exact nofun) fun hn => hn.1 he
  jobs := h.jobs
  notices := ⟨h.notices.agree, h.notices.once⟩
  unconfigured := h.unconfigured

theorem endFill (h : EngineLaw s) (k : Fin 4) : EngineLaw (s.setFill k none) :=
  h.setFills (v := s.scrub.fills.set k none) (fun k' f hf => by
    rw [vector_get_set] at hf
    split at hf
    · cases hf
    · exact .inl hf) s.scrub.seq

/-- The engine state is written: IDLE only without a job, SUSPENDED only without a fill in flight. -/
theorem setEngine (h : EngineLaw s) {x : Engine}
    (hi : x = .idle → (∀ i j, s.slot i ≠ .active j) ∧ s.scrub.queue = [])
    (hs : x = .suspended → ∀ k, s.fill k = none) : EngineLaw (s.setEngine x) where
  scrubbing := h.scrubbing
  queued := h.queued
  oneActive := h.oneActive
  idle := hi
  fills := h.fills
  suspended := hs
  jobs := h.jobs
  notices := ⟨h.notices.agree, h.notices.once⟩
  unconfigured := h.unconfigured

/-! ## The sending of fills -/

theorem sendOneFill (h : EngineLaw s) : EngineLaw s.sendOneFill := by
  unfold State.sendOneFill
  split
  · rename_i hrun
    split
    · rename_i i j k ha hk
      have hi := State.slot_of_active ha
      have hj := h.jobs i j (.inr hi)
      split
      · exact h.setActive hi rfl rfl nofun
      · rename_i p hp
        obtain ⟨hn, hf⟩ := State.passed_names hj hj.position p hp
        have h1 := h.setActive (j' := { j with position := s.passed i j (j.nextBlock p) }) hi rfl rfl
          fun q hq => (State.passed_names hj (j.nextBlock_names (fun r hr => (hj.second r hr).1) hn) q hq).1
        extract_lets f s1 s2 scrub s3
        have h3 : EngineLaw s3 := h1.setFills (v := s1.scrub.fills.set k (some f)) (fun k' g hg => by
          rw [vector_get_set] at hg
          split at hg
          · cases hg
            refine .inr ⟨by simp [hrun.1], i, _, State.slot_setSlot_self .., ?_⟩
            obtain ⟨j0, h0, hh⟩ := h.scrubbing _ _ hf
            grind
          · exact .inl hg) _
        exact h3.of_eq (by simp) (by simp)
    · exact h
  · exact h

/-! ## Notices -/

/-- A slot is written that holds no job to be done, and the outbox with it. -/
theorem setEnded (h : EngineLaw s) {x : ScrubSlot} {o : List Notice} (hq : ∀ j, s.slot i ≠ .queued j)
    (hx : ∀ j, x ≠ .queued j ∧ x ≠ .active j) (hf : ∀ f, s.frame f ≠ .scrubbing i)
    (ha : ∀ j, s.slot i = .active j → ∀ k, s.fill k = none) (hu : s.device = .unconfigured → x = .free)
    (ho : NoticesFit (s.setSlot i x) o) : EngineLaw ((s.setSlot i x).setOutbox o) := by
  have active (k : Fin 16) (j : Job) : (s.setSlot i x).slot k = .active j ↔ k ≠ i ∧ s.slot k = .active j := by
    rw [State.slot_setSlot]
    grind
  have queued (k : Fin 16) (j : Job) : (s.setSlot i x).slot k = .queued j ↔ s.slot k = .queued j := by
    rw [State.slot_setSlot]
    grind
  constructor
  · intro f k hk
    obtain ⟨j, hj, hh⟩ := h.scrubbing f k hk
    have : k ≠ i := fun hki => hf f (hki ▸ hk)
    exact ⟨j, hj.imp (queued k j).2 fun hj => (active k j).2 ⟨this, hj⟩, hh⟩
  · exact ⟨h.queued.1, fun k => (h.queued.2 k).trans (exists_congr fun j => (queued k j).symm)⟩
  · exact fun k l j j' hk hl => h.oneActive k l j j' ((active k j).1 hk).2 ((active l j').1 hl).2
  · exact fun he => ⟨fun k j hk => (h.idle he).1 k j ((active k j).1 hk).2, (h.idle he).2⟩
  · intro k f hk
    obtain ⟨k', j, hj, hh⟩ := h.fills k f hk
    refine ⟨k', j, (active k' j).2 ⟨?_, hj⟩, hh⟩
    rintro rfl
    exact absurd hk (by rw [show ((s.setSlot k' x).setOutbox o).fill k = s.fill k from rfl, ha j hj k]; exact nofun)
  · exact h.suspended
  · exact fun k j hk => h.jobs k j (hk.imp (queued k j).1 fun hk => ((active k j).1 hk).2)
  · exact ⟨ho.agree, ho.once⟩
  · intro hd k
    change (s.setSlot i x).slot k = _
    rw [State.slot_setSlot]
    split
    · exact hu hd
    · exact h.unconfigured hd k

/-- A slot without a job is reserved or freed. -/
theorem setReserved (h : EngineLaw s) {x : ScrubSlot} (hi : s.slot i = .free ∨ ∃ e, s.slot i = .reserved e)
    (hx : x = .free ∨ (∃ e, x = .reserved e) ∧ s.device ≠ .unconfigured) : EngineLaw (s.setSlot i x) := by
  have jobless (j : Job) : s.slot i ≠ .queued j ∧ s.slot i ≠ .active j ∧ s.slot i ≠ .ended j := by grind
  have fits : NoticesFit (s.setSlot i x) s.outbox := ⟨fun k o r q x' y => by
    have := h.notices.agree k o r q x' y
    rw [State.slot_setSlot]
    grind, h.notices.once⟩
  refine (h.setEnded (x := x) (o := s.outbox) (fun j => (jobless j).1) (by grind) (fun f hf => ?_)
    (fun j hj => absurd hj (jobless j).2.1) (by grind) fits).of_eq (fun _ _ => id) rfl
  obtain ⟨j, hj, -⟩ := h.scrubbing f i hf
  exact hj.elim (jobless j).1 (jobless j).2.1

theorem setOutbox (h : EngineLaw s) {o : List Notice} (ho : NoticesFit s o) : EngineLaw (s.setOutbox o) where
  scrubbing := h.scrubbing
  queued := h.queued
  oneActive := h.oneActive
  idle := h.idle
  fills := h.fills
  suspended := h.suspended
  jobs := h.jobs
  notices := ⟨ho.agree, ho.once⟩
  unconfigured := h.unconfigured

/-- The oldest notice leaves; the slot of a SCRUB notice leaves ENDED with it. -/
theorem delivered (h : EngineLaw s) {n : Notice} {rest : List Notice} (ho : s.outbox = n :: rest) :
    EngineLaw ((s.setOutbox rest).noticeDelivered n) := by
  have agree := h.notices.agree
  have once := h.notices.once
  rw [ho] at agree once
  cases n with
  | port a st r c =>
    exact h.setOutbox ⟨fun k o r q x y => by simpa using agree k o r q x y, fun k => by simpa using once k⟩
  | scrub i o r q x y =>
    obtain ⟨j, hj, -⟩ := (agree i o r q x y).1 (by simp)
    have gone : rest.countP (Notice.isScrubOf i) = 0 := by
      have := once i
      rw [List.countP_cons_of_pos (by simp)] at this
      omega
    have hfit : NoticesFit (s.setSlot i .free) rest := by
      refine ⟨fun k o' r' q' x' y' => ?_, fun k => le_trans ?_ (once k)⟩
      · rw [State.slot_setSlot]
        have ha := agree k o' r' q' x' y'
        split
        · rename_i hk
          subst hk
          have : Notice.scrub k o' r' q' x' y' ∉ rest := fun hm => by simpa using List.countP_eq_zero.1 gone _ hm
          simpa using this
        · rw [← ha]
          simp_all
      · rw [List.countP_cons]
        omega
    have hslot : (s.setOutbox rest).slot i = .ended j := hj
    rw [State.noticeDelivered]
    simp only [hslot]
    exact h.setEnded (by simp [hj]) (by simp) (fun f hf => by
      obtain ⟨j0, h0, -⟩ := h.scrubbing f i hf
      simp [hj] at h0) (by simp [hj]) (fun _ => rfl) hfit

theorem deliver : ∀ {o : List Notice} {s : State}, EngineLaw s → s.outbox = o → EngineLaw (deliver o s)
  | [], _, h, _ => h
  | n :: rest, s, h, ho => by
    unfold Machine.deliver
    split
    · have h1 : EngineLaw ((s.sendSup (.notice n)).setCredit (s.credit - 1)) := h.of_eq (fun f i hf => (State.sendSup_frame ..).symm.trans hf) (by simp [State.setCredit])
      exact deliver (h1.delivered (by simpa [State.setCredit] using ho)) (by simp [State.setOutbox])
    · exact h

theorem post (h : EngineLaw s) {o : List Notice} (ho : NoticesFit s o) :
    EngineLaw (Machine.deliver o (s.setOutbox o)) := (h.setOutbox ho).deliver rfl

theorem portPosting_fits {o : List Notice} (h : NoticesFit s o) (a : AgentId) (st : PortState) (r : PortReason) :
    NoticesFit s (portPosting o a st r) := by
  unfold portPosting
  split
  · have scrub (n : Notice) (k : Fin 16) (o' : Origin) (r' : Run) (q : Option Run) (x y : Nat) :
        n.updated a st r = .scrub k o' r' q x y ↔ n = .scrub k o' r' q x y := by
      cases n
      · simp only [Notice.updated]
        split <;> simp
      · simp [Notice.updated]
    have count (k : Fin 16) : Notice.isScrubOf k ∘ Notice.updated a st r = Notice.isScrubOf k := by
      funext n
      cases n
      · simp only [Function.comp, Notice.updated]
        split <;> rfl
      · rfl
    exact ⟨fun k o' r' q x y => by simp only [List.mem_map, scrub, exists_eq_right, h.agree],
      fun k => by rw [List.countP_map, count]; exact h.once k⟩
  · exact ⟨fun k o' r' q x y => by simp [← h.agree], fun k => by simpa using h.once k⟩

theorem postPort (h : EngineLaw s) (a : AgentId) : EngineLaw (s.postPort a) := h.post (portPosting_fits h.notices ..)

/-! ## The end of a job -/

theorem startNext (h : EngineLaw s) : EngineLaw s.startNext := by
  unfold State.startNext
  split
  · rename_i hrun
    split
    · rename_i hq
      exact h.setEngine (fun _ => ⟨State.active_eq_none.1 hrun.2, hq⟩) nofun
    · rename_i i rest hq
      have none := State.active_eq_none.1 hrun.2
      obtain ⟨nodup, mem⟩ := h.queued
      rw [hq] at nodup mem
      obtain ⟨j, hj⟩ := (mem i).1 (by simp)
      simp only [hj]
      have slot (k : Fin 16) : ((s.setScrub { s.scrub with queue := rest }).setSlot i (.active j)).slot k =
          if k = i then .active j else s.slot k := State.slot_setSlot ..
      constructor
      · intro f k hk
        obtain ⟨j0, h0, hh⟩ := h.scrubbing f k hk
        refine ⟨j0, ?_, hh⟩
        rw [slot]
        grind
      · refine ⟨nodup.of_cons, fun k => ?_⟩
        have := mem k
        have hn := nodup.notMem
        rw [slot]
        change k ∈ rest ↔ _
        grind
      · intro k l j1 j2
        rw [slot, slot]
        grind
      · intro he
        exact absurd (hrun.1.symm.trans he) (by simp)
      · intro k f hf
        obtain ⟨k', j', hk', -⟩ := h.fills k f hf
        exact absurd hk' (none k' j')
      · exact h.suspended
      · intro k j0
        have := h.jobs k j0
        have := h.jobs i j
        rw [slot]
        grind
      · refine ⟨fun k => ?_, h.notices.once⟩
        have := h.notices.agree k
        rw [slot]
        change ∀ o' r q x y, _ ∈ s.outbox ↔ _
        grind
      · intro hd
        have := h.unconfigured hd i
        rw [hj] at this
        cases this
  · exact h

theorem no_scrubbing (h : EngineLaw s) (hi : s.slot i = .active j) (hs : s.hasScrubbing i j = false) (f : Nat) :
    s.frame f ≠ .scrubbing i := by
  intro hf
  obtain ⟨j0, h0, hh⟩ := h.scrubbing f i hf
  obtain rfl : j0 = j := by
    rw [hi] at h0
    simpa [eq_comm] using h0
  have listed : (f, FrameState.scrubbing i) ∈ s.frames := by
    have := sparseGet_mem FrameState.free s.frames f
    rw [show sparseGet FrameState.free s.frames f = .scrubbing i from hf] at this
    simpa using this
  rw [State.hasScrubbing, List.any_eq_false] at hs
  exact hs _ listed (by simp [Job.covers_eq_true, hh])

end EngineLaw

/-! ## Reserved slots and the ACTIVE job -/

/-- The same slots are RESERVED, for the same entries. -/
def SameReserved (s t : State) : Prop := ∀ i e, t.slot i = .reserved e ↔ s.slot i = .reserved e

theorem SameReserved.refl (s : State) : SameReserved s s := fun _ _ => .rfl

theorem SameReserved.trans {u : State} (h : SameReserved s t) (k : SameReserved t u) : SameReserved s u :=
  fun i e => (k i e).trans (h i e)

theorem SameReserved.of_eq (h : t.scrub.slots = s.scrub.slots) : SameReserved s t := fun i e => by
  rw [State.slot, State.slot, h]

theorem SameReserved.setSlot {x : ScrubSlot} (hs : ∀ e, s.slot i ≠ .reserved e) (hx : ∀ e, x ≠ .reserved e) :
    SameReserved s (s.setSlot i x) := fun k e => by
  rw [State.slot_setSlot]
  grind

theorem deliver_slot (k : Fin 16) : ∀ (o : List Notice) (s : State),
    (deliver o s).slot k = s.slot k ∨ (∃ j, s.slot k = .ended j) ∧ (deliver o s).slot k = .free
  | [], _ => .inl rfl
  | n :: rest, s => by
    unfold deliver
    split
    · have step : ∀ u : State, (u.noticeDelivered n).slot k = u.slot k ∨
          (∃ j, u.slot k = .ended j) ∧ (u.noticeDelivered n).slot k = .free := fun u => by
        rcases State.noticeDelivered_cases u n with hn | ⟨i, o, f, r, x, y, j, -, hj, hn⟩ <;> rw [hn]
        · exact .inl rfl
        · rw [State.slot_setSlot]
          grind
      have h1 := step (((s.sendSup (.notice n)).setCredit (s.credit - 1)).setOutbox rest)
      have h2 := deliver_slot k rest
        ((((s.sendSup (.notice n)).setCredit (s.credit - 1)).setOutbox rest).noticeDelivered n)
      rw [show (((s.sendSup (.notice n)).setCredit (s.credit - 1)).setOutbox rest).slot k = s.slot k from
        State.sendSup_slot ..] at h1
      grind
    · exact .inl rfl

theorem deliver_sameReserved (o : List Notice) (s : State) : SameReserved s (deliver o s) := fun k e => by
  have := deliver_slot k o s
  grind

theorem State.sendOneFill_sameReserved : SameReserved s s.sendOneFill := by
  unfold State.sendOneFill
  split
  · split
    · rename_i i j k ha hk
      have hi := State.slot_of_active ha
      split
      · exact .setSlot (by simp [hi]) (by simp)
      · rename_i p hp
        exact (SameReserved.setSlot (i := i) (x := .active { j with position := s.passed i j (j.nextBlock p) })
          (by simp [hi]) (by simp)).trans (.of_eq (by simp))
    · exact .refl s
  · exact .refl s

theorem State.startNext_sameReserved : SameReserved s s.startNext := by
  unfold State.startNext
  split
  · split
    · exact .of_eq (by rfl)
    · dsimp only
      split
      · rename_i j hj
        exact fun k e => by
          rw [State.slot_setSlot]
          change (if k = _ then _ else s.slot k) = _ ↔ _
          grind
      · exact .of_eq (by rfl)
  · exact .refl s

/-- A job ends, and the engine starts the next one from a state that meets its law. -/
theorem State.endJob_cases (h : EngineLaw s) (ht : s.endJob = some t) :
    ∃ u, EngineLaw u ∧ SameReserved s u ∧ t = u.startNext := by
  unfold State.endJob at ht
  split at ht
  · cases ht
  · rename_i i j ha
    split at ht
    · cases ht
    · rename_i hq
      cases ht
      have hi := State.slot_of_active ha
      simp only [Bool.or_eq_true, Bool.not_eq_true', not_or, Bool.not_eq_true, Bool.not_eq_false] at hq
      have quiet (k : Fin 4) : s.fill k = none := by
        simpa [State.quiet] using (List.all_eq_true.1 hq.2) k (by simp)
      have fits : NoticesFit (s.setSlot i (.ended j)) (s.outbox ++ [j.notice i]) := by
        have absent (o : Origin) (r : Run) (q : Option Run) (x y : Nat) : .scrub i o r q x y ∉ s.outbox := fun hm => by
          obtain ⟨j', hj', -⟩ := (h.notices.agree ..).1 hm
          rw [hi] at hj'
          cases hj'
        refine ⟨fun k o r q x y => ?_, fun k => ?_⟩
        · rw [State.slot_setSlot, List.mem_append, h.notices.agree]
          split
          · simp_all [Job.notice]
          · simp [Job.notice]
            grind
        · rw [List.countP_append]
          by_cases hk : k = i
          · subst hk
            have : s.outbox.countP (Notice.isScrubOf k) = 0 := List.countP_eq_zero.2 fun n hn => by
              cases n with
              | port => simp
              | scrub k' o r q x y =>
                rintro hk
                obtain rfl : k' = k := by simpa using hk
                exact absent o r q x y hn
            simp [this, Job.notice]
          · have := h.notices.once k
            simpa [Job.notice, Ne.symm hk] using this
      have h1 := h.setEnded (x := .ended j) (by simp [hi]) (by simp) (h.no_scrubbing hi hq.1) (fun _ _ => quiet)
        (fun hd => by simp [h.unconfigured hd i] at hi) fits
      refine ⟨_, h1.deliver rfl, ?_, rfl⟩
      exact (SameReserved.setSlot (i := i) (x := .ended j) (by simp [hi]) (by simp)).trans
        ((SameReserved.of_eq (by rfl)).trans (deliver_sameReserved _ _))

theorem State.sendOneFill_busy (h : s.Busy) : s.sendOneFill.Busy := by
  unfold State.sendOneFill
  split
  · split
    · rename_i i j k ha hk
      split
      · exact fun _ => ⟨i, _, State.slot_setSlot_self ..⟩
      · rename_i p hp
        refine fun _ => ⟨i, { j with position := s.passed i j (j.nextBlock p) }, ?_⟩
        rw [State.sendFill_slot]
        exact State.slot_setSlot_self ..
    · exact h
  · exact h

theorem State.startNext_busy (h : EngineLaw s) : s.startNext.Busy := by
  unfold State.startNext
  split
  · split
    · intro he
      cases he
    · rename_i i rest hq
      obtain ⟨j, hj⟩ := (h.queued.2 i).1 (by simp [hq])
      simp only [hj]
      exact fun _ => ⟨i, j, State.slot_setSlot_self ..⟩
  · rename_i hn
    intro he
    by_contra hc
    exact hn ⟨he, State.active_eq_none.2 fun i j hi => hc ⟨i, j, hi⟩⟩

/-- What an action of the engine keeps: its law, and the RESERVED slots; and a RUNNING engine has an ACTIVE job. -/
structure EngineKept (s t : State) : Prop where
  law : EngineLaw t
  busy : t.Busy
  reserved : SameReserved s t

theorem State.drive_kept (h : EngineLaw s) (hb : s.Busy) : EngineKept s s.drive :=
  runEngine_keeps (P := EngineKept s)
    (fun _ h => ⟨h.law.sendOneFill, State.sendOneFill_busy h.busy, h.reserved.trans State.sendOneFill_sameReserved⟩)
    (fun _ _ h ht => by
      obtain ⟨u, hu, hr, rfl⟩ := State.endJob_cases h.law ht
      exact ⟨hu.startNext, State.startNext_busy hu, (h.reserved.trans hr).trans State.startNext_sameReserved⟩)
    _ s ⟨h, hb, .refl s⟩

/-! ## The ends of fills -/

/-- While the engine is SUSPENDING a fill is in flight (R125). -/
def State.Awaiting (s : State) : Prop := ∀ t, s.scrub.engine = .suspending t → ∃ k, s.fill k ≠ none

/-- The frames that an action of the engine writes were SCRUBBING, and are FREE or QUARANTINED. -/
def FramesScrubbed (s t : State) : Prop :=
  ∀ f, t.frame f = s.frame f ∨ (∃ i, s.frame f = .scrubbing i) ∧ (t.frame f = .free ∨ t.frame f = .quarantined)

/-- What an action of the engine keeps that leaves it between actions. -/
structure EngineDone (s t : State) : Prop extends EngineKept s t where
  awaiting : t.Awaiting
  frames : FramesScrubbed s t

theorem EngineOnly.framesScrubbed (h : EngineOnly s t) : FramesScrubbed s t := fun f =>
  .inl (by simp only [State.frame, h.frames])

theorem EngineKept.trans {u : State} (h : EngineKept s t) (k : EngineKept t u) : EngineKept s u :=
  ⟨k.law, k.busy, h.reserved.trans k.reserved⟩

theorem State.quiet_eq_true : s.quiet = true ↔ ∀ k, s.fill k = none := by simp [State.quiet]

theorem State.settleSuspend_kept (h : EngineLaw s) (hb : s.Busy) :
    EngineKept s s.settleSuspend ∧ s.settleSuspend.Awaiting := by
  unfold State.settleSuspend
  split
  · rename_i tag he
    split
    · rename_i hq
      have h1 : EngineLaw (s.setEngine .suspended) := h.setEngine nofun fun _ => State.quiet_eq_true.1 hq
      exact ⟨⟨h1.of_eq (by simp) (by simp), fun hr => by simp at hr, .of_eq (by simp)⟩, fun _ hr => by simp at hr⟩
    · rename_i hq
      refine ⟨⟨h, hb, .refl s⟩, fun _ _ => ?_⟩
      by_contra hc
      exact hq (State.quiet_eq_true.2 (by simpa using hc))
  · rename_i hn
    exact ⟨⟨h, hb, .refl s⟩, fun tag he => absurd he (hn tag)⟩

theorem State.afterFill_kept (h : EngineLaw s) (hb : s.Busy) : EngineKept s s.afterFill ∧ s.afterFill.Awaiting := by
  have hd := State.drive_kept h hb
  have hs := State.settleSuspend_kept hd.law hd.busy
  exact ⟨hd.trans hs.1, hs.2⟩

theorem deliver_scrub : ∀ (o : List Notice) (s : State),
    ∃ v, (deliver o s).scrub = { s.scrub with slots := v }
  | [], s => ⟨s.scrub.slots, rfl⟩
  | n :: rest, s => by
    unfold deliver
    split
    · obtain ⟨v, hv⟩ := deliver_scrub rest
        ((((s.sendSup (.notice n)).setCredit (s.credit - 1)).setOutbox rest).noticeDelivered n)
      refine ⟨v, hv.trans ?_⟩
      rcases State.noticeDelivered_cases
        (((s.sendSup (.notice n)).setCredit (s.credit - 1)).setOutbox rest) n with hn | ⟨_, _, _, _, _, _, _, -, -, hn⟩ <;>
      simp [hn]
    · exact ⟨s.scrub.slots, rfl⟩

theorem deliver_engine (o : List Notice) (s : State) : (deliver o s).scrub.engine = s.scrub.engine := by
  obtain ⟨v, hv⟩ := deliver_scrub o s
  rw [hv]

theorem deliver_fill (o : List Notice) (s : State) (k : Fin 4) : (deliver o s).fill k = s.fill k := by
  obtain ⟨v, hv⟩ := deliver_scrub o s
  rw [State.fill, hv]
  rfl

/-- A SUSPENDING engine has nothing to do while a fill is in flight. -/
theorem State.drive_awaiting (h : s.Awaiting) : s.drive.Awaiting :=
  runEngine_keeps (P := State.Awaiting)
    (fun u hu tag he => by
      have same : u.sendOneFill.scrub.engine = u.scrub.engine := by
        unfold State.sendOneFill
        split
        · split
          · split <;> simp
          · rfl
        · rfl
      rw [same] at he
      rw [State.sendOneFill, if_neg (by simp [he])]
      exact hu tag he)
    (fun u v hu hv tag he => by
      unfold State.endJob at hv
      split at hv
      · cases hv
      · split at hv
        · cases hv
        · rename_i hq
          cases hv
          have engine (w : State) (hw : w.startNext.scrub.engine = .suspending tag) : w.scrub.engine = .suspending tag := by
            unfold State.startNext at hw
            split at hw
            · split at hw
              · simp at hw
              · dsimp only at hw
                split at hw <;> exact hw
            · exact hw
          have := engine _ he
          rw [State.postScrub, deliver_engine] at this
          obtain ⟨k, hk⟩ := hu tag this
          simp only [Bool.or_eq_true, Bool.not_eq_true', not_or, Bool.not_eq_false] at hq
          exact absurd (State.quiet_eq_true.1 hq.2 k) hk)
    _ s h

theorem State.setFrame_frame (f g : Nat) (y : FrameState) :
    (s.setFrames (sparseSet .free s.frames f y)).frame g = if g = f then y else s.frame g := sparseGet_set ..

theorem deliver_engineOnly (o : List Notice) (s : State) : EngineOnly s (deliver o s) := by constructor <;> simp

/-- The delivery of notices is an action of the engine in so far as it frees slots. -/
theorem deliver_done (h : EngineLaw s) (hb : s.Busy) (ha : s.Awaiting) : EngineDone s (deliver s.outbox s) where
  law := h.deliver rfl
  busy he := by
    rw [deliver_engine] at he
    obtain ⟨i, j, hi⟩ := hb he
    have := deliver_slot i s.outbox s
    grind
  reserved := deliver_sameReserved _ _
  awaiting := by simpa only [State.Awaiting, deliver_engine, deliver_fill] using ha
  frames := (deliver_engineOnly ..).framesScrubbed

/-- Within an action the engine's law holds while frames that were SCRUBBING are settled and the ACTIVE job counts them. -/
theorem State.scrubbed_kept (h : EngineLaw s) (hi : s.slot i = .active j) {f : Nat} {y : FrameState}
    (hf : j'.first = j.first) (hs : j'.second = j.second) (hp : ∀ p ∈ j'.position, j'.names p)
    (hy : ∀ i, y ≠ .scrubbing i) :
    EngineKept s ((s.setFrames (sparseSet .free s.frames f y)).setSlot i (.active j')) where
  law := by
    have h1 : EngineLaw (s.setFrames (sparseSet .free s.frames f y)) := h.of_eq (fun g k hk => by
      rw [State.setFrame_frame] at hk
      split at hk
      · exact absurd hk (hy k)
      · exact hk) rfl
    exact h1.setActive hi hf hs hp
  busy _ := ⟨i, j', State.slot_setSlot_self ..⟩
  reserved := .setSlot (s := s.setFrames _) 
    (fun e he => by cases hi.symm.trans he) (by simp)

theorem State.countBlock_kept (h : EngineLaw s) (hi : s.slot i = .active j) (f : Nat) (b : Fin 16) :
    EngineKept s (s.countBlock i j f b) := by
  have hp := (h.jobs i j (.inr hi)).position
  unfold State.countBlock
  dsimp only
  split
  · exact State.scrubbed_kept h hi rfl rfl hp nofun
  · exact ⟨h.setActive hi rfl rfl hp, fun _ => ⟨i, _, State.slot_setSlot_self ..⟩, .setSlot (by simp [hi]) (by simp)⟩

theorem State.quarantine_kept (h : EngineLaw s) (hi : s.slot i = .active j) (f : Nat) :
    EngineKept s (s.quarantine i j f) := by
  have hj := h.jobs i j (.inr hi)
  unfold State.quarantine
  extract_lets s1 src j1 position
  refine State.scrubbed_kept h hi rfl rfl ?_ nofun
  have hj1 : j1.Ordered := ⟨hj.first, hj.second, hj.position⟩
  intro p hp
  unfold position at hp
  split at hp
  · rename_i p0 hp0
    split at hp
    · exact (State.passed_names hj1 (j1.nextFrame_names (fun r hr => (hj.second r hr).1) (hj.position p0 hp0)) p hp).1
    · cases hp
      exact hj.position _ hp0
  · cases hp

theorem State.setFrame_scrubbed {f : Nat} (hf : ∃ k, s.frame f = .scrubbing k) {y : FrameState}
    (hy : y = .free ∨ y = .quarantined) (x : Scrub) :
    FramesScrubbed s ((s.setFrames (sparseSet .free s.frames f y)).setScrub x) := fun g => by
  rw [State.setScrub_frame, State.setFrame_frame]
  split
  · subst_vars
    exact .inr ⟨hf, hy⟩
  · exact .inl rfl

theorem State.afterFill_done {u : State} (h : EngineKept s u) (hf : FramesScrubbed s u) : EngineDone s u.afterFill := by
  obtain ⟨hk, ha⟩ := State.afterFill_kept h.law h.busy
  refine ⟨h.trans hk, ha, fun f => ?_⟩
  rw [State.frame, u.afterFill_engineOnly.frames]
  exact hf f

theorem State.countBlock_frames {f : Nat} (hf : s.frame f = .scrubbing i) (b : Fin 16) :
    FramesScrubbed s (s.countBlock i j f b) := by
  unfold State.countBlock
  dsimp only
  split
  · exact State.setFrame_scrubbed ⟨i, hf⟩ (.inl rfl) _
  · exact (s.setSlot_engineOnly ..).framesScrubbed

theorem State.fillEnds_done (h : EngineLaw s) (hb : s.Busy) (k : Fin 4) (f : Fill) (ok : Bool) :
    EngineDone s (s.fillEnds k f ok) := by
  have h1 : EngineKept s (s.setFill k none) := ⟨h.endFill k, hb, .of_eq (by rfl)⟩
  have hf1 : FramesScrubbed s (s.setFill k none) := (s.setFill_engineOnly ..).framesScrubbed
  unfold State.fillEnds
  dsimp only
  split
  · exact State.afterFill_done h1 hf1
  · rename_i i j ha
    have hi : (s.setFill k none).slot i = .active j := State.slot_of_active ha
    split
    · rename_i hf
      split
      · exact State.afterFill_done (h1.trans (State.countBlock_kept h1.law hi ..)) (State.countBlock_frames hf _)
      · exact State.afterFill_done (h1.trans (State.quarantine_kept h1.law hi _))
          (State.setFrame_scrubbed (s := s.setFill k none) ⟨i, hf⟩ (.inr rfl) _)
    · exact State.afterFill_done h1 hf1

/-! ## The loss of M, and an engine that is set RUNNING -/

theorem State.earliestFill_mem {f : Fill} (h : s.earliestFill = some f) : ∃ k, s.fill k = some f := by
  unfold State.earliestFill at h
  refine foldl_keeps (P := fun best : Option Fill => ∀ g ∈ best, ∃ k, s.fill k = some g) (fun best k hb g hg => ?_) _ none
    nofun f h
  split at hg
  · exact ⟨k, hg⟩
  · exact hb g hg
  · rename_i f f' hf'
    unfold Fill.earlier at hg
    split at hg
    · exact hb g hg
    · exact ⟨k, hf'.trans hg⟩

theorem State.loseMem_done (h : EngineLaw s) (hb : s.Busy) : EngineDone s s.loseMem := by
  unfold State.loseMem
  extract_lets s1
  have h1 : EngineKept s s1 := by
    unfold s1
    split
    · rename_i i j f ha hf
      have hi := State.slot_of_active ha
      obtain ⟨k, hk⟩ := State.earliestFill_mem hf
      obtain ⟨i', j', hi', hh⟩ := h.fills k f hk
      obtain rfl := h.oneActive _ _ _ _ hi' hi
      obtain rfl : j' = j := by simpa [hi] using hi'.symm
      refine ⟨h.setActive hi rfl rfl ?_, fun _ => ⟨i', _, State.slot_setSlot_self ..⟩, .setSlot (by simp [hi]) (by simp)⟩
      rintro p ⟨⟩
      have cov : j'.first.covers f.frame = true ↔ j'.first.has f.frame := by simp [Run.covers]
      unfold Job.names
      by_cases hc : j'.first.has f.frame
      · simpa [cov.2 hc] using hc
      · simpa [Bool.eq_false_iff.2 (mt cov.1 hc)] using hh.resolve_left hc
    · exact ⟨h, hb, .refl s⟩
  have hf1 : FramesScrubbed s s1 := by
    unfold s1
    split
    · exact (s.setSlot_engineOnly ..).framesScrubbed
    · exact (EngineOnly.refl s).framesScrubbed
  exact State.afterFill_done (u := s1.setScrub { s1.scrub with fills := Vector.replicate 4 none })
    ⟨h1.law.setFills (by simp) _, h1.busy, h1.reserved⟩ hf1

/-- A RUNNING engine takes up the queue and goes on. -/
theorem State.run_done (h : EngineLaw s) (hs : ∀ t, s.scrub.engine ≠ .suspending t) :
    EngineDone s s.startNext.drive := by
  have hk := State.drive_kept h.startNext (State.startNext_busy h)
  refine ⟨⟨hk.law, hk.busy, State.startNext_sameReserved.trans hk.reserved⟩, State.drive_awaiting ?_,
    (s.startNext_engineOnly.trans s.startNext.drive_engineOnly).framesScrubbed⟩
  intro t ht
  unfold State.startNext at ht
  split at ht
  · split at ht
    · simp at ht
    · dsimp only at ht
      split at ht <;> exact absurd ht (hs t)
  · exact absurd ht (hs t)

theorem State.resume_done (h : EngineLaw s) : EngineDone s s.resume := by
  unfold State.resume
  split
  · rename_i hn
    exact ⟨⟨h.setEngine (fun _ => ⟨State.active_eq_none.1 hn.1, hn.2⟩) nofun, nofun, .of_eq (by rfl)⟩, nofun,
      (s.setEngine_engineOnly _).framesScrubbed⟩
  · have h1 : EngineLaw (s.setEngine .running) := h.setEngine nofun nofun
    have hd := State.run_done h1 nofun
    exact ⟨⟨hd.law, hd.busy, (SameReserved.of_eq (by rfl)).trans hd.reserved⟩, hd.awaiting, hd.frames⟩

/-- A job joins the tail of the queue in a slot that held none, in an action in which frames become SCRUBBING for it. -/
theorem EngineLaw.queue {u : State} (h : EngineLaw u) (hi : u.slot i = .free ∨ ∃ e, u.slot i = .reserved e)
    (hj : j.Ordered) (hd : u.device ≠ .unconfigured) (he : u.scrub.engine ≠ .idle) {m : Sparse FrameState}
    (hm : ∀ f k, (u.setFrames m).frame f = .scrubbing k → u.frame f = .scrubbing k ∨ k = i ∧ j.has f) :
    EngineLaw ((u.setFrames m).setScrub
      { u.scrub with slots := u.scrub.slots.set i (.queued j), queue := u.scrub.queue ++ [i] }) := by
  have slot (k : Fin 16) : ((u.setFrames m).setScrub
      { u.scrub with slots := u.scrub.slots.set i (.queued j), queue := u.scrub.queue ++ [i] }).slot k =
        if k = i then .queued j else u.slot k := vector_get_set ..
  have notQueued : i ∉ u.scrub.queue := fun hq => by
    obtain ⟨j', hj'⟩ := (h.queued.2 i).1 hq
    grind
  constructor
  · intro f k hk
    rw [slot]
    rcases hm f k hk with hf | ⟨rfl, hf⟩
    · obtain ⟨j', hj', hh⟩ := h.scrubbing f k hf
      grind
    · exact ⟨j, by simp, hf⟩
  · refine ⟨List.nodup_append.2 ⟨h.queued.1, by simp, by grind⟩, fun k => ?_⟩
    rw [slot]
    have := h.queued.2 k
    change k ∈ u.scrub.queue ++ [i] ↔ _
    grind
  · intro k l j1 j2
    have := h.oneActive k l j1 j2
    rw [slot, slot]
    grind
  · exact fun h => absurd h he
  · intro k f hf
    obtain ⟨k', j', hk', hh⟩ := h.fills k f hf
    refine ⟨k', j', ?_, hh⟩
    rw [slot]
    grind
  · exact h.suspended
  · intro k jk
    have := h.jobs k jk
    rw [slot]
    grind
  · refine ⟨fun k => ?_, h.notices.once⟩
    have := h.notices.agree k
    rw [slot]
    change ∀ o' r q x y, _ ∈ u.outbox ↔ _
    grind
  · exact fun h => absurd h hd

/-- A job is queued in a slot that held none; an IDLE engine starts it. -/
theorem State.enqueue_done {m : Sparse FrameState} (h : EngineLaw s) (hb : s.Busy) (ha : s.Awaiting)
    (hi : s.slot i = .free ∨ ∃ e, s.slot i = .reserved e) (hj : j.Ordered) (hd : s.device ≠ .unconfigured)
    (hm : ∀ f k, (s.setFrames m).frame f = .scrubbing k → s.frame f = .scrubbing k ∨ k = i ∧ j.has f) :
    let t := (s.setFrames m).enqueue i j
    EngineLaw t ∧ t.Busy ∧ t.Awaiting ∧ (∀ k e, t.slot k = .reserved e ↔ k ≠ i ∧ s.slot k = .reserved e) ∧ t.frames = m := by
  intro t
  have slot (k : Fin 16) : ((s.setFrames m).setSlot i (.queued j)).slot k = if k = i then .queued j else s.slot k :=
    State.slot_setSlot ..
  by_cases he : s.scrub.engine = .idle
  · have h1 : EngineLaw (s.setEngine .running) := h.setEngine nofun nofun
    have hq := h1.queue (m := m) (i := i) (j := j) hi hj hd (by simp) hm
    have hr := State.run_done hq nofun
    have ht : t = State.drive (State.startNext (((s.setEngine .running).setFrames m).setScrub
        { (s.setEngine .running).scrub with
          slots := (s.setEngine .running).scrub.slots.set i (.queued j)
          queue := (s.setEngine .running).scrub.queue ++ [i] })) := by
      unfold t State.enqueue
      exact if_pos he
    rw [ht]
    refine ⟨hr.law, hr.busy, hr.awaiting, fun k e => (hr.reserved k e).trans ?_, ?_⟩
    · refine (Eq.congr_left (slot k)).trans ?_
      grind
    · rw [(State.drive_engineOnly _).frames, (State.startNext_engineOnly _).frames]
      rfl
  · have hq := h.queue (m := m) (i := i) (j := j) hi hj hd he hm
    have ht : t = (s.setFrames m).setScrub
        { s.scrub with slots := s.scrub.slots.set i (.queued j), queue := s.scrub.queue ++ [i] } := by
      unfold t State.enqueue
      exact if_neg he
    rw [ht]
    refine ⟨hq, fun hr => ?_, ha, fun k e => (Eq.congr_left (slot k)).trans (by grind), rfl⟩
    obtain ⟨k, j', hk⟩ := hb hr
    refine ⟨k, j', (slot k).trans ?_⟩
    grind

end Sys2Proof.Machine
end

section
/-!
PROOFS of O58 and O59, that every step keeps the law of frames and the law of the Scrub Engine. Both stand in one
predicate (`WorkLaw`) that each part of an action keeps: windows and entries own frames and slots (`ClaimLaw`), and the
engine works on the frames that it scrubs (`EngineLaw`).
-/

namespace Sys2Proof.Machine

variable {s t : State}

/-! ## Runs and the frames of a change -/

theorem fillRuns_get (runs : List Run) (x : FrameState) (f : Nat) : ∀ m : Sparse FrameState,
    sparseGet .free (fillRuns m runs x) f = if ∃ r ∈ runs, r.has f then x else sparseGet .free m f := by
  induction runs with
  | nil => simp [fillRuns]
  | cons r runs ih =>
    intro m
    refine (ih _).trans ?_
    rw [sparseGet_fill]
    simp only [List.mem_cons, exists_eq_or_imp]
    split_ifs <;> grind

theorem settleReserved_get {m : Sparse FrameState} (h : SparseWf .free m) (w : Nat) (y : FrameState) (f : Nat) :
    sparseGet .free (settleReserved w y m) f =
      if sparseGet .free m f = .reserved w then y else sparseGet .free m f :=
  sparseGet_map h _ (by simp) f

theorem ChangeKind.released_eq_leaves (k : ChangeKind) (l : LiveFields) : k.released l.run = k.leaves l := by
  match k with
  | .retire => rfl
  | .change _ none _ => rfl
  | .change _ (some n) _ =>
    simp only [ChangeKind.released, ChangeKind.leaves]
    split
    · rfl
    · rename_i h
      obtain rfl : n = l.run := by simpa using h
      simp [Run.left]

theorem Run.has_left {old new : Run} {f : Nat} : (∃ r ∈ old.left new, r.has f) ↔ old.has f ∧ ¬new.has f := by
  unfold Run.left
  dsimp only
  split <;> split <;> simp [Run.has] <;> omega

/-- The frames that a change gives up. -/
theorem ChangeKind.leaves_has (k : ChangeKind) (l : LiveFields) (f : Nat) :
    (∃ r ∈ k.leaves l, r.has f) ↔ l.run.has f ∧ (k = .retire ∨ ¬(k.newRun.getD l.run).has f) := by
  match k with
  | .retire => simp [ChangeKind.leaves]
  | .change _ none _ => simp [ChangeKind.leaves, ChangeKind.newRun]
  | .change _ (some n) _ =>
    refine Run.has_left.trans ?_
    simp [ChangeKind.newRun]

/-- The job of the frames that a change gives up. -/
theorem releaseJob_ordered {k : ChangeKind} {l : LiveFields} (hr : 1 ≤ l.run.count) (w : Nat)
    (hn : k.leaves l ≠ []) : ∃ j, releaseJob w (k.leaves l) = some j ∧ j.Ordered ∧
      ∀ f, j.has f ↔ ∃ r ∈ k.leaves l, r.has f := by
  have fresh (r : Run) (q : Option Run) (h1 : 1 ≤ r.count) (h2 : ∀ p ∈ q, 1 ≤ p.count ∧ r.base + r.count ≤ p.base) :
      (Job.fresh (.window w) r q).Ordered := ⟨h1, h2, by
    rintro p ⟨⟩
    exact ⟨le_rfl, by dsimp [Job.fresh]; omega⟩⟩
  match k with
  | .retire => exact ⟨_, rfl, fresh _ _ hr nofun, by simp [ChangeKind.leaves, Job.has, Job.fresh]⟩
  | .change _ none _ => exact absurd rfl hn
  | .change _ (some n) _ =>
    simp only [ChangeKind.leaves, Run.left] at hn ⊢
    split <;> split <;> rename_i h1 h2 <;> simp only [List.nil_append, List.append_nil, List.cons_append] at hn ⊢
    · exact ⟨_, rfl, fresh _ _ (by dsimp; omega) (by rintro p ⟨⟩; dsimp; omega), by simp [Job.has, Job.fresh]⟩
    · exact ⟨_, rfl, fresh _ _ (by dsimp; omega) nofun, by simp [Job.has, Job.fresh]⟩
    · exact ⟨_, rfl, fresh _ _ (by dsimp; omega) nofun, by simp [Job.has, Job.fresh]⟩
    · simp [h1, h2] at hn

/-! ## The law -/

/-- Windows and entries own frames and scrub slots (R63, R101, R103, R111, R112, R114). -/
structure ClaimLaw (s : State) : Prop where
  bound : ∀ f w, s.frame f = .bound w ↔ ∃ l ∈ (s.window w).live, l.run.has f
  reserved : ∀ f w, s.frame f = .reserved w ↔
    ∃ e ∈ (s.window w).pending, ∃ x ∈ s.entry e, ∃ r ∈ x.kind.newRun, ∃ l ∈ (s.window w).live,
      r.has f ∧ ¬l.run.has f
  configured : ∀ f, s.frame f ≠ .free → f < s.frameCount
  runs : ∀ w, ∀ l ∈ (s.window w).live, 1 ≤ l.run.count
  newRuns : ∀ e, ∀ x ∈ s.entry e, ∀ r ∈ x.kind.newRun, 1 ≤ r.count
  slots : ∀ i e, s.slot i = .reserved e ↔ ∃ x ∈ s.entry e, x.scrubSlot = some i
  fits : ∀ e, ∀ x ∈ s.entry e, ∀ l ∈ (s.window x.window).live, x.kind.slotFits l x.scrubSlot

/-- The law of frames and of the Scrub Engine, with what it rests on. -/
structure WorkLaw (s : State) : Prop where
  pending : PendingLaw s
  live : ∀ e, ∀ x ∈ s.entry e, (s.window x.window).live ≠ none
  claims : ClaimLaw s
  engine : EngineLaw s
  busy : s.Busy
  awaiting : s.Awaiting

theorem WorkLaw.frameLaw (h : WorkLaw s) : FrameLaw s :=
  ⟨h.claims.bound, h.claims.reserved, h.engine.scrubbing, h.claims.configured, h.claims.runs, h.claims.newRuns⟩

theorem WorkLaw.scrubLaw (h : WorkLaw s) : ScrubLaw s where
  reserved := h.claims.slots
  fits := h.claims.fits
  queued := h.engine.queued
  oneActive := h.engine.oneActive
  running he := by
    obtain ⟨i, j, hi⟩ := h.busy he
    exact fun hn => State.active_eq_none.1 hn i j hi
  idle he := ⟨State.active_eq_none.2 (h.engine.idle he).1, (h.engine.idle he).2⟩
  fills k f hf := by
    obtain ⟨i, j, hi, hh⟩ := h.engine.fills k f hf
    exact ⟨i, j, (State.active_eq_some h.engine.oneActive).2 hi, hh⟩
  suspended := h.engine.suspended
  suspending := h.awaiting
  jobs i j hj := by
    have := h.engine.jobs i j hj
    exact ⟨this.first, this.second, this.position⟩
  notices := h.engine.notices.agree
  once := h.engine.notices.once
  unconfigured := h.engine.unconfigured

theorem DeviceLaw.workLaw (h : DeviceLaw s) : WorkLaw s where
  pending := h.pending
  live e x hx := (h.groups.live e x hx).2
  claims := ⟨h.frames.bound, h.frames.reserved, h.frames.configured, h.frames.runs, h.frames.newRuns, h.scrub.reserved,
    h.scrub.fits⟩
  engine :=
    { scrubbing := h.frames.scrubbing
      queued := h.scrub.queued
      oneActive := h.scrub.oneActive
      idle := fun he => ⟨State.active_eq_none.1 (h.scrub.idle he).1, (h.scrub.idle he).2⟩
      fills := fun k f hf => by
        obtain ⟨i, j, hi, hh⟩ := h.scrub.fills k f hf
        exact ⟨i, j, State.slot_of_active hi, hh⟩
      suspended := h.scrub.suspended
      jobs := fun i j hj => by
        obtain ⟨h1, h2, h3⟩ := h.scrub.jobs i j hj
        exact ⟨h1, h2, h3⟩
      notices := ⟨h.scrub.notices, h.scrub.once⟩
      unconfigured := h.scrub.unconfigured }
  busy he := by
    by_contra hc
    exact h.scrub.running he (State.active_eq_none.2 fun i j hi => hc ⟨i, j, hi⟩)
  awaiting := h.scrub.suspending

/-! ## What leaves the law as it is -/

/-- Frames move only between states that no window owns, and none leaves FREE. -/
structure FramesKept (s t : State) : Prop where
  bound : ∀ f w, t.frame f = .bound w ↔ s.frame f = .bound w
  reserved : ∀ f w, t.frame f = .reserved w ↔ s.frame f = .reserved w
  used : ∀ f, t.frame f ≠ .free → s.frame f ≠ .free

theorem FramesScrubbed.kept (h : FramesScrubbed s t) : FramesKept s t := by
  refine ⟨fun f w => ?_, fun f w => ?_, fun f => ?_⟩ <;> have := h f <;> grind

/-- The parts of the state that the law reads in windows, entries and frames. -/
theorem ClaimLaw.of_same (h : ClaimLaw s) (hl : ∀ w, (t.window w).live = (s.window w).live)
    (hp : ∀ w, (t.window w).pending = (s.window w).pending)
    (he : ∀ e, ∀ x ∈ t.entry e, ∃ y ∈ s.entry e, y.SameRequest x)
    (he' : ∀ e, ∀ x ∈ s.entry e, ∃ y ∈ t.entry e, x.SameRequest y)
    (hf : FramesKept s t) (hs : SameReserved s t) (hc : t.frameCount = s.frameCount) : ClaimLaw t := by
  have claimed (e : Fin 16) (P : ChangeKind → Option (Fin 16) → Prop) :
      (∃ x ∈ t.entry e, P x.kind x.scrubSlot) ↔ ∃ x ∈ s.entry e, P x.kind x.scrubSlot := by
    constructor
    · rintro ⟨x, hx, hP⟩
      obtain ⟨y, hy, same⟩ := he e x hx
      exact ⟨y, hy, by rwa [← same.kind, ← same.scrubSlot]⟩
    · rintro ⟨x, hx, hP⟩
      obtain ⟨y, hy, same⟩ := he' e x hx
      exact ⟨y, hy, by rwa [same.kind, same.scrubSlot]⟩
  constructor
  · intro f w
    rw [hf.bound, hl]
    exact h.bound f w
  · intro f w
    rw [hf.reserved, hl, hp, h.reserved]
    exact exists_congr fun e => and_congr_right fun _ =>
      (claimed e fun k _ => ∃ r ∈ k.newRun, ∃ l ∈ (s.window w).live, r.has f ∧ ¬l.run.has f).symm
  · intro f hn
    rw [hc]
    exact h.configured f (hf.used f hn)
  · intro w
    rw [hl]
    exact h.runs w
  · intro e x hx r hr
    obtain ⟨y, hy, same⟩ := he e x hx
    exact h.newRuns e y hy r (by rwa [← same.kind])
  · intro i e
    rw [hs i e, h.slots]
    exact (claimed e fun _ q => q = some i).symm
  · intro e x hx l hl'
    obtain ⟨y, hy, same⟩ := he e x hx
    rw [hl, same.window] at hl'
    rw [same.kind, same.scrubSlot]
    exact h.fits e y hy l hl'

theorem Entry.SameRequest.refl (x : Entry) : x.SameRequest x := ⟨rfl, rfl, rfl, rfl, rfl⟩

/-- An action that writes of windows the holder sets, of entries what a recall round changes, and nothing of frames and
of the engine. -/
theorem WorkLaw.of_same (h : WorkLaw s) (hl : ∀ w, (t.window w).live = (s.window w).live)
    (hp : ∀ w, (t.window w).pending = (s.window w).pending)
    (he : ∀ e, ∀ x ∈ t.entry e, ∃ y ∈ s.entry e, y.SameRequest x)
    (he' : ∀ e, ∀ x ∈ s.entry e, ∃ y ∈ t.entry e, x.SameRequest y)
    (hx : (t.frames, t.scrub, t.outbox, t.device) = (s.frames, s.scrub, s.outbox, s.device)) : WorkLaw t := by
  simp only [Prod.mk.injEq] at hx
  obtain ⟨hf, hs, ho, hd⟩ := hx
  have frame (f : Nat) : t.frame f = s.frame f := by simp only [State.frame, hf]
  have slot (i : Fin 16) : t.slot i = s.slot i := by simp only [State.slot, hs]
  have fill (k : Fin 4) : t.fill k = s.fill k := by simp only [State.fill, hs]
  refine ⟨h.pending.of_same hp fun e => ?_, fun e x hx => ?_,
    h.claims.of_same hl hp he he' (FramesScrubbed.kept fun f => .inl (frame f)) (.of_eq (by rw [hs])) (by simp only [State.frameCount, hd]),
    h.engine.of_eq (fun f i hi => frame f ▸ hi) (by rw [hs, ho, hd]), ?_, ?_⟩
  · ext w
    simp only [State.changed, Option.map_eq_some_iff]
    constructor
    · rintro ⟨x, hx, rfl⟩
      obtain ⟨y, hy, same⟩ := he e x hx
      exact ⟨y, hy, same.window.symm⟩
    · rintro ⟨x, hx, rfl⟩
      obtain ⟨y, hy, same⟩ := he' e x hx
      exact ⟨y, hy, same.window⟩
  · obtain ⟨y, hy, same⟩ := he e x hx
    rw [same.window, hl]
    exact h.live e y hy
  · simpa only [State.Busy, hs, slot] using h.busy
  · simpa only [State.Awaiting, hs, fill] using h.awaiting

theorem WorkLaw.of_eq (h : WorkLaw s) (hx : (t.windows, t.entries, t.frames, t.scrub, t.outbox, t.device) =
    (s.windows, s.entries, s.frames, s.scrub, s.outbox, s.device)) : WorkLaw t := by
  simp only [Prod.mk.injEq] at hx
  obtain ⟨hw, he, hx⟩ := hx
  have window (w : Nat) : t.window w = s.window w := by simp only [State.window, hw]
  have entry (e : Fin 16) : t.entry e = s.entry e := by simp only [State.entry, he]
  exact h.of_same (fun w => by rw [window]) (fun w => by rw [window]) (fun e x hx => ⟨x, entry e ▸ hx, .refl x⟩)
    (fun e x hx => ⟨x, (entry e).symm ▸ hx, .refl x⟩) (by simpa only [Prod.mk.injEq] using hx)

/-- An action of the engine. -/
theorem WorkLaw.engineDone (h : WorkLaw s) (hd : EngineDone s t)
    (hw : (t.windows, t.entries, t.device) = (s.windows, s.entries, s.device)) : WorkLaw t := by
  simp only [Prod.mk.injEq] at hw
  obtain ⟨hw, he, hd'⟩ := hw
  have window (w : Nat) : t.window w = s.window w := by simp only [State.window, hw]
  have entry (e : Fin 16) : t.entry e = s.entry e := by simp only [State.entry, he]
  refine ⟨h.pending.of_eq (by rw [hw, he]), ?_, ?_, hd.law, hd.busy, hd.awaiting⟩
  · simpa only [window, entry] using h.live
  · exact h.claims.of_same (fun w => by rw [window]) (fun w => by rw [window]) (fun e x hx => ⟨x, entry e ▸ hx, .refl x⟩)
      (fun e x hx => ⟨x, (entry e).symm ▸ hx, .refl x⟩) hd.frames.kept hd.reserved (by simp only [State.frameCount, hd'])

theorem WorkLaw.engineOnly (h : WorkLaw s) (hd : EngineDone s t) (he : EngineOnly s t) : WorkLaw t :=
  h.engineDone hd (by rw [he.windows, he.entries, he.device])

/-! ## An application -/

theorem ChangeKind.slotFits.releases {k : ChangeKind} {l : LiveFields} {i : Fin 16} (h : k.slotFits l (some i)) :
    l.scrub = true ∧ k.leaves l ≠ [] := by
  simpa [ChangeKind.slotFits] using h

/-- What the frames become that an application releases (R78). -/
def Entry.settled (x : Entry) : FrameState :=
  match x.scrubSlot with
  | some i => .scrubbing i
  | none => .free

/-- The frames of an application (R77, R78). -/
def Entry.framesAfter (x : Entry) (l : LiveFields) (m : Sparse FrameState) : Sparse FrameState :=
  fillRuns (if x.kind.moves l then settleReserved x.window (.bound x.window) m else m) (x.kind.leaves l)
    x.settled

theorem State.moveFrames_none {x : Entry} {l : LiveFields} (hfit : x.kind.slotFits l none) (hx : x.scrubSlot = none) :
    s.moveFrames x l = s.setFrames (x.framesAfter l s.frames) := by
  have hfit : l.scrub = false ∨ x.kind.leaves l = [] := by simpa [ChangeKind.slotFits] using hfit
  unfold State.moveFrames Entry.framesAfter Entry.settled
  simp only [hx, ChangeKind.released_eq_leaves]
  split
  · rw [hfit.resolve_left (by simp_all)]
    rfl
  · rfl

theorem State.moveFrames_some {x : Entry} {l : LiveFields} {i : Fin 16} (hfit : x.kind.slotFits l (some i))
    (hx : x.scrubSlot = some i) {j : Job} (hj : releaseJob x.window (x.kind.leaves l) = some j) :
    s.moveFrames x l = (s.setFrames (x.framesAfter l s.frames)).enqueue i j := by
  unfold State.moveFrames Entry.framesAfter Entry.settled
  simp only [hx, ChangeKind.released_eq_leaves, hfit.releases.1, hj, if_true]

/-- The frames of an application, frame by frame: the released ones are settled, the RESERVED ones are BOUND. -/
theorem Entry.framesAfter_get {x : Entry} {l : LiveFields} {m : Sparse FrameState} (hm : SparseWf .free m) (f : Nat) :
    sparseGet .free (x.framesAfter l m) f =
      if ∃ r ∈ x.kind.leaves l, r.has f then x.settled
      else if x.kind.moves l = true ∧ sparseGet .free m f = .reserved x.window then .bound x.window
      else sparseGet .free m f := by
  unfold Entry.framesAfter
  rw [fillRuns_get]
  congr 1
  split
  · rename_i hmoves
    rw [settleReserved_get hm]
    simp only [hmoves, true_and]
  · rename_i hmoves
    simp [hmoves]

/-- The frames and the engine after part 2 of an application, whatever has become of the window's record. -/
theorem State.moveFrames_done (h : EngineLaw s) (hb : s.Busy) (ha : s.Awaiting) (hm : SparseWf .free s.frames)
    {x : Entry} {l : LiveFields} (hfit : x.kind.slotFits l x.scrubSlot)
    (hs : ∀ i ∈ x.scrubSlot, ∃ e, s.slot i = .reserved e) (hr : 1 ≤ l.run.count) :
    let t := s.moveFrames x l
    EngineLaw t ∧ t.Busy ∧ t.Awaiting ∧ (∀ k e, t.slot k = .reserved e ↔ x.scrubSlot ≠ some k ∧ s.slot k = .reserved e) ∧
      t.frames = x.framesAfter l s.frames := by
  have frame (f : Nat) := x.framesAfter_get (l := l) hm f
  intro t
  cases hx : x.scrubSlot with
  | none =>
    rw [hx] at hfit
    rw [show t = _ from State.moveFrames_none hfit hx]
    refine ⟨h.of_eq (fun f i hi => ?_) rfl, hb, ha, fun k e => by simp, rfl⟩
    replace hi := (frame f).symm.trans hi
    rw [Entry.settled, hx] at hi
    split at hi
    · cases hi
    · split at hi
      · cases hi
      · exact hi
  | some i =>
    rw [hx] at hfit
    obtain ⟨j, hj, hord, hhas⟩ := releaseJob_ordered hr x.window hfit.releases.2
    rw [show t = _ from State.moveFrames_some hfit hx hj]
    obtain ⟨e, he⟩ := hs i hx
    have serving : s.device ≠ .unconfigured := fun hd => by simp [h.unconfigured hd i] at he
    obtain ⟨h1, h2, h3, h4, h5⟩ := State.enqueue_done h hb ha (.inr ⟨e, he⟩) hord serving
      (m := x.framesAfter l s.frames) fun f k hk => by
        replace hk := (frame f).symm.trans hk
        rw [Entry.settled, hx] at hk
        split at hk
        · rename_i hf
          cases hk
          exact .inr ⟨rfl, (hhas f).2 hf⟩
        · split at hk
          · cases hk
          · exact .inl hk
    exact ⟨h1, h2, h3, fun k e => (h4 k e).trans (by simp [eq_comm]), h5⟩

/-- The law of claims after an entry in use has ended: its window's pending change is absent, and the record and the
frames are written. -/
theorem ClaimLaw.ended (h : ClaimLaw s) (hp : PendingLaw s) {e : Fin 16} {x : Entry} (hx : s.entry e = some x)
    (hw : ∀ v, v ≠ x.window → t.window v = s.window v) (hn : (t.window x.window).pending = none)
    (he : ∀ d, t.entry d = if d = e then none else s.entry d)
    (hf : ∀ f, t.frame f = .bound x.window ↔ ∃ l ∈ (t.window x.window).live, l.run.has f)
    (hr : ∀ f, t.frame f ≠ .reserved x.window)
    (ho : ∀ f v, v ≠ x.window → (t.frame f = .bound v ↔ s.frame f = .bound v) ∧
      (t.frame f = .reserved v ↔ s.frame f = .reserved v))
    (hc : ∀ f, t.frame f ≠ .free → s.frame f ≠ .free)
    (hl : ∀ l ∈ (t.window x.window).live, 1 ≤ l.run.count)
    (hs : ∀ k d, t.slot k = .reserved d ↔ x.scrubSlot ≠ some k ∧ s.slot k = .reserved d)
    (hd : t.device = s.device) : ClaimLaw t := by
  have own := hp.named e x hx
  constructor
  · intro f v
    by_cases hv : v = x.window
    · rw [hv]
      exact hf f
    · rw [(ho f v hv).1, hw v hv]
      exact h.bound f v
  · intro f v
    by_cases hv : v = x.window
    · rw [hv, hn]
      simpa using hr f
    · rw [(ho f v hv).2, hw v hv, h.reserved]
      refine exists_congr fun d => and_congr_right fun hd => ?_
      rw [he, if_neg]
      rintro rfl
      obtain ⟨y, hy, hyw⟩ := hp.inUse v d hd
      rw [hx] at hy
      cases hy
      exact hv hyw.symm
  · intro f hf
    simpa only [State.frameCount, hd] using h.configured f (hc f hf)
  · intro v
    by_cases hv : v = x.window
    · rw [hv]
      exact hl
    · rw [hw v hv]
      exact h.runs v
  · intro d y hy
    rw [he] at hy
    split at hy
    · cases hy
    · exact h.newRuns d y hy
  · intro k d
    rw [hs, h.slots, he]
    constructor
    · rintro ⟨hk, y, hy, hyk⟩
      have : d ≠ e := by
        rintro rfl
        rw [hx] at hy
        cases hy
        exact hk hyk
      simpa [this] using ⟨y, hy, hyk⟩
    · split
      · simp
      · rename_i hde
        rintro ⟨y, hy, hyk⟩
        refine ⟨fun hk => hde ?_, y, hy, hyk⟩
        have h1 := (h.slots k d).2 ⟨y, hy, hyk⟩
        have h2 := (h.slots k e).2 ⟨x, hx, hk⟩
        rw [h1] at h2
        cases h2
        rfl
  · intro d y hy
    rw [he] at hy
    split at hy
    · cases hy
    · rename_i hde
      rw [hw]
      · exact h.fits d y hy
      · intro hyw
        have := hp.named d y hy
        rw [hyw, own] at this
        cases this
        exact hde rfl

theorem ChangeKind.moves_eq_true {k : ChangeKind} {l : LiveFields} : k.moves l = true ↔ ∃ r ∈ k.newRun, r ≠ l.run := by
  match k with
  | .retire => simp [ChangeKind.moves, ChangeKind.newRun]
  | .change _ none _ => simp [ChangeKind.moves, ChangeKind.newRun]
  | .change _ (some r) _ => simp [ChangeKind.moves, ChangeKind.newRun]

/-- The record of an application is FREE after a RETIRE, and else has the new run if the change carries one. -/
theorem ChangeKind.applied_run (k : ChangeKind) (r : Window) (l : LiveFields) :
    (k = .retire ∧ (k.applied r l).live = none) ∨
      k ≠ .retire ∧ ∃ l', (k.applied r l).live = some l' ∧ l'.run = k.newRun.getD l.run := by
  match k with
  | .retire => exact .inl ⟨rfl, rfl⟩
  | .change q n b => exact .inr ⟨nofun, _, rfl, rfl⟩

/-- The frames that a pending change has RESERVED lie in its new run and not in the window's. -/
theorem WorkLaw.reserved_iff (h : WorkLaw s) {e : Fin 16} {x : Entry} (hx : s.entry e = some x) {l : LiveFields}
    (hl : (s.window x.window).live = some l) (f : Nat) :
    s.frame f = .reserved x.window ↔ (x.kind.newRun.getD l.run).has f ∧ ¬l.run.has f := by
  have own := h.pending.named e x hx
  rw [h.claims.reserved]
  constructor
  · rintro ⟨d, hd, y, hy, r, hr, l', hl', hf⟩
    rw [own] at hd
    cases hd
    rw [hx] at hy
    cases hy
    rw [hl] at hl'
    cases hl'
    rwa [Option.mem_def.1 hr]
  · intro hf
    cases hn : x.kind.newRun with
    | none =>
      rw [hn] at hf
      exact absurd hf.1 hf.2
    | some n =>
      rw [hn] at hf
      exact ⟨e, own, x, hx, n, hn, l, hl, hf⟩

/-- The frames of an application by the old run and the new one. -/
theorem WorkLaw.framesAfter_eq (h : WorkLaw s) (hm : SparseWf .free s.frames) {e : Fin 16} {x : Entry} (hx : s.entry e = some x) {l : LiveFields}
    (hl : (s.window x.window).live = some l) (f : Nat) :
    sparseGet .free (x.framesAfter l s.frames) f =
      if l.run.has f ∧ (x.kind = .retire ∨ ¬(x.kind.newRun.getD l.run).has f) then x.settled
      else if (x.kind.newRun.getD l.run).has f ∧ ¬l.run.has f then .bound x.window
      else s.frame f := by
  have reserved := h.reserved_iff hx hl f
  have moves : s.frame f = .reserved x.window → x.kind.moves l = true := fun hf => by
    rw [reserved] at hf
    cases hn : x.kind.newRun with
    | none =>
      rw [hn] at hf
      exact absurd hf.1 hf.2
    | some n =>
      refine ChangeKind.moves_eq_true.2 ⟨n, hn, ?_⟩
      rintro rfl
      rw [hn] at hf
      exact hf.2 hf.1
  rw [Entry.framesAfter_get hm]
  exact if_congr (x.kind.leaves_has l f) rfl (if_congr ((and_iff_right_of_imp moves).trans reserved) rfl rfl)

/-- What the frame of an application is, by whether it lies in the old run (R), in the new one (N), and whether the change
is a RETIRE (K). -/
theorem frame_of_application {y z settled : FrameState} {w : Nat} {R N K : Prop} [Decidable R] [Decidable N] [Decidable K]
    (hz : z = if R ∧ (K ∨ ¬N) then settled else if N ∧ ¬R then .bound w else y) (hb : y = .bound w ↔ R)
    (hr : y = .reserved w ↔ N ∧ ¬R) (hs : ∀ v, settled ≠ .bound v ∧ settled ≠ .reserved v) (hk : K → (N ↔ R)) :
    (z = .bound w ↔ N ∧ ¬K) ∧ z ≠ .reserved w ∧
      (∀ v, v ≠ w → (z = .bound v ↔ y = .bound v) ∧ (z = .reserved v ↔ y = .reserved v)) ∧ (z ≠ .free → y ≠ .free) := by
  refine ⟨?_, ?_, fun v hv => ⟨?_, ?_⟩, ?_⟩ <;> grind

theorem WorkLaw.applyParts (h : WorkLaw s) (hm : SparseWf .free s.frames) {e : Fin 16} {x : Entry} (hx : s.entry e = some x) :
    WorkLaw (s.applyParts e x) := by
  have pending := State.applyParts_pendingLaw h.pending hx
  obtain ⟨l, hl⟩ := Option.ne_none_iff_exists'.1 (h.live e x hx)
  have eq : s.applyParts e x = ((((s.setWindow x.window (x.kind.applied (s.window x.window) l)).moveFrames x l).setEntry e
      none).finish x.tag .applied (some ((s.window x.window).generation + 1)) x.lost (x.jobSlot l)) := by
    unfold State.applyParts
    simp only [hl]
    rfl
  have own := h.pending.named e x hx
  have bound (f : Nat) : s.frame f = .bound x.window ↔ l.run.has f := by
    rw [h.claims.bound, hl]
    simp
  have hu : EngineLaw (s.setWindow x.window (x.kind.applied (s.window x.window) l)) := h.engine.of_eq (by simp) rfl
  obtain ⟨engine, busy, awaiting, slots, frames⟩ := State.moveFrames_done hu h.busy h.awaiting hm
    (x := x) (l := l) (h.claims.fits e x hx l hl) (fun i hi => ⟨e, (h.claims.slots i e).2 ⟨x, hx, hi⟩⟩)
    (h.claims.runs x.window l hl)
  obtain ⟨m, only⟩ := (s.setWindow x.window (x.kind.applied (s.window x.window) l)).moveFrames_engineOnly x l
  generalize (s.setWindow x.window (x.kind.applied (s.window x.window) l)).moveFrames x l = u at *
  have window (v : Nat) : (s.applyParts e x).window v =
      if v = x.window then x.kind.applied (s.window x.window) l else s.window v := by
    rw [eq, State.finish_window, State.setEntry_window, State.window, only.windows]
    exact State.window_setWindow ..
  have entry (d : Fin 16) : (s.applyParts e x).entry d = if d = e then none else s.entry d := by
    rw [eq, State.finish_entry, State.entry_setEntry, State.entry, only.entries]
    rfl
  have frame (f : Nat) : (s.applyParts e x).frame f =
      if l.run.has f ∧ (x.kind = .retire ∨ ¬(x.kind.newRun.getD l.run).has f) then x.settled
      else if (x.kind.newRun.getD l.run).has f ∧ ¬l.run.has f then .bound x.window
      else s.frame f := by
    rw [eq, State.finish_frame, State.setEntry_frame, State.frame, frames]
    exact h.framesAfter_eq hm hx hl f
  have settled (v : Nat) : x.settled ≠ .bound v ∧ x.settled ≠ .reserved v := by
    unfold Entry.settled
    split <;> simp
  refine ⟨pending, fun d y hy => ?_, ?_, ?_, ?_, ?_⟩
  · rw [entry] at hy
    split at hy
    · cases hy
    · rename_i hde
      rw [window, if_neg]
      · exact h.live d y hy
      · intro hyw
        have := h.pending.named d y hy
        rw [hyw, own] at this
        cases this
        exact hde rfl
  · have fact (f : Nat) := frame_of_application (frame f) (bound f) (h.reserved_iff hx hl f) settled
      (by rintro hk; simp [hk, ChangeKind.newRun])
    refine h.claims.ended h.pending hx (fun v hv => by rw [window, if_neg hv]) (by rw [window, if_pos rfl]; rfl) entry
      (fun f => (fact f).1.trans ?_) (fun f => (fact f).2.1) (fun f => (fact f).2.2.1) (fun f => (fact f).2.2.2) ?_
      (fun k d => by rw [eq, State.finish_slot, State.setEntry_slot, slots]; rfl)
      (by rw [eq, State.finish_device]; exact only.device)
    · rw [window, if_pos rfl]
      rcases x.kind.applied_run (s.window x.window) l with ⟨hk, hlive⟩ | ⟨hk, l', hlive, hrun⟩
      · rw [hlive]
        simp [hk]
      · rw [hlive, ← hrun]
        simp only [hk, not_false_eq_true, and_true, Option.mem_def, Option.some.injEq, exists_eq_left']
    · intro l' hl'
      rw [window, if_pos rfl] at hl'
      rcases x.kind.applied_run (s.window x.window) l with ⟨-, hlive⟩ | ⟨-, l'', hlive, hrun⟩ <;> rw [hlive] at hl' <;> cases hl'
      rw [hrun]
      cases hn : x.kind.newRun with
      | none => exact h.claims.runs x.window l hl
      | some n => exact h.claims.newRuns e x hx n hn
  · exact engine.of_eq (by rw [eq]; simp) (by rw [eq]; simp)
  · simpa only [eq, State.Busy, State.finish_scrub, State.finish_slot, State.setEntry_scrub, State.setEntry_slot] using busy
  · simpa only [eq, State.Awaiting, State.finish_scrub, State.finish_fill, State.setEntry_scrub, State.setEntry_fill] using awaiting

/-! ## An abandonment -/

theorem WorkLaw.abandonParts (h : WorkLaw s) (hm : SparseWf .free s.frames) {e : Fin 16} {x : Entry} (hx : s.entry e = some x) :
    WorkLaw (s.abandonParts e x) := by
  unfold State.abandonParts
  extract_lets r s1 s2 s3
  have pending : PendingLaw (s3.setEntry e none) :=
    PendingLaw.of_eq (s := (s3.setEntry e none).finish x.tag .abandoned (some r.generation) x.lost none)
      (State.abandonParts_pendingLaw h.pending hx) (by simp)
  have frame (f : Nat) : s2.frame f = if s.frame f = .reserved x.window then .free else s.frame f :=
    settleReserved_get hm ..
  have h2 : EngineLaw s2 := h.engine.of_eq (fun f i hi => by
    rw [frame] at hi
    split at hi
    · cases hi
    · exact hi) rfl
  have h3 : EngineLaw s3 ∧ s3.Busy ∧ s3.Awaiting ∧
      (∀ k d, s3.slot k = .reserved d ↔ x.scrubSlot ≠ some k ∧ s.slot k = .reserved d) ∧
      (s3.windows, s3.entries, s3.frames, s3.device) = (s2.windows, s2.entries, s2.frames, s2.device) := by
    unfold s3
    split
    · rename_i i hi
      have hs : s2.slot i = .reserved e := (h.claims.slots i e).2 ⟨x, hx, hi⟩
      refine ⟨h2.setReserved (.inr ⟨e, hs⟩) (.inl rfl), fun hr => ?_, h.awaiting, fun k d => ?_, rfl⟩
      · obtain ⟨k, j, hk⟩ := h.busy hr
        refine ⟨k, j, ?_⟩
        rw [State.slot_setSlot, if_neg]
        · exact hk
        · rintro rfl
          exact absurd (hk.symm.trans hs) (by simp)
      · rw [State.slot_setSlot]
        change (if _ then _ else s.slot k) = _ ↔ _
        rw [hi]
        split <;> simp_all [eq_comm]
    · rename_i hn
      refine ⟨h2, h.busy, h.awaiting, fun k d => ?_, rfl⟩
      rw [hn]
      simp [s2, s1]
  obtain ⟨engine, busy, awaiting, slots, same⟩ := h3
  clear_value s3
  simp only [Prod.mk.injEq] at same
  obtain ⟨hw, he, hf, hd⟩ := same
  have window (v : Nat) : s3.window v = if v = x.window then { s.window x.window with pending := none } else s.window v := by
    rw [State.window, hw]
    exact State.window_setWindow ..
  have entry (d : Fin 16) : (s3.setEntry e none).entry d = if d = e then none else s.entry d := by
    rw [State.entry_setEntry, State.entry, he]
    rfl
  have frame3 (f : Nat) : s3.frame f = if s.frame f = .reserved x.window then .free else s.frame f := by
    rw [State.frame, hf]
    exact frame f
  suffices k : WorkLaw (s3.setEntry e none) from k.of_eq (by simp)
  refine ⟨pending, fun d y hy => ?_, ?_, engine.of_eq (fun _ _ => id) rfl, busy,
    awaiting⟩
  · rw [entry] at hy
    split at hy
    · cases hy
    · rw [State.setEntry_window, window]
      have := h.live d y hy
      split
      · rename_i hyw
        rwa [hyw] at this
      · exact this
  · refine h.claims.ended h.pending hx (fun v hv => by rw [State.setEntry_window, window, if_neg hv])
      (by rw [State.setEntry_window, window, if_pos rfl]) entry (fun f => ?_) (fun f => ?_) (fun f v hv => ?_) (fun f => ?_) ?_
      slots hd
    · rw [State.setEntry_frame, frame3, State.setEntry_window, window, if_pos rfl, ← h.claims.bound]
      grind
    · rw [State.setEntry_frame, frame3]
      grind
    · rw [State.setEntry_frame, frame3]
      grind
    · rw [State.setEntry_frame, frame3]
      grind
    · rw [State.setEntry_window, window, if_pos rfl]
      exact h.claims.runs x.window

/-! ## An acceptance -/

theorem State.freeSlot_eq_some {i : Fin 16} (h : s.freeSlot = some i) : s.slot i = .free := by
  have := List.find?_some h
  cases hs : s.slot i <;> simp_all [ScrubSlot.isFree]

theorem reserveFold_get (r : Run) (w f : Nat) (m : Sparse FrameState) :
    sparseGet .free ((List.range r.count).foldl
      (fun m i => if sparseGet .free m (r.base + i) = .free then sparseSet .free m (r.base + i) (.reserved w) else m) m) f =
      if r.has f ∧ sparseGet .free m f = .free then .reserved w else sparseGet .free m f := by
  have upto (n : Nat) : sparseGet .free ((List.range n).foldl
      (fun m i => if sparseGet .free m (r.base + i) = .free then sparseSet .free m (r.base + i) (.reserved w) else m) m) f =
      if (r.base ≤ f ∧ f < r.base + n) ∧ sparseGet .free m f = .free then .reserved w else sparseGet .free m f := by
    induction n with
    | zero => simp
    | succ n ih =>
      rw [List.range_succ, List.foldl_append, List.foldl_cons, List.foldl_nil]
      split
      · rename_i hfree
        rw [sparseGet_set]
        split
        · subst_vars
          rw [ih] at hfree
          grind
        · rw [ih]
          grind
      · rename_i hne
        rw [ih]
        by_cases hf : f = r.base + n
        · subst hf
          rw [ih] at hne
          grind
        · grind
  exact upto r.count

/-- The frames of an acceptance, frame by frame (R64). -/
theorem State.reserveRun_frame (w : Nat) (k : ChangeKind) (f : Nat) :
    (s.reserveRun w k).frame f =
      if (∃ r ∈ k.newRun, r.has f) ∧ s.frame f = .free then .reserved w else s.frame f := by
  match k with
  | .retire => simp [State.reserveRun, ChangeKind.newRun]
  | .change _ none _ => simp [State.reserveRun, ChangeKind.newRun]
  | .change _ (some r) _ =>
    refine (reserveFold_get r w f s.frames).trans ?_
    simp only [ChangeKind.newRun, Option.mem_def, Option.some.injEq, exists_eq_left']
    rfl

theorem State.newRunFree_eq_true {w : Nat} {k : ChangeKind} (h : s.newRunFree w k = true) :
    ∀ r ∈ k.newRun, ∀ f, r.has f → s.frame f = .free ∨ s.frame f = .bound w := by
  match k with
  | .retire => simp [ChangeKind.newRun]
  | .change _ none _ => simp [ChangeKind.newRun]
  | .change _ (some r) _ =>
    rintro _ ⟨⟩ f ⟨hf, hf'⟩
    have := List.all_eq_true.1 h (f - r.base) (by simp; omega)
    rw [show r.base + (f - r.base) = f by omega] at this
    simpa using this

theorem ChangeKind.needsSlot_eq_false {k : ChangeKind} {l : LiveFields} :
    k.needsSlot l = false ↔ l.scrub = false ∨ k.leaves l = [] := by
  rw [ChangeKind.needsSlot, k.released_eq_leaves]
  cases l.scrub <;> simp

theorem State.reserveRun_eq (w : Nat) (k : ChangeKind) : s.reserveRun w k = s.setFrames (s.reserveRun w k).frames := by
  match k with
  | .retire => rfl
  | .change _ none _ => rfl
  | .change _ (some _) _ => rfl

/-- An acceptance before the scrub slot is reserved (R64). -/
def State.accepted (s : State) (tag : BitVec 8) (q : ChangeRequest) (e : Fin 16) (slot : Option (Fin 16)) : State :=
  ((s.setEntry e (some (.fresh tag q.window q.kind q.group slot))).setWindow q.window
    { s.window q.window with pending := some e }).reserveRun q.window q.kind

theorem State.acceptParts_none (tag : BitVec 8) (q : ChangeRequest) (e : Fin 16) :
    s.acceptParts tag q e none = s.accepted tag q e none := rfl

theorem State.acceptParts_some (tag : BitVec 8) (q : ChangeRequest) (e i : Fin 16) :
    s.acceptParts tag q e (some i) = (s.accepted tag q e (some i)).setSlot i (.reserved e) := rfl

section
variable (tag : BitVec 8) (q : ChangeRequest) (e : Fin 16) (slot : Option (Fin 16))

theorem State.accepted_window (v : Nat) : (s.accepted tag q e slot).window v =
    if v = q.window then { s.window q.window with pending := some e } else s.window v := by
  rw [State.accepted, State.reserveRun_eq]
  exact State.window_setWindow ..

theorem State.accepted_entry (d : Fin 16) : (s.accepted tag q e slot).entry d =
    if d = e then some (.fresh tag q.window q.kind q.group slot) else s.entry d := by
  rw [State.accepted, State.reserveRun_eq]
  exact State.entry_setEntry ..

theorem State.accepted_frame (f : Nat) : (s.accepted tag q e slot).frame f =
    if (∃ r ∈ q.kind.newRun, r.has f) ∧ s.frame f = .free then .reserved q.window else s.frame f :=
  State.reserveRun_frame ..

theorem State.accepted_rest : ((s.accepted tag q e slot).scrub, (s.accepted tag q e slot).outbox,
    (s.accepted tag q e slot).device) = (s.scrub, s.outbox, s.device) := by
  rw [State.accepted, State.reserveRun_eq]
  rfl

end

/-- The law of claims after an entry has been taken for a window without a pending change. -/
theorem ClaimLaw.taken (h : ClaimLaw s) (hp : PendingLaw s) {tag : BitVec 8} {q : ChangeRequest} {l : LiveFields}
    {e : Fin 16} {slot : Option (Fin 16)} (hl : (s.window q.window).live = some l)
    (hn : (s.window q.window).pending = none) (he : s.entry e = none) (hq : q.Fits s.frameCount)
    (hf : ∀ r ∈ q.kind.newRun, ∀ f, r.has f → s.frame f = .free ∨ s.frame f = .bound q.window)
    (hfit : q.kind.slotFits l slot)
    (window : ∀ v, t.window v = if v = q.window then { s.window q.window with pending := some e } else s.window v)
    (entry : ∀ d, t.entry d = if d = e then some (.fresh tag q.window q.kind q.group slot) else s.entry d)
    (frame : ∀ f, t.frame f =
      if (∃ r ∈ q.kind.newRun, r.has f) ∧ s.frame f = .free then .reserved q.window else s.frame f)
    (slots : ∀ k d, t.slot k = .reserved d ↔ (slot = some k ∧ d = e) ∨ slot ≠ some k ∧ s.slot k = .reserved d)
    (hfree : ∀ i ∈ slot, s.slot i = .free) (hd : t.device = s.device) : ClaimLaw t := by
  have live (v : Nat) : (t.window v).live = (s.window v).live := by
    rw [window]
    split
    · rename_i hv
      rw [hv]
    · rfl
  have count : t.frameCount = s.frameCount := by simp only [State.frameCount, hd]
  constructor
  · intro f v
    rw [live, ← h.bound, frame]
    split
    · rename_i hc
      simp [hc.2]
    · rfl
  · intro f v
    have old := h.reserved f v
    by_cases hv : v = q.window
    · subst hv
      have named : (t.window q.window).pending = some e := by rw [window, if_pos rfl]
      have none : s.frame f ≠ .reserved q.window := by
        rw [hn] at old
        simp at old
        exact old
      have hb := h.bound f q.window
      rw [hl] at hb
      rw [frame, live, hl, named]
      constructor
      · intro hr
        split at hr
        · rename_i hc
          obtain ⟨⟨r, hr, hrf⟩, hfree⟩ := hc
          refine ⟨e, rfl, _, by rw [entry, if_pos rfl]; rfl, r, hr, l, rfl, hrf, fun hlf => ?_⟩
          rw [hfree] at hb
          simpa using hb.2 ⟨l, rfl, hlf⟩
        · exact absurd hr none
      · rintro ⟨d, ⟨⟩, x, hx, r, hr, l', ⟨⟩, hrf, hlf⟩
        rw [entry, if_pos rfl] at hx
        cases hx
        have notBound : s.frame f ≠ .bound q.window := fun hbf => by
          obtain ⟨l', ⟨⟩, hl'⟩ := hb.1 hbf
          exact hlf hl'
        exact if_pos ⟨⟨r, hr, hrf⟩, (hf r hr f hrf).resolve_right notBound⟩
    · rw [window, if_neg hv, frame]
      have keep : (if (∃ r ∈ q.kind.newRun, r.has f) ∧ s.frame f = .free then FrameState.reserved q.window else s.frame f) =
          .reserved v ↔ s.frame f = .reserved v := by
        split
        · rename_i hc
          simp [hc.2, Ne.symm hv]
        · rfl
      refine keep.trans (old.trans (exists_congr fun d => and_congr_right fun hd => ?_))
      rw [entry, if_neg]
      rintro rfl
      obtain ⟨y, hy, -⟩ := hp.inUse v d hd
      rw [he] at hy
      cases hy
  · intro f hf'
    rw [count]
    rw [frame] at hf'
    split at hf'
    · rename_i hc
      obtain ⟨⟨r, hr, hrf⟩, -⟩ := hc
      have := (hq.run r hr).2
      omega
    · exact h.configured f hf'
  · intro v
    rw [live]
    exact h.runs v
  · intro d x hx
    rw [entry] at hx
    split at hx
    · cases hx
      exact fun r hr => (hq.run r hr).1
    · exact h.newRuns d x hx
  · intro k d
    have old := h.slots k d
    rw [slots, entry]
    split
    · subst_vars
      rw [he] at old
      simp [Entry.fresh]
      grind
    · rw [← old]
      grind
  · intro d x hx l' hl'
    rw [entry] at hx
    rw [live] at hl'
    split at hx
    · cases hx
      rw [Entry.fresh, hl] at hl'
      cases hl'
      exact hfit
    · exact h.fits d x hx l' hl'

theorem WorkLaw.acceptParts (h : WorkLaw s) (hserve : s.isServing = true) {tag : BitVec 8} {q : ChangeRequest}
    (hq : q.Fits s.frameCount) {l : LiveFields} {e : Fin 16} {slot : Option (Fin 16)}
    (hc : s.changeChecks q = .ok (l, e, slot)) : WorkLaw (s.acceptParts tag q e slot) := by
  have pending := State.acceptParts_pendingLaw h.pending hc tag
  obtain ⟨hl, hp, -, hfe, hfree, hslot⟩ := State.changeChecks_eq_ok hc
  have he := State.freeEntry_eq_some hfe
  have hslot : q.kind.slotFits l slot ∧ ∀ i ∈ slot, s.slot i = .free := by
    rcases hslot with ⟨hn, rfl⟩ | ⟨hn, hsome, hs⟩
    · exact ⟨⟨fun _ => ChangeKind.needsSlot_eq_false.1 hn, fun _ => rfl⟩, nofun⟩
    · refine ⟨⟨fun h => by simp [h] at hsome, fun h => ?_⟩, fun i hi => State.freeSlot_eq_some (hs.trans hi)⟩
      rw [ChangeKind.needsSlot_eq_false.2 h] at hn
      cases hn
  have serving : s.device ≠ .unconfigured := fun hd => by simp [State.isServing, hd] at hserve
  have hu := s.accepted_rest tag q e slot
  simp only [Prod.mk.injEq] at hu
  obtain ⟨hscrub, houtbox, hdevice⟩ := hu
  have uslot (k : Fin 16) : (s.accepted tag q e slot).slot k = s.slot k := by simp only [State.slot, hscrub]
  have engine : EngineLaw (s.accepted tag q e slot) := h.engine.of_eq
    (fun f i hi => by
      rw [State.accepted_frame] at hi
      split at hi
      · cases hi
      · exact hi)
    (by rw [hscrub, houtbox, hdevice])
  have busy : (s.accepted tag q e slot).Busy := fun hr => by
    rw [hscrub] at hr
    simpa only [uslot] using h.busy hr
  have awaiting : (s.accepted tag q e slot).Awaiting := by simpa only [State.Awaiting, State.fill, hscrub] using h.awaiting
  have live (v : Nat) : ((s.accepted tag q e slot).window v).live = (s.window v).live := by
    rw [State.accepted_window]
    split
    · rename_i hv
      rw [hv]
    · rfl
  have lives (d : Fin 16) (x : Entry) (hx : (s.accepted tag q e slot).entry d = some x) :
      ((s.accepted tag q e slot).window x.window).live ≠ none := by
    rw [live]
    rw [State.accepted_entry] at hx
    split at hx
    · cases hx
      rw [Entry.fresh, hl]
      exact nofun
    · exact h.live d x hx
  have claims {u : State} (slots : ∀ k d, u.slot k = .reserved d ↔ (slot = some k ∧ d = e) ∨ slot ≠ some k ∧ s.slot k = .reserved d)
      (hw : (u.windows, u.entries, u.frames, u.device) =
        ((s.accepted tag q e slot).windows, (s.accepted tag q e slot).entries, (s.accepted tag q e slot).frames,
          (s.accepted tag q e slot).device)) : ClaimLaw u := by
    simp only [Prod.mk.injEq] at hw
    obtain ⟨hw, hen, hfr, hde⟩ := hw
    exact h.claims.taken h.pending hl hp he hq (State.newRunFree_eq_true hfree) hslot.1
      (fun v => by rw [State.window, hw]; exact State.accepted_window ..)
      (fun d => by rw [State.entry, hen]; exact State.accepted_entry ..)
      (fun f => by rw [State.frame, hfr]; exact State.accepted_frame ..) slots hslot.2 (hde.trans hdevice)
  cases slot with
  | none =>
    rw [State.acceptParts_none] at pending ⊢
    exact ⟨pending, lives, claims (fun k d => by simp [uslot]) rfl, engine, busy, awaiting⟩
  | some i =>
    rw [State.acceptParts_some] at pending ⊢
    have hi : (s.accepted tag q e (some i)).slot i = .free := (uslot i).trans (hslot.2 i rfl)
    refine ⟨pending, lives, claims (fun k d => ?_) rfl,
      engine.setReserved (.inl hi) (.inr ⟨⟨e, rfl⟩, fun hd => serving (hdevice.symm.trans hd)⟩), fun hr => ?_, awaiting⟩
    · rw [State.slot_setSlot, uslot]
      grind
    · obtain ⟨k, j, hk⟩ := busy hr
      refine ⟨k, j, ?_⟩
      rw [State.slot_setSlot, if_neg]
      · exact hk
      · rintro rfl
        exact absurd (hk.symm.trans hi) (by simp)

/-! ## CREATE, RESCRUB and CONFIGURE -/

theorem State.runAll_eq_true {r : Run} {ok : FrameState → Bool} :
    s.runAll r ok = true ↔ ∀ f, r.has f → ok (s.frame f) = true := by
  simp only [State.runAll, List.all_eq_true, List.mem_range]
  constructor
  · rintro h f ⟨hf, hf'⟩
    simpa [show r.base + (f - r.base) = f by omega] using h (f - r.base) (by omega)
  · exact fun h i hi => h _ ⟨by omega, by omega⟩

/-- What the checks of an accepted CREATE have found (R15). -/
theorem createChecks_eq_ok {window : BitVec 16} {cls : BitVec 8} {scrub : Bool} {ba bc : BitVec 8} {rights : BitVec 16}
    {base count : Word} {w : Nat} {l : LiveFields}
    (h : createChecks window cls scrub ba bc rights base count s = .ok (w, l)) :
    w < 4096 ∧ 1 ≤ l.run.count ∧ l.run.base + l.run.count ≤ s.frameCount ∧ (s.window w).live = none ∧
      ∀ f, l.run.has f → s.frame f = .free := by
  unfold createChecks at h
  split at h
  · rename_i w' r hw hr
    split at h
    · cases h
    · split at h
      · cases h
      · split at h
        · cases h
        · rename_i run hrun
          split at h
          · cases h
          · split at h
            · cases h
            · rename_i hlive hfree
              cases h
              obtain ⟨-, h1, -, h2, rfl⟩ := checkRun_eq_ok.1 hrun
              exact ⟨(windowNumber_eq_some.1 hw).2, h1, h2, not_not.1 hlive,
                fun f hf => beq_iff_eq.1 (State.runAll_eq_true.1 (by simpa using hfree) f hf)⟩
  · cases h

theorem WorkLaw.createWindow (h : WorkLaw s) {w : Nat} {l : LiveFields} (hr : 1 ≤ l.run.count)
    (hc : l.run.base + l.run.count ≤ s.frameCount) (hl : (s.window w).live = none)
    (hf : ∀ f, l.run.has f → s.frame f = .free) : WorkLaw (s.createWindow w l) := by
  have window (v : Nat) : (s.createWindow w l).window v =
      if v = w then { s.window w with live := some l, generation := (s.window w).generation + 1 } else s.window v :=
    State.window_setWindow ..
  have frame (f : Nat) : (s.createWindow w l).frame f = if l.run.has f then .bound w else s.frame f := sparseGet_fill ..
  have idle (e : Fin 16) (x : Entry) (hx : s.entry e = some x) : x.window ≠ w := fun hw =>
    h.live e x hx (hw ▸ hl)
  have pend (v : Nat) : ((s.createWindow w l).window v).pending = (s.window v).pending := by
    rw [window]
    split
    · rename_i hv
      rw [hv]
    · rfl
  have unbound (f : Nat) : s.frame f ≠ .bound w := fun hb => by
    obtain ⟨l', hl', -⟩ := (h.claims.bound f w).1 hb
    rw [hl] at hl'
    cases hl'
  refine ⟨h.pending.of_same pend fun e => rfl, fun e x hx => ?_, ?_, h.engine.of_eq (fun f i hi => ?_) rfl, h.busy, h.awaiting⟩
  · rw [window, if_neg (idle e x hx)]
    exact h.live e x hx
  · constructor
    · intro f v
      have hb := h.claims.bound f v
      have := hf f
      rw [frame, window]
      by_cases hv : v = w
      · subst hv
        rw [if_pos rfl]
        by_cases hlf : l.run.has f
        · rw [if_pos hlf]
          exact ⟨fun _ => ⟨l, rfl, hlf⟩, fun _ => rfl⟩
        · rw [if_neg hlf]
          refine ⟨fun hb => absurd hb (unbound f), ?_⟩
          rintro ⟨_, ⟨⟩, hl⟩
          exact absurd hl hlf
      · rw [if_neg hv, ← hb]
        by_cases hlf : l.run.has f
        · rw [if_pos hlf, hf f hlf]
          simp [Ne.symm hv]
        · rw [if_neg hlf]
    · intro f v
      have hb := h.claims.reserved f v
      rw [pend, frame]
      have keep : (if l.run.has f then FrameState.bound w else s.frame f) = .reserved v ↔ s.frame f = .reserved v := by
        by_cases hlf : l.run.has f
        · simp [if_pos hlf, hf f hlf]
        · rw [if_neg hlf]
      refine keep.trans (hb.trans (exists_congr fun e => and_congr_right fun he => ?_))
      obtain ⟨x, hx, hxv⟩ := h.pending.inUse v e he
      rw [window, if_neg (hxv ▸ idle e x hx)]
      rfl
    · intro f hn
      rw [frame] at hn
      change f < s.frameCount
      split at hn
      · rename_i hlf
        exact hlf.2.trans_le hc
      · exact h.claims.configured f hn
    · intro v
      rw [window]
      split
      · rintro _ ⟨⟩
        exact hr
      · exact h.claims.runs v
    · exact h.claims.newRuns
    · exact h.claims.slots
    · intro e x hx
      rw [window, if_neg (idle e x hx)]
      exact h.claims.fits e x hx
  · rw [frame] at hi
    split at hi
    · cases hi
    · exact hi

theorem Job.fresh_ordered {r : Run} (h : 1 ≤ r.count) (o : Origin) : (Job.fresh o r none).Ordered :=
  ⟨h, nofun, by
    rintro p ⟨⟩
    exact ⟨le_rfl, by dsimp [Job.fresh]; omega⟩⟩

theorem Job.fresh_has (o : Origin) (r : Run) (f : Nat) : (Job.fresh o r none).has f ↔ r.has f := by
  simp [Job.has, Job.fresh]

theorem WorkLaw.rescrubRun (h : WorkLaw s) (hserve : s.isServing = true) {r : Run} {i : Fin 16} (hr : 1 ≤ r.count)
    (hf : ∀ f, r.has f → s.frame f = .quarantined) (hi : s.slot i = .free) : WorkLaw (s.rescrubRun r i) := by
  have serving : s.device ≠ .unconfigured := fun hd => by simp [State.isServing, hd] at hserve
  have fill (f : Nat) : (s.setFrames (sparseFill .free s.frames r.base r.count (.scrubbing i))).frame f =
      if r.has f then .scrubbing i else s.frame f := sparseGet_fill ..
  have only := State.enqueue_engineOnly (s.setFrames (sparseFill .free s.frames r.base r.count (.scrubbing i))) i
    (Job.fresh .rescrub r none)
  obtain ⟨engine, busy, awaiting, slots, frames⟩ := State.enqueue_done h.engine h.busy h.awaiting (.inl hi)
    (Job.fresh_ordered hr .rescrub) serving (m := sparseFill .free s.frames r.base r.count (.scrubbing i))
    fun f k hk => by
      rw [fill] at hk
      split at hk
      · cases hk
        exact .inr ⟨rfl, (Job.fresh_has ..).2 ‹_›⟩
      · exact .inl hk
  change EngineLaw (s.rescrubRun r i) at engine
  change EngineOnly _ (s.rescrubRun r i) at only
  have window (w : Nat) : (s.rescrubRun r i).window w = s.window w := by simp only [State.window, only.windows]; rfl
  have entry (e : Fin 16) : (s.rescrubRun r i).entry e = s.entry e := by simp only [State.entry, only.entries]; rfl
  have frame (f : Nat) : (s.rescrubRun r i).frame f = if r.has f then .scrubbing i else s.frame f := by
    rw [← fill]
    simp only [State.frame, only.frames]
  have kept (x : FrameState) (h1 : x ≠ .scrubbing i) (h2 : x ≠ .quarantined) (f : Nat) :
      (s.rescrubRun r i).frame f = x ↔ s.frame f = x := by
    rw [frame]
    split
    · rename_i hrf
      rw [hf f hrf]
      exact ⟨fun h => absurd h.symm h1, fun h => absurd h.symm h2⟩
    · rfl
  refine ⟨h.pending.of_eq (by rw [only.windows, only.entries]; rfl), ?_, ?_, engine, busy, awaiting⟩
  · simpa only [window, entry] using h.live
  · refine h.claims.of_same (fun w => by rw [window]) (fun w => by rw [window]) (fun e x hx => ⟨x, entry e ▸ hx, .refl x⟩)
      (fun e x hx => ⟨x, (entry e).symm ▸ hx, .refl x⟩)
      ⟨fun f w => kept _ (by simp) (by simp) f, fun f w => kept _ (by simp) (by simp) f,
        fun f => mt (kept .free (by simp) (by simp) f).2⟩ (fun k e => (slots k e).trans ?_)
      (by simp only [State.frameCount, only.device]; rfl)
    rw [and_iff_right_iff_imp]
    rintro hk rfl
    rw [hi] at hk
    cases hk

/-- While the device is UNCONFIGURED nothing is in use. -/
theorem WorkLaw.unconfigured (h : WorkLaw s) (hs : s.isServing = false) :
    (∀ f, s.frame f = .free) ∧ (∀ w, (s.window w).live = none) ∧ (∀ e, s.entry e = none) ∧ ∀ i, s.slot i = .free := by
  have hd : s.device = .unconfigured := by
    unfold State.isServing at hs
    split at hs
    · assumption
    · cases hs
  have frame (f : Nat) : s.frame f = .free := by
    by_contra hf
    have := h.claims.configured f hf
    simp [State.frameCount, hd] at this
  have live (w : Nat) : (s.window w).live = none := by
    by_contra hl
    obtain ⟨l, hl⟩ := Option.ne_none_iff_exists'.1 hl
    have := (h.claims.bound l.run.base w).2 ⟨l, hl, le_rfl, by have := h.claims.runs w l hl; omega⟩
    rw [frame] at this
    cases this
  refine ⟨frame, live, fun e => ?_, h.engine.unconfigured hd⟩
  by_contra he
  obtain ⟨x, hx⟩ := Option.ne_none_iff_exists'.1 he
  exact h.live e x hx (live _)

/-- With no window LIVE, no entry in use and no slot RESERVED, the frames that are in use are configured ones. -/
theorem WorkLaw.of_unclaimed (live : ∀ w, (t.window w).live = none) (entry : ∀ e, t.entry e = none)
    (pending : PendingLaw t) (slot : ∀ i e, t.slot i ≠ .reserved e)
    (frame : ∀ f, (∀ w, t.frame f ≠ .bound w ∧ t.frame f ≠ .reserved w) ∧ (t.frame f ≠ .free → f < t.frameCount))
    (engine : EngineLaw t) (busy : t.Busy) (awaiting : t.Awaiting) : WorkLaw t := by
  refine ⟨pending, fun e x hx => by simp [entry] at hx, ⟨fun f w => ?_, fun f w => ?_, fun f => (frame f).2, fun w l hl => ?_,
    fun e x hx => ?_, fun i e => ?_, fun e x hx => ?_⟩, engine, busy, awaiting⟩
  · simpa [live] using ((frame f).1 w).1
  · simpa [entry] using ((frame f).1 w).2
  · simp [live] at hl
  · simp [entry] at hx
  · simpa [entry] using slot i e
  · simp [entry] at hx

theorem EngineLaw.setDevice (h : EngineLaw s) (c : Configuration) : EngineLaw (s.setDevice (.serving c)) :=
  ⟨h.scrubbing, h.queued, h.oneActive, h.idle, h.fills, h.suspended, h.jobs, ⟨h.notices.agree, h.notices.once⟩, nofun⟩

theorem initialFrames_get (n f : Nat) :
    sparseGet FrameState.free ((List.range n).map fun g => (g, .scrubbing 0)) f = if f < n then .scrubbing 0 else .free := by
  have keys : ∀ l : List Nat, sparseGet FrameState.free (l.map fun g => (g, .scrubbing 0)) f =
      if f ∈ l then .scrubbing 0 else .free := by
    intro l
    induction l with
    | nil => rfl
    | cons g l ih =>
      rw [List.map_cons, sparseGet, ih]
      grind
  rw [keys]
  simp

theorem WorkLaw.configureWith (h : WorkLaw s) (hs : s.isServing = false) {c : Configuration} (hc : 1 ≤ c.frameCount) :
    WorkLaw (s.configureWith c) := by
  obtain ⟨frame, live, entry, slot⟩ := h.unconfigured hs
  have h1 : EngineLaw (s.setDevice (.serving c)) := h.engine.setDevice c
  unfold State.configureWith
  dsimp only
  split
  · have fill (f : Nat) : ((s.setDevice (.serving c)).setFrames
        ((List.range c.frameCount).map fun g => (g, .scrubbing 0))).frame f =
        if f < c.frameCount then .scrubbing 0 else .free := initialFrames_get ..
    obtain ⟨engine, busy, awaiting, slots, frames⟩ := State.enqueue_done h1 h.busy h.awaiting (.inl (slot 0))
      (Job.fresh_ordered (r := ⟨0, c.frameCount⟩) hc .initial) nofun
      (m := (List.range c.frameCount).map fun g => (g, .scrubbing 0)) fun f k hk => by
        rw [fill] at hk
        split at hk
        · cases hk
          exact .inr ⟨rfl, (Job.fresh_has ..).2 ⟨Nat.zero_le f, by simpa⟩⟩
        · cases hk
    have only := State.enqueue_engineOnly ((s.setDevice (.serving c)).setFrames
      ((List.range c.frameCount).map fun g => (g, .scrubbing 0))) 0 (Job.fresh .initial ⟨0, c.frameCount⟩ none)
    refine .of_unclaimed (fun w => ?_) (fun e => ?_) (h.pending.of_eq ?_) (fun i e hi => ?_) (fun f => ?_) engine busy awaiting
    · rw [State.window, only.windows]
      exact live w
    · rw [State.entry, only.entries]
      exact entry e
    · rw [only.windows, only.entries]
      rfl
    · exact nomatch (slot i).symm.trans ((slots i e).1 hi).2
    · rw [State.frame, frames, initialFrames_get, State.frameCount, only.device]
      split <;> simp_all
  · refine .of_unclaimed live entry (h.pending.of_eq rfl) (fun i e hi => ?_) (fun f => ⟨fun w => ⟨nofun, nofun⟩, nofun⟩)
      (h1.of_eq nofun rfl) h.busy h.awaiting
    exact nomatch (slot i).symm.trans hi

/-- With nothing of the engine and nothing of windows, entries and frames in use. -/
theorem WorkLaw.of_reset {q : BitVec 16} (hs : (t.windows, t.entries, t.frames, t.scrub, t.outbox, t.device) =
    (State.reset.windows, State.reset.entries, State.reset.frames, { State.reset.scrub with seq := q },
      State.reset.outbox, State.reset.device)) : WorkLaw t := by
  have h : WorkLaw .reset := DeviceLaw.workLaw resetMeetsTheLaws
  have hq : WorkLaw (State.reset.setScrub { State.reset.scrub with seq := q }) :=
    h.engineOnly ⟨⟨h.engine.setFills (fun _ _ hf => .inl hf) q, h.busy, .of_eq rfl⟩, h.awaiting,
      (State.setScrub_engineOnly ..).framesScrubbed⟩ (State.setScrub_engineOnly ..)
  exact hq.of_eq hs

/-! ## Every step -/

/-- The law of frames and of the engine, on tables in canonical form. -/
def WorkFits (s : State) : Prop := Canonical s ∧ WorkLaw s

theorem WorkFits.of_eq (h : WorkFits s) (hc : Canonical t)
    (hx : (t.windows, t.entries, t.frames, t.scrub, t.outbox, t.device) =
      (s.windows, s.entries, s.frames, s.scrub, s.outbox, s.device)) : WorkFits t :=
  ⟨hc, h.2.of_eq hx⟩

theorem WorkFits.setHolders (h : WorkFits s) (w : Nat) (x : FinSet 8) :
    WorkFits (s.setWindow w { s.window w with holders := x }) := by
  refine ⟨canonicalParts.holders h.1, h.2.of_same (fun v => ?_) (fun v => ?_) (fun e x hx => ⟨x, hx, .refl x⟩)
    (fun e x hx => ⟨x, hx, .refl x⟩) rfl⟩ <;>
  · rw [State.window_setWindow]
    split
    · rename_i hv
      rw [hv]
    · rfl

theorem WorkFits.setEntry (h : WorkFits s) {e : Fin 16} {x y : Entry} (hx : s.entry e = some x)
    (hy : x.SameRequest y) : WorkFits (s.setEntry e (some y)) := by
  refine ⟨canonicalParts.entry h.1 hx hy, h.2.of_same (fun v => rfl) (fun v => rfl) (fun d z hz => ?_) (fun d z hz => ?_) rfl⟩
  · rw [State.entry_setEntry] at hz
    split at hz
    · rename_i hd
      cases hz
      exact ⟨x, hd ▸ hx, hy⟩
    · exact ⟨z, hz, .refl z⟩
  · rw [State.entry_setEntry]
    split
    · rename_i hd
      rw [hd, hx] at hz
      cases hz
      exact ⟨y, rfl, hy⟩
    · exact ⟨z, hz, .refl z⟩

theorem State.fillEnds_rest (k : Fin 4) (f : Fill) (ok : Bool) :
    ((s.fillEnds k f ok).windows, (s.fillEnds k f ok).entries, (s.fillEnds k f ok).device) =
      (s.windows, s.entries, s.device) := by
  unfold State.fillEnds
  extract_lets s1 s2
  have h2 : (s2.windows, s2.entries, s2.device) = (s.windows, s.entries, s.device) := by
    unfold s2
    split
    · rfl
    · split
      · split
        · unfold State.countBlock
          dsimp only
          split <;> rfl
        · rfl
      · rfl
  have only := s2.afterFill_engineOnly
  rw [only.windows, only.entries, only.device]
  exact h2

theorem WorkLaw.delivered (h : WorkLaw s) : WorkLaw (deliver s.outbox s) :=
  h.engineOnly (deliver_done h.engine h.busy h.awaiting) (deliver_engineOnly ..)

theorem WorkLaw.postPort (h : WorkLaw s) (a : AgentId) : WorkLaw (s.postPort a) := by
  have fit := EngineLaw.portPosting_fits h.engine.notices a (s.port a).state (s.port a).reason
  have h1 : WorkLaw (s.setOutbox (portPosting s.outbox a (s.port a).state (s.port a).reason)) :=
    h.engineOnly ⟨⟨h.engine.setOutbox fit, h.busy, .refl s⟩, h.awaiting, fun f => .inl rfl⟩ (by constructor <;> rfl)
  exact h1.delivered

theorem WorkLaw.suspend (h : WorkLaw s) (he : s.scrub.engine = .idle ∨ s.scrub.engine = .running ∧ s.quiet = true) :
    WorkLaw (s.setEngine .suspended) := by
  have quiet (k : Fin 4) : s.fill k = none := by
    rcases he with he | ⟨-, hq⟩
    · refine Option.eq_none_iff_forall_ne_some.2 fun f hf => ?_
      obtain ⟨i, j, hi, -⟩ := h.engine.fills k f hf
      exact (h.engine.idle he).1 i j hi
    · exact State.quiet_eq_true.1 hq k
  exact h.engineOnly ⟨⟨h.engine.setEngine nofun fun _ => quiet, nofun, .refl s⟩, nofun, fun f => .inl rfl⟩
    (s.setEngine_engineOnly _)

theorem WorkLaw.suspendLater (h : WorkLaw s) (tag : BitVec 8) (hq : s.quiet = false) :
    WorkLaw (s.setEngine (.suspending tag)) := by
  refine h.engineOnly ⟨⟨h.engine.setEngine nofun nofun, nofun, .refl s⟩, fun _ _ => ?_, fun f => .inl rfl⟩
    (s.setEngine_engineOnly _)
  by_contra hc
  exact Bool.false_ne_true (hq.symm.trans (State.quiet_eq_true.2 fun k => not_not.1 (not_exists.1 hc k)))

theorem workParts : PartsKeep WorkFits (fun _ => WorkFits) WorkFits where
  law := id
  pre := id
  outPre o h := h.of_eq (canonicalParts.outPre o h.1) rfl
  buffer h hl hc hm := h.of_eq (canonicalParts.buffer h.1 hl hc hm) rfl
  take h hb := h.of_eq (canonicalParts.take h.1 hb) rfl
  out s o h := h.of_eq (canonicalParts.out s o h.1) rfl
  table h hu := h.of_eq (canonicalParts.table h.1 hu) rfl
  holders h := h.setHolders ..
  port a p h := h.of_eq (canonicalParts.port a p h.1) rfl
  fence a b h := h.of_eq (canonicalParts.fence a b h.1) rfl
  park l h := h.of_eq (canonicalParts.park l h.1) rfl
  entry h hx hy := h.setEntry hx hy
  group g x h := h.of_eq (canonicalParts.group g x h.1) rfl
  addTag t h := h.of_eq (canonicalParts.addTag t h.1) rfl
  freeTag t h := h.of_eq (canonicalParts.freeTag t h.1) rfl
  post a h := ⟨canonicalParts.post a h.1, h.2.postPort a⟩
  apply h hx := ⟨canonicalParts.apply h.1 hx, h.2.applyParts h.1.frames hx⟩
  abandon h hx := ⟨canonicalParts.abandon h.1 hx, h.2.abandonParts h.1.frames hx⟩
  accepts h hs hq hc := ⟨canonicalParts.accepts h.1 hs hq hc, h.2.acceptParts hs hq hc⟩
  reset h := ⟨canonicalParts.reset h.1, .of_reset (q := 0) rfl⟩
  released h := h.of_eq (canonicalParts.released h.1) rfl
  restart h := ⟨canonicalParts.restart h.1, .of_reset rfl⟩
  linkState h hl hs := h.of_eq (canonicalParts.linkState h.1 hl hs) rfl
  linkUp h hl := h.of_eq (canonicalParts.linkUp h.1 hl) rfl
  linkDown h hs hl := h.of_eq (canonicalParts.linkDown h.1 hs hl) rfl
  loseSup h hs := h.of_eq (canonicalParts.loseSup h.1 hs) rfl
  drive {s} h := ⟨canonicalParts.drive h.1,
    have hk := State.drive_kept h.2.engine h.2.busy
    h.2.engineOnly ⟨hk, State.drive_awaiting h.2.awaiting, s.drive_engineOnly.framesScrubbed⟩ s.drive_engineOnly⟩
  loseMem {s} h := ⟨canonicalParts.loseMem h.1, h.2.engineOnly (State.loseMem_done h.2.engine h.2.busy) s.loseMem_engineOnly⟩
  fill ok h hf := ⟨canonicalParts.fill ok h.1 hf,
    h.2.engineDone (State.fillEnds_done h.2.engine h.2.busy _ _ ok) (State.fillEnds_rest ..)⟩
  configure h hs hc := ⟨canonicalParts.configure h.1 hs hc, h.2.configureWith hs hc⟩
  create h hc := ⟨canonicalParts.create h.1 hc,
    have ⟨_, hr, hn, hl, hf⟩ := createChecks_eq_ok hc
    h.2.createWindow hr hn hl hf⟩
  suspend h he := ⟨canonicalParts.suspend h.1 he, h.2.suspend he⟩
  suspendLater tag h he hq := ⟨canonicalParts.suspendLater tag h.1 he hq, h.2.suspendLater tag hq⟩
  resume {s} h he := ⟨canonicalParts.resume h.1 he, h.2.engineOnly (State.resume_done h.2.engine) s.resume_engineOnly⟩
  rescrub h hs hr hq hi := ⟨canonicalParts.rescrub h.1 hs hr hq hi,
    have ⟨_, hc, _, _, hrun⟩ := checkRun_eq_ok.1 hr
    h.2.rescrubRun hs (hrun ▸ hc) (fun f hf => beq_iff_eq.1 (State.runAll_eq_true.1 hq f hf)) (State.freeSlot_eq_some hi)⟩
  credit {s tag n} m h := ⟨canonicalParts.credit (tag := tag) m h.1,
    have h1 : WorkLaw ((s.setCredit (min (s.credit + n.toNat) 255)).sendSup m) := h.2.of_eq (by simp [State.setCredit])
    h1.delivered⟩

theorem workFits_of_step (h : DeviceLaw s) (hst : step s = .next t) : WorkFits t :=
  step_keeps workParts.actions (fun _ h => h.of_eq (h.1.of_eq rfl) rfl) ⟨h.canonical, h.workLaw⟩ hst

/-- Settles O58. -/
theorem frameLawKept : Obligations.FrameLawKept := by
  unfold Obligations.FrameLawKept
  exact fun s t h hst => (workFits_of_step h hst).2.frameLaw

/-- Settles O59. -/
theorem scrubLawKept : Obligations.ScrubLawKept := by
  unfold Obligations.ScrubLawKept
  exact fun s t h hst => (workFits_of_step h hst).2.scrubLaw

end Sys2Proof.Machine
end

section
/-!
PROOFS: the removal of holdings. What one removal and several removals of an agent's holdings leave of its table, of the
records and of the Change Table, and when no waiting ends with them.
-/

namespace Sys2Proof.Machine

variable {s t : State} {a : AgentId} {d : Bool}

/-! ## What the action has sent does not matter to a removal -/

theorem State.report_setOut (o : Outputs) (ab : Option (Fin 4)) (a : AgentId) (w : Nat) (d : Bool) :
    (s.setOut o).report ab a w d = (s.report ab a w d).setOut o := by
  unfold State.report
  rw [State.setOut_window]
  split
  · rfl
  · rw [State.setOut_entry]
    split
    · rfl
    · split <;> rfl

theorem State.removeSlot_setOut (o : Outputs) (ab : Option (Fin 4)) (a : AgentId) (d : Bool) (i : Fin 64) :
    (s.setOut o).removeSlot ab a d i = (s.removeSlot ab a d i).setOut o := by
  cases h : (s.table a).slots[i] with
  | none => rw [State.removeSlot_empty h, State.removeSlot_empty (s := s.setOut o) h]
  | some y =>
    rw [State.removeSlot_held h, State.removeSlot_held (s := s.setOut o) h]
    exact State.report_setOut (s := (s.setTable a _).setWindow y.window _) o ab a y.window d

/-- One slot of a removal of every holding that a test picks. -/
def removePicked (a : AgentId) (d : Bool) (pick : Holding → Bool) (s : State) (i : Fin 64) : State :=
  if (s.held a i).any pick then s.removeSlot none a d i else s

theorem State.removeWhere_eq (s : State) (a : AgentId) (d : Bool) (pick : Holding → Bool) :
    s.removeWhere a d pick = (List.finRange 64).foldl (removePicked a d pick) s := by
  unfold State.removeWhere
  congr 1
  funext s i
  unfold removePicked State.held
  split <;> rename_i h <;> simp [h]

theorem removePicked_setOut (o : Outputs) (a : AgentId) (d : Bool) (pick : Holding → Bool) (i : Fin 64) :
    removePicked a d pick (s.setOut o) i = (removePicked a d pick s i).setOut o := by
  unfold removePicked State.held
  rw [State.setOut_table]
  split
  · exact State.removeSlot_setOut ..
  · rfl

theorem State.removeWhere_setOut (o : Outputs) (a : AgentId) (d : Bool) (pick : Holding → Bool) :
    (s.setOut o).removeWhere a d pick = (s.removeWhere a d pick).setOut o := by
  rw [State.removeWhere_eq, State.removeWhere_eq]
  induction List.finRange 64 generalizing s with
  | nil => rfl
  | cons i l ih => rw [List.foldl_cons, List.foldl_cons, removePicked_setOut, ih]

/-! ## One removal -/

/-- A report on a holding that no change awaits. -/
theorem State.report_unawaited (h : s.unawaited a) (ab : Option (Fin 4)) (w : Nat) (d : Bool) :
    s.report ab a w d = s := by
  obtain h' | ⟨e, x, -, hx, -, ha, -⟩ := s.report_cases ab a w d
  · exact h'
  · rw [h e x hx] at ha
    cases ha

/-- A report on a holding that its window's change awaits. -/
theorem State.report_awaited {w : Nat} {e : Fin 16} {x : Entry} (hp : (s.window w).pending = some e)
    (hx : s.entry e = some x) (hr : x.state ≠ .held) (ha : x.awaited[a] = true) (d : Bool) :
    s.report none a w d = s.setEntry e (some (x.released a d)) := by
  have hr : x.inRound = true := by simpa [Entry.inRound] using hr
  have hg : (x.group.isSome && x.group == none) = false := by cases x.group <;> rfl
  simp only [State.report, hp, hx, hr, ha, hg]
  rfl

theorem State.removeSlot_unawaited {i : Fin 64} {h : Holding} (hh : s.held a i = some h) (hu : s.unawaited a)
    (ab : Option (Fin 4)) (d : Bool) :
    s.removeSlot ab a d i =
      (s.setTable a { s.table a with slots := (s.table a).slots.set i none }).setWindow h.window
        { s.window h.window with holders := (s.window h.window).holders.set a false } := by
  rw [State.removeSlot_held hh]
  exact State.report_unawaited (s := (s.setTable a _).setWindow h.window _) hu ab h.window d

theorem State.removeSlot_awaited {i : Fin 64} {h : Holding} {e : Fin 16} {x : Entry} (hh : s.held a i = some h)
    (hp : (s.window h.window).pending = some e) (hx : s.entry e = some x) (hr : x.state ≠ .held)
    (ha : x.awaited[a] = true) : s.removeSlot none a false i = s.without a i h e x := by
  rw [State.removeSlot_held hh]
  exact State.report_awaited (s := (s.setTable a _).setWindow h.window _) (by simpa using hp) hx hr ha false

@[simp] theorem Entry.released_awaited (x : Entry) (a : AgentId) (d : Bool) :
    (x.released a d).awaited[a] = false := by simp [Entry.released]

/-- An entry after the report of a removal of agent a's holdings, c telling whether one of them was of its window: it
releases the agent when it was waiting for it (R70). -/
def Entry.reported (x : Entry) (a : AgentId) (d : Bool) (c : Prop) [Decidable c] : Entry :=
  if x.awaited[a] = true ∧ x.state ≠ .held ∧ c then x.released a d else x

theorem Entry.reported_pos {x : Entry} (ha : x.awaited[a] = true) (hs : x.state ≠ .held) {c : Prop} [Decidable c]
    (hc : c) : x.reported a d c = x.released a d := if_pos ⟨ha, hs, hc⟩

theorem Entry.reported_neg {x : Entry} {c : Prop} [Decidable c] (h : ¬(x.awaited[a] = true ∧ x.state ≠ .held ∧ c)) :
    x.reported a d c = x := if_neg h

theorem Entry.reported_congr {x : Entry} {c e : Prop} [Decidable c] [Decidable e] (h : c ↔ e) :
    x.reported a d c = x.reported a d e :=
  if_congr (and_congr_right fun _ => and_congr_right fun _ => h) rfl rfl

/-- A second report to an entry that has released the agent changes nothing. -/
theorem Entry.reported_reported (x : Entry) (a : AgentId) (d : Bool) (c e : Prop) [Decidable c] [Decidable e] :
    (x.reported a d c).reported a d e = x.reported a d (c ∨ e) := by
  by_cases hx : x.awaited[a] = true ∧ x.state ≠ .held
  · by_cases hc : c
    · rw [Entry.reported_pos hx.1 hx.2 hc, Entry.reported_pos hx.1 hx.2 (.inl hc),
        Entry.reported_neg fun h => by rw [Entry.released_awaited] at h; cases h.1]
    · rw [Entry.reported_neg (c := c) fun h => hc h.2.2]
      exact Entry.reported_congr (or_iff_right hc).symm
  · rw [Entry.reported_neg (c := c) fun h => hx ⟨h.1, h.2.1⟩, Entry.reported_neg fun h => hx ⟨h.1, h.2.1⟩,
      Entry.reported_neg fun h => hx ⟨h.1, h.2.1⟩]

/-- A report writes entries only. -/
theorem State.report_rest (s : State) (ab : Option (Fin 4)) (a : AgentId) (w : Nat) (d : Bool) :
    s.report ab a w d = { s with entries := (s.report ab a w d).entries } := by
  obtain h | ⟨e, x, -, -, -, -, h⟩ := s.report_cases ab a w d
  · rw [h]
  · rw [h]; rfl

/-- The entry of the window releases the agent when it was waiting for it; every other entry stays (R70). -/
theorem State.report_entry (s : State) (a : AgentId) (w : Nat) (d : Bool) (e : Fin 16) :
    (s.report none a w d).entry e = (s.entry e).map (Entry.reported · a d ((s.window w).pending = some e)) := by
  cases hx : s.entry e with
  | none =>
    obtain h | ⟨e', x', -, hx', -, -, h⟩ := s.report_cases none a w d
    · rw [h, hx]; rfl
    · have : e ≠ e' := fun he => by rw [he, hx'] at hx; cases hx
      rw [h, State.entry_setEntry, if_neg this, hx]; rfl
  | some x =>
    rw [Option.map_some]
    by_cases hc : x.awaited[a] = true ∧ x.state ≠ .held ∧ (s.window w).pending = some e
    · rw [Entry.reported_pos hc.1 hc.2.1 hc.2.2, State.report_awaited hc.2.2 hx hc.2.1 hc.1,
        State.entry_setEntry_self]
    · rw [Entry.reported_neg hc]
      obtain h | ⟨e', x', hp', hx', hr', ha', h⟩ := s.report_cases none a w d
      · rw [h, hx]
      · have : e ≠ e' := by
          rintro rfl
          cases hx.symm.trans hx'
          exact hc ⟨ha', by simpa [Entry.inRound] using hr', hp'⟩
        rw [h, State.entry_setEntry, if_neg this, hx]

/-! ## Several removals -/

/-- An entry after removals of agent a's holdings from a set of slots: released when one of these was of its window and it
was waiting for a (R70). -/
def State.entryWithout (s : State) (a : AgentId) (d : Bool) (picked : Fin 64 → Bool) (e : Fin 16) (x : Entry) : Entry :=
  x.reported a d (∃ i, picked i = true ∧ ∃ h ∈ s.held a i, (s.window h.window).pending = some e)

/-- The holdings of agent a in a set of slots removed: these slots are EMPTY, a has left the holder sets of their windows,
and the entries that waited for them are released; nothing else changes. -/
structure Removed (s t : State) (a : AgentId) (d : Bool) (picked : Fin 64 → Bool) : Prop where
  rest : t =
    { s.setTable a
        { s.table a with slots := Vector.ofFn fun i => if picked i = true then none else s.held a i } with
      windows := t.windows
      entries := t.entries }
  window : ∀ w, t.window w =
    if ∃ i, picked i = true ∧ ∃ h ∈ s.held a i, h.window = w then
      { s.window w with holders := (s.window w).holders.set a false }
    else s.window w
  entry : ∀ e, t.entry e = (s.entry e).map (s.entryWithout a d picked e)

theorem Removed.refl (s : State) (a : AgentId) (d : Bool) : Removed s s a d fun _ => false where
  rest := by
    have : (Vector.ofFn fun i => if (false : Bool) = true then none else s.held a i) = (s.table a).slots := by
      ext i hi
      simp
    rw [this]
    exact (congrArg (fun v => { s with tables := v }) (vector_set_get s.tables a)).symm
  window w := by simp
  entry e := by
    have : s.entryWithout a d (fun _ => false) e = id := funext fun x => Entry.reported_neg (by simp)
    rw [this, Option.map_id, id]

theorem Removed.held {picked : Fin 64 → Bool} (r : Removed s t a d picked) (i : Fin 64) :
    t.held a i = if picked i = true then Option.none else s.held a i := by
  rw [r.rest]
  change (((s.setTable a _).table a).slots[i]) = _
  rw [State.table_setTable_self]
  simp

theorem Removed.port {picked : Fin 64 → Bool} (r : Removed s t a d picked) (b : AgentId) : t.port b = s.port b := by
  rw [r.rest]
  rfl

theorem Removed.pending {picked : Fin 64 → Bool} (r : Removed s t a d picked) (w : Nat) :
    (t.window w).pending = (s.window w).pending := by
  rw [r.window]
  split <;> rfl

/-- Only the HELD slots of the set matter. -/
theorem Removed.congr {picked other : Fin 64 → Bool} (r : Removed s t a d picked)
    (h : ∀ i, ∀ y ∈ s.held a i, other i = picked i) : Removed s t a d other := by
  have any (p : Holding → Prop) : (∃ i, other i = true ∧ ∃ y ∈ s.held a i, p y) ↔
      ∃ i, picked i = true ∧ ∃ y ∈ s.held a i, p y :=
    exists_congr fun i => ⟨fun ⟨hi, y, hy, hp⟩ => ⟨h i y hy ▸ hi, y, hy, hp⟩,
      fun ⟨hi, y, hy, hp⟩ => ⟨(h i y hy).symm ▸ hi, y, hy, hp⟩⟩
  refine ⟨?_, fun w => ?_, fun e => ?_⟩
  · have : (fun i => if other i = true then Option.none else s.held a i) =
        fun i => if picked i = true then Option.none else s.held a i := by
      funext i
      cases hi : s.held a i with
      | none => simp
      | some y => rw [h i y hi]
    rw [this]
    exact r.rest
  · rw [r.window w]
    exact if_congr (any fun y => y.window = w).symm rfl rfl
  · rw [r.entry e]
    congr 1
    funext x
    exact Entry.reported_congr (any fun y => (s.window y.window).pending = some e).symm

/-- The slots of a set and one more. -/
def withSlot (picked : Fin 64 → Bool) (i : Fin 64) (j : Fin 64) : Bool := picked j || decide (j = i)

theorem Removed.removeSlot {picked : Fin 64 → Bool} (r : Removed s t a d picked) (i : Fin 64) :
    Removed s (t.removeSlot none a d i) a d (withSlot picked i) := by
  have hti := r.held i
  cases hh : t.held a i with
  | none =>
    rw [State.removeSlot_empty hh]
    refine r.congr fun j y hy => ?_
    rw [hh] at hti
    unfold withSlot
    by_cases hj : j = i
    · subst hj
      have : picked j = true := by
        by_contra hp
        rw [if_neg hp, hy] at hti
        cases hti
      rw [this, Bool.true_or]
    · rw [decide_eq_false hj, Bool.or_false]
  | some h =>
    have hp : ¬picked i = true := fun hp => by
      rw [hh, if_pos hp] at hti
      cases hti
    rw [if_neg hp, hh] at hti
    have slots : (t.table a).slots.set i none =
        Vector.ofFn fun j => if withSlot picked i j = true then Option.none else s.held a j := by
      ext1 j hj
      have hj' := r.held ⟨j, hj⟩
      rw [State.held, Fin.getElem_fin] at hj'
      rw [Vector.getElem_set, Vector.getElem_ofFn, hj']
      by_cases hij : i.val = j
      · rw [if_pos hij, if_pos (by simp [withSlot, Fin.ext_iff, hij])]
      · rw [if_neg hij]
        have : withSlot picked i ⟨j, hj⟩ = picked ⟨j, hj⟩ := by
          simp [withSlot, Fin.ext_iff, Ne.symm hij]
        rw [this]
    have any (p : Holding → Prop) : (∃ j, withSlot picked i j = true ∧ ∃ y ∈ s.held a j, p y) ↔
        (∃ j, picked j = true ∧ ∃ y ∈ s.held a j, p y) ∨ p h := by
      constructor
      · rintro ⟨j, hj, y, hy, py⟩
        obtain hj | rfl : picked j = true ∨ j = i := by simpa [withSlot] using hj
        · exact .inl ⟨j, hj, y, hy, py⟩
        · cases hti.trans hy
          exact .inr py
      · rintro (⟨j, hj, y, hy, py⟩ | py)
        · exact ⟨j, by simp [withSlot, hj], y, hy, py⟩
        · exact ⟨i, by simp [withSlot], h, hti.symm, py⟩
    rw [State.removeSlot_held hh]
    refine ⟨?_, fun w => ?_, fun e => ?_⟩
    · rw [State.report_rest, slots]
      have rest := r.rest
      generalize t.windows = W at rest
      generalize t.entries = E at rest
      subst rest
      simp only [State.setTable, State.setWindow, State.table, Vector.set_set]
      simp
    · rw [State.report_rest]
      refine (State.window_setWindow (s := t.setTable a _) h.window w _).trans ?_
      rw [if_congr (any fun y => y.window = w) rfl rfl, State.setTable_window, r.window w]
      by_cases hw : w = h.window
      · subst hw
        rw [if_pos rfl, if_pos (.inr rfl)]
        rw [r.window h.window]
        split
        · exact congrArg (fun v => { s.window h.window with holders := v }) (Vector.set_set ..)
        · rfl
      · rw [if_neg hw, if_congr (or_iff_left (Ne.symm hw)) rfl rfl]
    · have hp := r.pending h.window
      rw [State.report_entry]
      simp only [State.setWindow_entry, State.setTable_entry, State.window_setWindow_self]
      rw [r.entry e, Option.map_map, hp]
      congr 1
      funext x
      refine (Entry.reported_reported ..).trans (Entry.reported_congr ?_)
      exact (any fun y => (s.window y.window).pending = some e).symm

/-- What the removal of every holding that a test picks leaves. -/
theorem State.removeWhere_removed (s : State) (a : AgentId) (d : Bool) (pick : Holding → Bool) :
    Removed s (s.removeWhere a d pick) a d fun i => (s.held a i).any pick := by
  have fold (l : List (Fin 64)) : ∀ (t : State) (picked : Fin 64 → Bool), Removed s t a d picked →
      (∀ i, picked i = true → (s.held a i).any pick = true) →
      Removed s (l.foldl (removePicked a d pick) t) a d
        fun i => picked i || decide (i ∈ l) && (s.held a i).any pick := by
    induction l with
    | nil => exact fun t picked r _ => by simpa using r
    | cons i l ih =>
      intro t picked r hp
      rw [List.foldl_cons]
      by_cases hi : (t.held a i).any pick = true
      · have hs : (s.held a i).any pick = true := by
          rw [r.held i] at hi
          split at hi
          · cases hi
          · exact hi
        rw [removePicked, if_pos hi]
        refine (ih _ _ (r.removeSlot i) fun j hj => ?_).congr fun j y hy => ?_
        · obtain hj | rfl : picked j = true ∨ j = i := by simpa [withSlot] using hj
          · exact hp j hj
          · exact hs
        · by_cases hj : j = i
          · subst hj
            rw [hs]
            simp [withSlot]
          · simp [withSlot, hj]
      · rw [removePicked, if_neg hi]
        refine (ih t picked r hp).congr fun j y hy => ?_
        by_cases hj : j = i
        · subst hj
          by_cases hpj : picked j = true
          · simp [hpj]
          · rw [r.held j, if_neg hpj, Bool.not_eq_true] at hi
            rw [hi, Bool.and_false, Bool.and_false]
        · simp [hj]
  rw [State.removeWhere_eq]
  simpa using fold (List.finRange 64) s (fun _ => false) (.refl s a d) (by simp)

/-- The removal of one holding, the only one a test picks. -/
theorem State.removeWhere_one {i : Fin 64} {pick : Holding → Bool} (hi : (s.held a i).any pick = true)
    (h : ∀ j, j ≠ i → (s.held a j).any pick = false) (d : Bool) :
    s.removeWhere a d pick = s.removeSlot none a d i := by
  obtain ⟨l, r, hl⟩ := List.append_of_mem (List.mem_finRange i)
  have nodup : (l ++ i :: r).Nodup := hl ▸ List.nodup_finRange 64
  have skip {t : State} {l : List (Fin 64)} (hl : ∀ j ∈ l, (t.held a j).any pick = false) :
      l.foldl (removePicked a d pick) t = t := by
    induction l with
    | nil => rfl
    | cons j l ih =>
      rw [List.foldl_cons, removePicked, hl j (List.mem_cons_self ..), if_neg (by decide)]
      exact ih fun j hj => hl j (List.mem_cons_of_mem _ hj)
  have ne {j : Fin 64} (hj : j ∈ l ∨ j ∈ r) : j ≠ i := by
    rintro rfl
    obtain ⟨-, hr, hd⟩ := List.nodup_append.1 nodup
    rcases hj with hj | hj
    · exact hd j hj j (List.mem_cons_self ..) rfl
    · exact (List.nodup_cons.1 hr).1 hj
  rw [State.removeWhere_eq, hl, List.foldl_append, skip fun j hj => h j (ne (.inl hj)), List.foldl_cons,
    removePicked, if_pos hi]
  refine skip fun j hj => ?_
  have hji := ne (.inr hj)
  rw [State.held, State.removeSlot_table, if_pos rfl, vector_get_set, if_neg hji]
  exact h j hji

/-! ## The entries that removals empty -/

/-- Nothing ends its waiting when each entry that awaited somebody awaits somebody still. -/
theorem endWaits_of_awaits (h : ∀ e, s.awaits e = true → t.awaits e = true) (k : EndWait) : endWaits k s t = t := by
  have : emptied s t = [] := List.filter_eq_nil_iff.2 fun e _ hc => by
    rw [Bool.and_eq_true] at hc
    rw [h e hc.1] at hc
    exact absurd hc.2 (by decide)
  rw [endWaits, this]
  rfl

theorem State.awaits_of_entry_eq {e : Fin 16} (h : t.entry e = s.entry e) : t.awaits e = s.awaits e := by
  unfold State.awaits
  rw [h]

theorem endWaits_of_entries (h : t.entries = s.entries) (k : EndWait) : endWaits k s t = t :=
  endWaits_of_awaits (fun e he => (State.awaits_of_entry_eq (by unfold State.entry; rw [h])).trans he) k

theorem State.awaits_iff {e : Fin 16} : s.awaits e = true ↔ ∃ x ∈ s.entry e, ∃ a : AgentId, x.awaited[a] = true := by
  unfold State.awaits
  cases s.entry e with
  | none => simp
  | some x =>
    have := FinSet.empty_iff x.awaited
    cases hx : x.awaited.empty <;> simp_all

/-- Nothing ends its waiting when each entry that awaits the departing agent awaits another one too. -/
theorem Removed.awaits {picked : Fin 64 → Bool} (r : Removed s t a d picked) (h : s.outwaited a) (e : Fin 16)
    (he : s.awaits e = true) : t.awaits e = true := by
  obtain ⟨x, hx, b, hb⟩ := State.awaits_iff.1 he
  refine State.awaits_iff.2 ⟨s.entryWithout a d picked e x, by rw [r.entry e, Option.mem_def.1 hx]; rfl, ?_⟩
  unfold State.entryWithout Entry.reported
  split
  · rename_i hc
    obtain ⟨c, hca, hc⟩ := h e x hx hc.1
    exact ⟨c, by rw [Entry.released, vector_get_set, if_neg hca]; exact hc⟩
  · exact ⟨b, hb⟩

/-- What the removals leave of the entries (R70). -/
theorem Removed.releasesOnly {picked : Fin 64 → Bool} {removed : Holding → Prop} (r : Removed s t a d picked)
    (hp : ∀ i, ∀ h ∈ s.held a i, picked i = true ↔ removed h) : s.ReleasesOnly t a d removed := by
  have any (e : Fin 16) : (∃ i, picked i = true ∧ ∃ h ∈ s.held a i, (s.window h.window).pending = some e) ↔
      ∃ i, ∃ h ∈ s.held a i, removed h ∧ (s.window h.window).pending = some e :=
    exists_congr fun i => ⟨fun ⟨hi, h, hh, he⟩ => ⟨h, hh, (hp i h hh).1 hi, he⟩,
      fun ⟨h, hh, hr, he⟩ => ⟨(hp i h hh).2 hr, h, hh, he⟩⟩
  intro e x hx
  rw [r.entry e, Option.mem_def.1 hx, Option.map_some, State.entryWithout]
  refine ⟨fun ⟨ha, hs, hc⟩ => by rw [Entry.reported_pos ha hs ((any e).2 hc)], fun hc => congrArg some (Entry.reported_neg ?_)⟩
  rintro ⟨ha, hst, hany⟩
  obtain ⟨i, h, hh, hr, he⟩ := (any e).1 hany
  rcases hc with hc | hc | hc
  · rw [ha] at hc
    cases hc
  · exact hst hc
  · exact hc i h hh hr he

/-- While no change awaits the agent its removals write no entry. -/
theorem Removed.entries_eq {picked : Fin 64 → Bool} (r : Removed s t a d picked) (h : s.unawaited a) :
    t.entries = s.entries := by
  ext1 e he
  have := r.entry ⟨e, he⟩
  have id : (s.entry ⟨e, he⟩).map (s.entryWithout a d picked ⟨e, he⟩) = s.entry ⟨e, he⟩ := by
    cases hx : s.entry ⟨e, he⟩ with
    | none => rfl
    | some x => rw [Option.map_some, State.entryWithout,
        Entry.reported_neg fun hc => by simp [h _ x hx] at hc]
  exact this.trans id

theorem Removed.table {picked : Fin 64 → Bool} (r : Removed s t a d picked) :
    t.table a = { s.table a with slots := Vector.ofFn fun i => if picked i = true then none else s.held a i } := by
  rw [r.rest]
  exact State.table_setTable_self ..

theorem Removed.rest_unawaited {picked : Fin 64 → Bool} (r : Removed s t a d picked) (h : s.unawaited a) :
    t =
      { s.setTable a
          { s.table a with slots := Vector.ofFn fun i => if picked i = true then none else s.held a i } with
        windows := t.windows } := by
  have rest := r.rest
  rw [r.entries_eq h] at rest
  exact rest

end Sys2Proof.Machine
end

section
/-!
PROOFS of O16 to O25: the requests of an ADMITTED agent. One equation for each request says which removal it makes and
what is sent; the statements read it for an agent that no change awaits, and for one that a change awaits.
-/

namespace Sys2Proof.Machine

variable {s t u : State} {a : AgentId}

/-! ## What a request of an ADMITTED agent finds -/

theorem State.hears_isAdmitted (h : s.hears a) : s.isAdmitted a = true := by simpa [State.isAdmitted] using h.2

@[simp] theorem State.setTable_setTable (a : AgentId) (x y : SlotTable) :
    (s.setTable a x).setTable a y = s.setTable a y := by
  simp [State.setTable]

@[simp] theorem State.setTable_table (a : AgentId) : s.setTable a (s.table a) = s := by
  unfold State.setTable State.table
  rw [vector_set_get]

/-- A message to the agent whose request is taken, with nothing else sent yet. -/
theorem State.sendAgent_onAgent (h : s.isUp (.agent a) = true) (ho : s.out = .onAgent a []) (m : AgentMsg) :
    s.sendAgent a m = s.setOut (.onAgent a [m]) := by
  have : s = s.setOut (.onAgent a []) := by rw [← ho]; rfl
  rw [this]
  exact State.setOut_sendAgent h [] m

theorem State.lookupTagInUse_ofNat (a : AgentId) (t : Fin 4) :
    s.lookupTagInUse a (BitVec.ofNat 8 t) = (s.port a).tags[t] := by
  simp only [State.lookupTagInUse, fieldBelow_ofNat t (m := 8) (by decide)]

theorem lookupRights_code {r : Rights} (h : r ≠ .none) : lookupRights r.code = some r := by
  cases r
  · exact absurd rfl h
  · rfl
  · rfl

/-! ## LOOKUP -/

theorem exec_lookup (h : s.hears a) (tag : BitVec 8) (w : BitVec 16) (c : BitVec 2) :
    exec (.lookup a tag w c) s = .next (lookupChecks a tag w c (s.setOut (.onAgent a []))) := exec_agent rfl h.1

/-- A LOOKUP that passes checks 1 to 3 of R42. -/
theorem exec_lookup_taken (h : s.hears a) {t : Fin 4} {w : BitVec 16} {r : Rights} (hw : w.toNat < 4096)
    (hr : r ≠ .none) (ht : (s.port a).tags[t] = false) :
    exec (.lookup a (BitVec.ofNat 8 t) w r.code) s = .next (takeLookup a t w.toNat r (s.setOut (.onAgent a []))) := by
  have fields : lookupFields (BitVec.ofNat 8 t) w r.code = some (t, w.toNat, r) := by
    simp only [lookupFields, fieldBelow_ofNat t (m := 8) (by decide), windowNumber_eq_some.2 ⟨rfl, hw⟩,
      lookupRights_code hr]
  rw [exec_lookup h, lookupChecks]
  simp only [State.setOut_isAdmitted, State.hears_isAdmitted h, State.lookupTagInUse_ofNat, State.setOut_port, ht, fields]
  rfl

/-- Check 4 of R42 fails for no window that is not IN_RECALL. -/
theorem takeLookup_of_answered {w : Nat} (h : (s.window w).live = none ∨ s.condition w ≠ .inRecall) (t : Fin 4)
    (r : Rights) : takeLookup a t w r s = answerLookup cascade none a t w r s := by
  rw [takeLookup, if_neg]
  rintro ⟨hc, hl⟩
  rcases h with h | h
  · exact hl h
  · exact h hc

theorem State.refuseLookup_eq (h : s.isUp (.agent a) = true) (tag : BitVec 8) (w : BitVec 16) (r : Reason) :
    (s.setOut (.onAgent a [])).refuseLookup a tag w r = { s with out := .onAgent a [.refuse 0x01 tag r w] } :=
  State.setOut_sendAgent h [] _

/-- A LOOKUP that passes the checks of R42 is granted. -/
theorem exec_lookup_granted (h : s.hears a) {t : Fin 4} {w : BitVec 16} {r : Rights} {l : LiveFields}
    (hw : w.toNat < 4096) (hr : r ≠ .none) (ht : (s.port a).tags[t] = false) (hg : s.grants a w.toNat r l) :
    exec (.lookup a (BitVec.ofNat 8 t) w r.code) s =
      .next (grant cascade none a t w.toNat r l (s.setOut (.onAgent a []))) := by
  obtain ⟨hl, hc, hal, hex⟩ := hg
  rw [exec_lookup_taken h hw hr ht, takeLookup_of_answered (.inr (by simpa using hc)), answerLookup]
  simp only [State.setOut_window, hl, State.setOut_port, hal, hex]
  rfl

/-- Settles O16. -/
theorem lookupsPark : Obligations.LookupsPark := by
  unfold Obligations.LookupsPark
  intro a t w r s h hw hr ht hl hc
  rw [exec_lookup_taken h hw hr ht, takeLookup, if_pos ⟨by simpa using hc, by simpa using hl⟩]
  refine ⟨fun hn => ?_, fun hn => ?_⟩
  · rw [if_pos (by exact hn)]
    rfl
  · rw [if_neg (by exact Nat.not_lt.2 hn)]
    simpa using State.refuseLookup_eq h.1.1 _ _ _

theorem ofNat_of_lt {n : Nat} {tag : BitVec 8} (h : tag.toNat < n) : tag = BitVec.ofNat 8 (⟨tag.toNat, h⟩ : Fin n) := by
  simp

/-- Settles O17: each check that fails answers, and the later ones are not made. -/
theorem lookupRefusals : Obligations.LookupRefusals := by
  unfold Obligations.LookupRefusals
  intro a tag w c s h
  have hup : s.isUp (.agent a) = true := h.1.1
  refine ⟨fun t ht htag => ?_, fun htags => ⟨fun hbad => ?_, fun htag hw hc => ?_⟩⟩
  · subst ht
    rw [exec_lookup h, lookupChecks]
    simp only [State.setOut_isAdmitted, State.hears_isAdmitted h, State.lookupTagInUse_ofNat, State.setOut_port, htag]
    exact congrArg Host.Outcome.next (State.refuseLookup_eq hup ..)
  · have unused : s.lookupTagInUse a tag = false := by
      unfold State.lookupTagInUse
      split
      · rename_i t ht
        rw [fieldBelow_eq_some] at ht
        exact htags t (by simp [← ht])
      · rfl
    have fields : lookupFields tag w c = none := by
      unfold lookupFields
      split
      · rename_i t v r ht hv hr
        rw [fieldBelow_eq_some] at ht
        rw [windowNumber_eq_some] at hv
        rcases hbad with hb | hb | rfl | rfl
        · omega
        · omega
        · cases hr
        · cases hr
      · rfl
    rw [exec_lookup h, lookupChecks]
    simp only [State.setOut_isAdmitted, State.hears_isAdmitted h, fields]
    have : (s.setOut (.onAgent a [])).lookupTagInUse a tag = false := unused
    simp only [this]
    exact congrArg Host.Outcome.next (State.refuseLookup_eq hup ..)
  · obtain ⟨r, hr, rfl⟩ : ∃ r : Rights, r ≠ .none ∧ c = r.code := by
      rcases hc with rfl | rfl
      · exact ⟨.read, by decide, rfl⟩
      · exact ⟨.readWrite, by decide, rfl⟩
    have htag' := ofNat_of_lt htag
    generalize (⟨tag.toNat, htag⟩ : Fin 4) = t at htag'
    subst htag'
    rw [exec_lookup_taken h hw hr (htags t rfl)]
    refine ⟨fun hl => ?_, fun l hl hcond hden => ?_⟩
    · rw [takeLookup_of_answered (.inl (by simpa using hl)), answerLookup]
      simp only [State.setOut_window, hl]
      simpa using State.refuseLookup_eq hup _ _ _
    · have denied : (!l.cls.allows a (s.port a).context || r.exceeds l.rights[a]) = true := by
        rcases hden with hd | ⟨hc, hd⟩ | hd
        · simp [hd]
        · have : r = .readWrite := by cases r <;> simp_all [Rights.code]
          subst this
          cases hx : l.rights[a] <;> simp_all [Rights.exceeds, Rights.rank]
        · cases r <;> simp_all [Rights.exceeds, Rights.rank]
      rw [takeLookup_of_answered (.inr (by simpa using hcond)), answerLookup]
      simp only [State.setOut_window, Option.mem_def.1 hl, State.setOut_port, denied]
      simpa using State.refuseLookup_eq hup _ _ _

/-! ### Grants -/

theorem State.sendGrant_eq (s : State) (a : AgentId) (tag : Fin 4) (i : Fin 64) (w : Nat) (l : LiveFields) (r : Rights)
    (evicted : Option Nat) :
    s.sendGrant a tag i w l r evicted =
      (s.setTable a { s.table a with regranted := (s.table a).regrantedBy w }).sendAgent a
        (.grant tag i w (s.window w).generation l.cls.name l.run r evicted) := by
  unfold State.sendGrant SlotTable.regrantedBy
  by_cases h : w ∈ (s.table a).recalled
  · simp only [List.contains_iff_mem.2 h, if_pos h, if_true]
  · have : (s.table a).recalled.contains w = false := by simpa using h
    simp only [this, if_neg h]
    rw [State.setTable_table]
    rfl

/-- A grant of a window that the agent holds refreshes or upgrades the holding (R23, R24). -/
theorem grant_held {w : Nat} {i : Fin 64} {h : Holding} (hup : s.isUp (.agent a) = true) (hh : s.held a i = some h)
    (hw : h.window = w) (once : ∀ j, ∀ k ∈ s.held a j, k.window = w → j = i) (k : EndWait) (ab : Option (Fin 4))
    (t : Fin 4) (r : Rights) (l : LiveFields) :
    grant k ab a t w r l (s.setOut (.onAgent a [])) =
      { s.setTable a
          { s.table a with
            slots := (s.table a).slots.set i (some { h with rights := if r.exceeds h.rights then r else h.rights })
            pointer := if (s.table a).pointer = i then i + 1 else (s.table a).pointer
            regranted := (s.table a).regrantedBy w } with
        out := .onAgent a [.grant t i w (s.window w).generation l.cls.name l.run
          (if r.exceeds h.rights then r else h.rights) none] } := by
  have hh : (s.table a).slots[i] = some h := hh
  have past : (s.table a).pointerPast i = if (s.table a).pointer = i then i + 1 else (s.table a).pointer := by
    unfold SlotTable.pointerPast
    split
    · rename_i he
      rw [he]
    · rfl
  unfold grant
  simp only [State.setOut_table, SlotTable.naming_eq hh hw once, hh, past]
  rw [State.sendGrant_eq, State.sendAgent_onAgent (by exact hup) rfl, State.table_setTable_self, State.setTable_setTable]
  rfl

/-- Agent a granted window w in slot i, the slot being EMPTY (R25, R26). -/
def State.installed (s : State) (a : AgentId) (tag : Fin 4) (i : Fin 64) (w : Nat) (l : LiveFields) (r : Rights)
    (evicted : Option Nat) : State :=
  { (s.setTable a
      { s.table a with
        slots := (s.table a).slots.set i (some { window := w, rights := r, cls := l.cls.name })
        pointer := i + 1
        regranted := (s.table a).regrantedBy w }).setWindow w
      { s.window w with holders := (s.window w).holders.set a true } with
    out := .onAgent a [.grant tag i w (s.window w).generation l.cls.name l.run r evicted] }

theorem endWaits_setOut (k : EndWait) (o : Outputs) : endWaits k (s.setOut o) t = endWaits k s t := rfl

/-- A grant of a window that the agent does not hold: the holding that stands in the chosen slot is removed, the new one
installed, and the entries that the removal empties end their waiting (R25 to R27). -/
theorem grant_new {w : Nat} {i : Fin 64} {ab : Option (Fin 4)} (hup : s.isUp (.agent a) = true)
    (hno : ∀ j, ∀ h ∈ s.held a j, h.window ≠ w) (hc : (s.table a).choose = i) (k : EndWait)
    (t : Fin 4) (r : Rights) (l : LiveFields) :
    grant k ab a t w r l (s.setOut (.onAgent a [])) =
      endWaits k s ((s.removeSlot ab a false i).installed a t i w l r ((s.held a i).map Holding.window)) := by
  have hup' : (s.removeSlot ab a false i).isUp (.agent a) = true :=
    (State.isUp_eq (State.removeSlot_steady ..).links _).trans hup
  unfold grant
  simp only [State.setOut_table, SlotTable.naming_none.2 hno, hc, State.removeSlot_setOut]
  rw [State.sendGrant_eq, State.sendAgent_onAgent (by exact hup') rfl, endWaits_setOut]
  generalize s.removeSlot ab a false i = v
  have window (o : Outputs) (x : SlotTable) : ((v.setOut o).setTable a x).window w = v.window w := rfl
  have after (o : Outputs) (x : SlotTable) (z : Window) :
      (((v.setOut o).setTable a x).setWindow w z).window w = z := State.window_setWindow_self ..
  have tables (o : Outputs) (x y : SlotTable) (z : Window) :
      (((v.setOut o).setTable a x).setWindow w z).setTable a y = ((v.setOut o).setTable a y).setWindow w z :=
    State.setTable_setTable (s := (v.setOut o).setWindow w z) a x y
  simp only [window, after, tables, State.setWindow_table, State.table_setTable_self]
  rfl

/-- The installation in a slot just emptied. -/
theorem State.installed_emptied {v : State} {i : Fin 64} {w : Nat}
    (ht : v.table a = { s.table a with slots := (s.table a).slots.set i none }) (hw : v.window w = s.window w)
    (tag : Fin 4) (l : LiveFields) (r : Rights) (evicted : Option Nat) :
    v.installed a tag i w l r evicted =
      { (v.setTable a
          { s.table a with
            slots := (s.table a).slots.set i (some { window := w, rights := r, cls := l.cls.name })
            pointer := i + 1
            regranted := (s.table a).regrantedBy w }).setWindow w
          { s.window w with holders := (s.window w).holders.set a true } with
        out := .onAgent a [.grant tag i w (s.window w).generation l.cls.name l.run r evicted] } := by
  unfold State.installed
  rw [ht, hw, Vector.set_set]
  rfl

/-- A LOOKUP granted into a slot that the agent's table chooses. -/
theorem exec_lookup_new (h : s.hears a) {t : Fin 4} {w : BitVec 16} {r : Rights} {l : LiveFields} {i : Fin 64}
    (hw : w.toNat < 4096) (hr : r ≠ .none) (ht : (s.port a).tags[t] = false) (hg : s.grants a w.toNat r l)
    (hno : ∀ j, ∀ h ∈ s.held a j, h.window ≠ w.toNat) (hc : (s.table a).choose = i) :
    exec (.lookup a (BitVec.ofNat 8 t) w r.code) s =
      .next (endWaits cascade s
        ((s.removeSlot none a false i).installed a t i w.toNat l r ((s.held a i).map Holding.window))) := by
  rw [exec_lookup_granted h hw hr ht hg, grant_new h.1.1 hno hc]

/-- Settles O18. -/
theorem lookupsInstall : Obligations.LookupsInstall := by
  unfold Obligations.LookupsInstall
  intro a t w r l k i s h hw hr ht hg hno hi hempty hbefore
  subst hi
  have hc : (s.table a).choose = (s.table a).pointer + k := SlotTable.choose_eq hempty hbefore
  rw [exec_lookup_new h hw hr ht hg hno hc, State.removeSlot_empty hempty, hempty, endWaits_of_entries (by rfl)]
  rfl

/-- Settles O19: READ and READWRITE are the rights held, and READWRITE exceeds READ only. -/
theorem lookupsRefresh : Obligations.LookupsRefresh := by
  unfold Obligations.LookupsRefresh
  intro a t w r l i h s hs hw hr ht hg hi hhw once hhr
  have rights : (if r.exceeds h.rights then r else h.rights) = if r = .readWrite then .readWrite else h.rights := by
    cases r <;> cases hh : h.rights <;> simp_all [Rights.exceeds, Rights.rank]
  rw [exec_lookup_granted hs hw hr ht hg, grant_held hs.1.1 hi hhw once, rights]

/-- Settles O20. -/
theorem lookupsEvict : Obligations.LookupsEvict := by
  unfold Obligations.LookupsEvict
  intro a t w r l h s hs hw hr ht hg hfull hno hp hu
  rw [exec_lookup_new hs hw hr ht hg hno (SlotTable.choose_full hfull), State.removeSlot_unawaited hp hu, hp,
    endWaits_of_entries (by rfl)]
  set v := (s.setTable a { s.table a with slots := (s.table a).slots.set (s.table a).pointer none }).setWindow h.window
    { s.window h.window with holders := (s.window h.window).holders.set a false } with hv
  have table : v.table a = { s.table a with slots := (s.table a).slots.set (s.table a).pointer none } :=
    State.table_setTable_self (s := s.setWindow h.window _) a _
  have window : v.window w.toNat = s.window w.toNat := by
    have : w.toNat ≠ h.window := Ne.symm (hno _ h hp)
    exact (State.window_setWindow ..).trans (if_neg this)
  have tables (y : SlotTable) : v.setTable a y = (s.setTable a y).setWindow h.window _ :=
    State.setTable_setTable (s := s.setWindow h.window _) a _ y
  rw [State.installed_emptied table window, tables]
  rfl

/-! ## RETURN, RELEASED, FLUSH, SWITCH -/

/-- A message to the agent after the removals of its own request. -/
theorem Steady.sendAgent_onAgent (h : Steady s t) (hup : s.isUp (.agent a) = true) (m : AgentMsg) :
    (t.setOut (.onAgent a [])).sendAgent a m = t.setOut (.onAgent a [m]) :=
  State.setOut_sendAgent ((State.isUp_eq h.links _).trans hup) [] m

theorem exec_return (h : s.hears a) (tag : BitVec 8) (i : Fin 64) :
    exec (.returnSlot a tag (BitVec.ofNat 9 i)) s =
      .next (endWaits cascade s
        ((s.removeSlot none a false i).setOut (.onAgent a [.returned i (s.held a i).isSome]))) := by
  rw [exec_agent rfl h.1]
  simp only [act, actReturn, State.setOut_isAdmitted, State.hears_isAdmitted h, fieldBelow_ofNat i (m := 9) (by norm_num),
    takeReturn, State.removeSlot_setOut, State.setOut_table]
  rw [Steady.sendAgent_onAgent (State.removeSlot_steady ..) h.1.1]
  rfl

theorem exec_flush (h : s.hears a) (tag : BitVec 8) :
    exec (.flush a tag) s =
      .next (endWaits cascade s
        (((s.removeWhere a false fun _ => true).setPointer a 0).setOut (.onAgent a [.flushed]))) := by
  rw [exec_agent rfl h.1]
  simp only [act, actFlush, State.setOut_isAdmitted, State.hears_isAdmitted h, takeFlush, State.removeWhere_setOut]
  have steady := s.removeWhere_steady a false fun _ => true
  generalize s.removeWhere a false (fun _ => true) = t at steady ⊢
  have steady : Steady s (t.setPointer a 0) := steady.trans (State.setTable_steady ..)
  exact congrArg (fun u => Host.Outcome.next (endWaits cascade s u)) (steady.sendAgent_onAgent h.1.1 _)

/-- The number of BOUND holdings of an agent (R34). -/
theorem SlotTable.count_isBound (s : State) (a : AgentId) :
    (s.table a).count Holding.isBound =
      (List.finRange 64).countP fun i => (s.held a i).any fun h => h.cls == .bound := by
  unfold SlotTable.count
  congr 1
  funext i
  unfold State.held
  split <;> rename_i h <;> simp [h, Holding.isBound]

theorem exec_switch (h : s.hears a) (tag : BitVec 8) (c : Fin 16) :
    exec (.switch a tag (BitVec.ofNat 9 c)) s =
      .next (endWaits cascade s
        (((s.removeWhere a false Holding.isBound).setPort a { s.port a with context := c }).setOut
          (.onAgent a
            [.switched c ((List.finRange 64).countP fun i => (s.held a i).any fun h => h.cls == .bound)]))) := by
  rw [exec_agent rfl h.1]
  have port := (s.removeWhere_removed a false Holding.isBound).port a
  have steady := s.removeWhere_steady a false Holding.isBound
  simp only [act, actSwitch, State.setOut_isAdmitted, State.hears_isAdmitted h, fieldBelow_ofNat c (m := 9) (by norm_num),
    takeSwitch, State.removeWhere_setOut, State.setOut_table, SlotTable.count_isBound, State.setOut_port]
  generalize s.removeWhere a false Holding.isBound = t at port steady ⊢
  rw [port]
  have up : (t.setPort a { s.port a with context := c }).isUp (.agent a) = true :=
    (State.isUp_eq steady.links _).trans h.1.1
  exact congrArg (fun u => Host.Outcome.next (endWaits cascade s u)) (State.setOut_sendAgent up [] _)

/-- A counted RELEASED (R68). -/
theorem exec_released_counted (hs : s.hears a) {w g : BitVec 16} {i : Fin 64} {h : Holding} (hh : s.held a i = some h)
    (hw : h.window = w.toNat) (once : ∀ j, ∀ k ∈ s.held a j, k.window = w.toNat → j = i) (hlt : w.toNat < 4096)
    (hg : g = (s.window w.toNat).generation) (hr : w.toNat ∉ (s.table a).regranted) :
    exec (.released a w g) s =
      .next (endWaits cascade s (((s.forgetRecall a w.toNat).removeSlot none a false i).setOut (.onAgent a []))) := by
  have counted : (s.setOut (.onAgent a [])).countedSlot a w g = some i := by
    unfold State.countedSlot
    simp only [windowNumber_eq_some.2 ⟨rfl, hlt⟩]
    exact (if_pos ⟨hg, by simpa using hr⟩).trans (SlotTable.naming_eq hh hw once)
  rw [exec_agent rfl hs.1]
  simp only [act, actReleased, State.setOut_isAdmitted, State.hears_isAdmitted hs, takeReleased, counted]
  exact congrArg (fun u => Host.Outcome.next (endWaits cascade s u))
    (State.removeSlot_setOut (s := s.forgetRecall a w.toNat) (.onAgent a []) none a false i)

/-- A stale RELEASED (R68). -/
theorem exec_released_stale (hs : s.hears a) {w g : BitVec 16}
    (h : (∀ i, ∀ h ∈ s.held a i, h.window ≠ w.toNat) ∨ 4096 ≤ w.toNat ∨ g ≠ (s.window w.toNat).generation ∨
      w.toNat ∈ (s.table a).regranted) :
    exec (.released a w g) s = .next ((s.forgetRecall a w.toNat).setOut (.onAgent a [])) := by
  have stale : (s.setOut (.onAgent a [])).countedSlot a w g = none := by
    unfold State.countedSlot
    split
    · rfl
    · rename_i v hv
      obtain ⟨rfl, hlt⟩ := windowNumber_eq_some.1 hv
      split
      · rename_i hc
        simp only [State.setOut_window, State.setOut_table] at hc ⊢
        rcases h with h | h | h | h
        · exact SlotTable.naming_none.2 h
        · omega
        · exact absurd hc.1 h
        · simp [h] at hc
      · rfl
  rw [exec_agent rfl hs.1]
  simp only [act, actReleased, State.setOut_isAdmitted, State.hears_isAdmitted hs, takeReleased, stale]
  rfl

/-- Settles O21. -/
theorem returnEmptiesASlot : Obligations.ReturnEmptiesASlot := by
  unfold Obligations.ReturnEmptiesASlot
  intro a tag s hs
  refine ⟨fun i h hh hu => ?_, fun i hi => ?_, fun n hn => ?_⟩
  · rw [exec_return hs, State.removeSlot_unawaited hh hu, Option.mem_def.1 hh, endWaits_of_entries (by rfl)]
    rfl
  · rw [exec_return hs, State.removeSlot_empty hi, hi, endWaits_of_entries (by rfl)]
    rfl
  · rw [exec_agent rfl hs.1]
    simp only [act, actReturn, State.setOut_isAdmitted, State.hears_isAdmitted hs, fieldBelow_eq_none.2 hn]
    exact congrArg Host.Outcome.next (State.setOut_sendAgent hs.1.1 [] _)

/-- Settles O22. -/
theorem flushEmptiesTheTable : Obligations.FlushEmptiesTheTable := by
  unfold Obligations.FlushEmptiesTheTable
  intro a tag s hs hu
  have r := s.removeWhere_removed a false fun _ => true
  rw [exec_flush hs]
  refine ⟨_, rfl, ?_⟩
  generalize s.removeWhere a false (fun _ => true) = t at r ⊢
  rw [endWaits_of_entries (by exact r.entries_eq hu)]
  refine ⟨?_, fun w => ?_⟩
  · have empty : (Vector.ofFn fun i => if (s.held a i).any (fun _ => true) = true then none else s.held a i) =
        Vector.replicate 64 none := by
      ext1 i hi
      rw [Vector.getElem_ofFn, Vector.getElem_replicate]
      cases s.held a ⟨i, hi⟩ <;> rfl
    have table := r.table
    rw [empty] at table
    rw [State.setPointer, table, r.rest_unawaited hu]
    generalize t.windows = W
    exact congrArg (fun u : State => { u with windows := W, out := .onAgent a [.flushed] })
      (State.setTable_setTable (s := s) a _ { s.table a with slots := Vector.replicate 64 none, pointer := 0 })
  · refine (r.window w).trans (if_congr (exists_congr fun i => ?_) rfl rfl)
    cases s.held a i <;> simp

/-- Settles O23. -/
theorem switchDropsBound : Obligations.SwitchDropsBound := by
  unfold Obligations.SwitchDropsBound
  intro a tag s hs
  refine ⟨fun c hu => ?_, fun n hn => ?_⟩
  · have r := s.removeWhere_removed a false Holding.isBound
    rw [exec_switch hs]
    refine ⟨_, rfl, ?_⟩
    generalize s.removeWhere a false Holding.isBound = t at r ⊢
    rw [endWaits_of_entries (by exact r.entries_eq hu)]
    refine ⟨?_, fun w => ?_⟩
    · have shared : (Vector.ofFn fun i => if (s.held a i).any Holding.isBound = true then none else s.held a i) =
          Vector.ofFn fun i => (s.held a i).filter fun h => h.cls == .shared := by
        congr 1
        funext i
        cases s.held a i with
        | none => rfl
        | some h => cases hc : h.cls <;> simp [Holding.isBound, Option.filter, hc]
      have rest := r.rest_unawaited hu
      rw [shared] at rest
      rw [rest]
      rfl
    · refine (r.window w).trans (if_congr (exists_congr fun i => ?_) rfl rfl)
      cases s.held a i with
      | none => simp
      | some h => simp [Holding.isBound, and_comm]
  · rw [exec_agent rfl hs.1]
    simp only [act, actSwitch, State.setOut_isAdmitted, State.hears_isAdmitted hs, fieldBelow_eq_none.2 hn]
    exact congrArg Host.Outcome.next (State.setOut_sendAgent hs.1.1 [] _)

/-- Settles O24. -/
theorem releasedIsCountedOrStale : Obligations.ReleasedIsCountedOrStale := by
  unfold Obligations.ReleasedIsCountedOrStale
  intro a w g s hs
  refine ⟨fun i h hh hw once hlt hg hr hu => ?_, fun h => by rw [exec_released_stale hs h]; rfl⟩
  have held : (s.forgetRecall a w.toNat).held a i = some h := by
    unfold State.held State.forgetRecall
    rw [State.table_setTable_self]
    exact hh
  rw [exec_released_counted hs hh hw once hlt hg hr, State.removeSlot_unawaited held (by exact hu),
    endWaits_of_entries (by rfl), hw]
  unfold State.forgetRecall
  rw [State.table_setTable_self, State.setTable_setTable]
  rfl

/-! ## One removal of a holding that a change awaits -/

theorem State.without_table (s : State) (a : AgentId) (i : Fin 64) (h : Holding) (e : Fin 16) (x : Entry) :
    (s.without a i h e x).table a = { s.table a with slots := (s.table a).slots.set i none } :=
  State.table_setTable_self ..

theorem State.without_setTable (s : State) (a : AgentId) (i : Fin 64) (h : Holding) (e : Fin 16) (x : Entry)
    (y : SlotTable) :
    (s.without a i h e x).setTable a y =
      ((s.setTable a y).setWindow h.window
        { s.window h.window with holders := (s.window h.window).holders.set a false }).setEntry e
        (some (x.released a false)) :=
  State.setTable_setTable (s := (s.setWindow h.window _).setEntry e _) a _ y

theorem State.without_window {h : Holding} {w : Nat} (hw : w ≠ h.window) (s : State) (a : AgentId) (i : Fin 64)
    (e : Fin 16) (x : Entry) : (s.without a i h e x).window w = s.window w :=
  (State.window_setWindow ..).trans (if_neg hw)

theorem givesBack_entry {i : Fin 64} {h : Holding} {e : Fin 16} {x : Entry} {c : Instr}
    (hc : s.GivesBack a i h e x c u) (d : Fin 16) :
    u.entry d = if d = e then some (x.released a false) else s.entry d := by
  have entries : u.entries = (s.setEntry e (some (x.released a false))).entries := by
    obtain ⟨tag, rfl, rfl⟩ | ⟨w, g, rfl, hw, hlt, hg, hr, once, rfl⟩ | ⟨tag, rfl, hno, rfl⟩ |
      ⟨tag, n, rfl, hb, hno, rfl⟩ | ⟨t, w, r, l, rfl, hw, hr, htag, hgr, hfull, hno, hptr, rfl⟩ := hc <;> rfl
  rw [← State.entry_setEntry]
  unfold State.entry
  rw [entries]

/-- The command of each form of `GivesBack` leaves the state it names, and the entries emptied end their waiting. -/
theorem exec_givesBack {i : Fin 64} {h : Holding} {e : Fin 16} {x : Entry} {c : Instr} (hs : s.hears a)
    (hh : s.held a i = some h) (hp : (s.window h.window).pending = some e) (hx : s.entry e = some x)
    (hst : x.state ≠ .held) (ha : x.awaited[a] = true) (hc : s.GivesBack a i h e x c u) :
    exec c s = .next (endWaits cascade s u) := by
  have without := State.removeSlot_awaited hh hp hx hst ha
  have others (pick : Holding → Bool) (hi : pick h = true) (ho : ∀ j, j ≠ i → (s.held a j).any pick = false) :
      s.removeWhere a false pick = s.without a i h e x := by
    rw [State.removeWhere_one (by rw [hh]; exact hi) ho, without]
  obtain ⟨tag, rfl, rfl⟩ | ⟨w, g, rfl, hw, hlt, hg, hr, once, rfl⟩ | ⟨tag, rfl, hno, rfl⟩ |
    ⟨tag, n, rfl, hb, hno, rfl⟩ | ⟨t, w, r, l, rfl, hw, hr, htag, hgr, hfull, hno, hptr, rfl⟩ := hc
  · rw [exec_return hs, without, hh]
    rfl
  · have hlt' : w.toNat < 4096 := hw ▸ hlt
    have hheld : (s.forgetRecall a w.toNat).held a i = some h := by
      unfold State.held State.forgetRecall
      rw [State.table_setTable_self]
      exact hh
    rw [exec_released_counted hs hh hw.symm (hw ▸ once) hlt' (hw ▸ hg) (hw ▸ hr),
      State.removeSlot_awaited (s := s.forgetRecall a w.toNat) hheld hp hx hst ha, State.without_setTable,
      State.without_table, hw]
    unfold State.without State.forgetRecall
    rw [State.table_setTable_self, State.setTable_setTable]
    rfl
  · rw [exec_flush hs, others _ rfl fun j hj => by rw [hno j hj]; rfl]
    rfl
  · have bound {j : Fin 64} : (s.held a j).any (fun k => k.cls == .bound) = decide (j = i) := by
      by_cases hj : j = i
      · subst hj
        simp [hh, hb]
      · cases hk : s.held a j with
        | none => simp [hj]
        | some k => simp [hj, hno j hj k hk]
    have one : ((List.finRange 64).countP fun j => (s.held a j).any fun k => k.cls == .bound) = 1 := by
      simp only [bound]
      exact List.count_eq_one_of_mem (List.nodup_finRange 64) (List.mem_finRange i)
    rw [exec_switch hs, one, others Holding.isBound (by simp [Holding.isBound, hb]) fun j hj =>
      bound.trans (decide_eq_false hj)]
    rfl
  · have hw' : w.toNat ≠ h.window := Ne.symm (hno i h hh)
    rw [exec_lookup_new hs hw hr htag hgr hno (SlotTable.choose_full hfull), hptr, without, hh,
      State.installed_emptied (s.without_table ..) (s.without_window hw' ..), State.without_table]
    rfl

/-- Settles O25: another agent is awaited still, so nothing ends its waiting. -/
theorem aRemovalIsARelease : Obligations.ARemovalIsARelease := by
  unfold Obligations.ARemovalIsARelease
  refine ⟨fun a b i h e x c s u hs hh hp hx hst ha hb hxb hc => ?_, fun a tag n s hs ho => ⟨?_, ?_⟩⟩
  · rw [exec_givesBack hs hh hp hx hst ha hc, endWaits_of_awaits fun d hd => ?_]
    obtain ⟨y, hy, k, hk⟩ := State.awaits_iff.1 hd
    refine State.awaits_iff.2 ?_
    rw [givesBack_entry hc]
    split
    · exact ⟨_, rfl, b, by rw [Entry.released, vector_get_set, if_neg hb]; exact hxb⟩
    · exact ⟨y, hy, k, hk⟩
  · have r := s.removeWhere_removed a false fun _ => true
    rw [exec_flush hs]
    refine ⟨_, rfl, ?_⟩
    generalize s.removeWhere a false (fun _ => true) = t at r ⊢
    rw [endWaits_of_awaits (by exact r.awaits ho)]
    exact r.releasesOnly fun i h hh => by rw [Option.mem_def.1 hh]; simp
  · have r := s.removeWhere_removed a false Holding.isBound
    rw [exec_switch hs]
    refine ⟨_, rfl, ?_⟩
    generalize s.removeWhere a false Holding.isBound = t at r ⊢
    rw [endWaits_of_awaits (by exact r.awaits ho)]
    exact r.releasesOnly fun i h hh => by rw [Option.mem_def.1 hh]; simp [Holding.isBound]

end Sys2Proof.Machine
end

section
/-!
PROOFS: the sending of fills (R118, R119). Passing over ends at the first block that the job has still to fill, so the
sending of fills sends the next blocks in issue order; the first statement to read it is that of a link in training.
-/

namespace Sys2Proof.Machine

variable {s t : State} {i : Fin 16} {j : Job}

/-! ## Issue order -/

theorem Position.before_trans {p q r : Position} (h : p.before q) (k : q.before r) : p.before r := by
  obtain ⟨p2, pf, pb⟩ := p
  obtain ⟨q2, qf, qb⟩ := q
  obtain ⟨r2, rf, rb⟩ := r
  cases p2 <;> cases q2 <;> cases r2 <;> simp_all [Position.before] <;> omega

theorem Position.eq_of_not_before {p q : Position} (h : ¬p.before q) (k : ¬q.before p) : p = q := by
  obtain ⟨p2, pf, pb⟩ := p
  obtain ⟨q2, qf, qb⟩ := q
  cases p2 <;> cases q2 <;> simp_all [Position.before] <;> omega

theorem Position.before_irrefl (p : Position) : ¬p.before p := by simp [Position.before]

/-- The condition on which blocks come into question decides which is the first that the job has still to fill. -/
theorem State.firstWanted_unique {ok : Position → Prop} {x y : Option Position} (hx : s.firstWanted i j ok x)
    (hy : s.firstWanted i j ok y) : x = y := by
  cases x with
  | none =>
    cases y with
    | none => rfl
    | some q => exact absurd hy.2.1 (hx q hy.1)
  | some p =>
    cases y with
    | none => exact absurd hx.2.1 (hy p hx.1)
    | some q =>
      rw [Position.eq_of_not_before (hy.2.2 p hx.1 hx.2.1) (hx.2.2 q hy.1 hy.2.1)]

theorem State.firstWanted_congr {ok ok' : Position → Prop} (h : ∀ b, s.wants i j b → (ok b ↔ ok' b))
    {x : Option Position} (hx : s.firstWanted i j ok x) : s.firstWanted i j ok' x := by
  cases x with
  | none => exact fun b hb hok => hx b hb ((h b hb).2 hok)
  | some q => exact ⟨hx.1, (h q hx.1).1 hx.2.1, fun b hb hok => hx.2.2 b hb ((h b hb).2 hok)⟩

/-- The frames from a position's frame on, its own included. -/
def Job.framesFrom (j : Job) (p : Position) : Nat :=
  match p.second, j.second with
  | false, none => j.first.base + j.first.count - p.frame
  | false, some r => j.first.base + j.first.count - p.frame + r.count
  | true, some r => r.base + r.count - p.frame
  | true, none => 0

theorem Job.framesFrom_le_size {p : Position} (h : j.names p) : j.framesFrom p ≤ j.size := by
  obtain ⟨b, f, c⟩ := p
  unfold Job.framesFrom Job.size Job.runs
  unfold Job.names at h
  cases b <;> cases hs : j.second <;> simp_all <;> omega

/-- The position after a frame is the next frame's in the same run, or the first one's of the second run. -/
theorem Job.nextFrame_cases {p q : Position} (hp : j.names p) (hq : j.nextFrame p = some q) :
    q = { p with frame := p.frame + 1, block := 0 } ∨
      p.second = false ∧ p.frame + 1 = j.first.base + j.first.count ∧
        ∃ r ∈ j.second, q = { second := true, frame := r.base, block := 0 } := by
  obtain ⟨p2, pf, pb⟩ := p
  unfold Job.nextFrame at hq
  unfold Job.names at hp
  cases p2 <;> cases hs : j.second <;> simp only [hs] at hq hp <;> grind

theorem Job.framesFrom_nextFrame {p q : Position} (hp : j.names p) (hq : j.nextFrame p = some q) :
    j.framesFrom q < j.framesFrom p := by
  obtain ⟨p2, pf, pb⟩ := p
  unfold Job.framesFrom
  rcases j.nextFrame_cases hp hq with rfl | ⟨rfl, he, r, hr, rfl⟩
  · unfold Job.names at hp
    cases p2 <;> cases hs : j.second <;> simp_all
    all_goals omega
  · simp only [Option.mem_def.1 hr]
    simp only at he
    omega

/-- The blocks before the position after p's frame and after p are those of that frame. -/
theorem Job.before_nextFrame {p q b : Position} (hp : j.names p) (hq : j.nextFrame p = some q) (hb : j.names b)
    (hpb : p.before b) : b.before q ↔ b.second = p.second ∧ b.frame = p.frame := by
  obtain ⟨p2, pf, pb⟩ := p
  obtain ⟨b2, bf, bb⟩ := b
  unfold Position.before at hpb ⊢
  rcases j.nextFrame_cases hp hq with rfl | ⟨rfl, he, r, hr, rfl⟩
  · cases p2 <;> cases b2 <;> simp_all <;> omega
  · unfold Job.names at hb
    cases b2 <;> simp_all <;> omega

theorem Job.before_nextFrame_self {p q : Position} (hp : j.names p) (hq : j.nextFrame p = some q) : p.before q := by
  rcases j.nextFrame_cases hp hq with rfl | ⟨h2, he, r, hr, rfl⟩
  · exact .inr ⟨rfl, .inl (Nat.lt_succ_self _)⟩
  · exact .inl ⟨h2, rfl⟩

/-- After the last frame of the job comes no block. -/
theorem Job.nextFrame_none {p : Position} (hp : j.names p) (hq : j.nextFrame p = none) {b : Position}
    (hb : j.names b) (hpb : p.before b) : b.second = p.second ∧ b.frame = p.frame := by
  obtain ⟨p2, pf, pb⟩ := p
  obtain ⟨b2, bf, bb⟩ := b
  unfold Job.nextFrame at hq
  unfold Job.names at hp hb
  unfold Position.before at hpb
  cases p2 <;> cases b2 <;> cases hs : j.second <;> simp_all <;> grind

theorem Position.before_or {p q : Position} (h : ¬p.before q) : q = p ∨ q.before p :=
  or_iff_not_imp_right.2 fun k => Position.eq_of_not_before k h

/-! ## Passing over -/

theorem firstUnfilled_some {f : FinSet 16} {b c : Fin 16} (h : firstUnfilled f b = some c) :
    b ≤ c ∧ f[c] = false ∧ ∀ d, b ≤ d → f[d] = false → c ≤ d := by
  obtain ⟨hc, n, hn, he, hlt⟩ := List.find?_eq_some_iff_getElem.1 h
  simp only [Bool.and_eq_true, decide_eq_true_eq, Bool.not_eq_true'] at hc
  refine ⟨hc.1, hc.2, fun d hbd hd => ?_⟩
  by_contra hcd
  rw [List.getElem_finRange] at he
  have hdn : d.val < n := by
    have : c.val = n := by rw [← he]; rfl
    rw [Fin.not_le, Fin.lt_def, this] at hcd
    exact hcd
  have := hlt d.val hdn
  simp [hbd] at this
  simp [this] at hd

theorem firstUnfilled_none {f : FinSet 16} {b : Fin 16} (h : firstUnfilled f b = none) (d : Fin 16) (hd : b ≤ d) :
    f[d] = true := by
  have := List.find?_eq_none.1 h d (List.mem_finRange d)
  simpa [hd] using this

/-- With nothing wanted in a frame from p on, passing over goes on with the next frame. -/
theorem State.firstWanted_next {p q : Position} {x : Option Position} (hp : j.names p) (hq : j.nextFrame p = some q)
    (dead : ∀ b, s.wants i j b → b.second = p.second → b.frame = p.frame → b.before p)
    (h : s.firstWanted i j (fun b => ¬b.before q) x) : s.firstWanted i j (fun b => ¬b.before p) x := by
  refine State.firstWanted_congr (fun b hb => not_congr ⟨fun hbq => ?_, fun hbp => ?_⟩) h
  · by_contra hbp
    rcases Position.before_or hbp with rfl | hpb
    · exact hbp (dead _ hb rfl rfl)
    · have same := (j.before_nextFrame hp hq hb.1 hpb).1 hbq
      exact hbp (dead b hb same.1 same.2)
  · exact Position.before_trans hbp (j.before_nextFrame_self hp hq)

theorem State.firstWanted_last {p : Position} (hp : j.names p) (hq : j.nextFrame p = none)
    (dead : ∀ b, s.wants i j b → b.second = p.second → b.frame = p.frame → b.before p) :
    s.firstWanted i j (fun b => ¬b.before p) none := fun b hb hbp => by
  rcases Position.before_or hbp with rfl | hpb
  · exact hbp (dead _ hb rfl rfl)
  · have same := j.nextFrame_none hp hq hb.1 hpb
    exact hbp (dead b hb same.1 same.2)

/-- Passing over from a position of the job ends at the first block not before it that the job has still to fill. -/
theorem passOver_first (second : ∀ r ∈ j.second, 1 ≤ r.count) :
    ∀ (n : Nat) (p : Position), j.names p → j.framesFrom p < n →
      s.firstWanted i j (fun b => ¬b.before p) (passOver s i j n (some p))
  | 0, _, _, h => absurd h (Nat.not_lt_zero _)
  | n + 1, p, hp, hn => by
    have next (dead : ∀ b, s.wants i j b → b.second = p.second → b.frame = p.frame → b.before p) :
        s.firstWanted i j (fun b => ¬b.before p) (passOver s i j n (j.nextFrame p)) := by
      cases hq : j.nextFrame p with
      | none =>
        have : passOver s i j n none = none := by cases n <;> rfl
        rw [this]
        exact State.firstWanted_last hp hq dead
      | some q =>
        have hlt := j.framesFrom_nextFrame hp hq
        exact State.firstWanted_next hp hq dead
          (passOver_first second n q (j.nextFrame_names second hp q hq) (by omega))
    unfold passOver
    split
    · rename_i hf
      split
      · rename_i c hc
        obtain ⟨hpc, hfree, hmin⟩ := firstUnfilled_some hc
        refine ⟨⟨hp, hf, hfree⟩, by simp [Position.before, hpc], fun b hb hbp hbc => ?_⟩
        have same : b.second = p.second ∧ b.frame = p.frame ∧ p.block ≤ b.block ∧ b.block < c := by
          obtain ⟨b2, bf, bb⟩ := b
          obtain ⟨p2, pf, pb⟩ := p
          cases b2 <;> cases p2 <;> simp_all [Position.before] <;> omega
        have := hmin b.block same.2.2.1 (by rw [← same.2.1]; exact hb.2.2)
        exact absurd same.2.2.2 (Fin.not_lt.2 this)
      · rename_i hc
        refine next fun b hb h2 hbf => .inr ⟨h2, .inr ⟨hbf, ?_⟩⟩
        by_contra hlt
        have := firstUnfilled_none hc b.block (Fin.not_lt.1 hlt)
        rw [← hbf, hb.2.2] at this
        cases this
    · rename_i hf
      exact next fun b hb _ hbf => absurd (hbf ▸ hb.2.1) hf

theorem State.passed_first (second : ∀ r ∈ j.second, 1 ≤ r.count) {p : Position} (hp : j.names p) :
    s.firstWanted i j (fun b => ¬b.before p) (s.passed i j (some p)) :=
  passOver_first second _ p hp (Nat.lt_succ_of_le (j.framesFrom_le_size hp))

/-- Passing over from the block after one of the job's ends at the first block after it that the job has still to
fill. -/
theorem State.passed_nextBlock (second : ∀ r ∈ j.second, 1 ≤ r.count) {p : Position} (hp : j.names p) :
    s.firstWanted i j p.before (s.passed i j (j.nextBlock p)) := by
  unfold Job.nextBlock
  split
  · rename_i hlt
    refine State.firstWanted_congr (fun b _ => ?_) (s.passed_first second (p := { p with block := p.block + 1 }) hp)
    have hv : (p.block + 1).val = p.block.val + 1 := by
      rw [Fin.val_add]
      exact Nat.mod_eq_of_lt (Nat.succ_lt_succ hlt)
    obtain ⟨b2, bf, bb⟩ := b
    obtain ⟨p2, pf, pb⟩ := p
    unfold Position.before
    simp only [Fin.lt_def, hv]
    cases b2 <;> cases p2 <;> simp <;> omega
  · rename_i hlt
    have last {b : Position} (h2 : b.second = p.second) (hf : b.frame = p.frame) : ¬p.before b := by
      have := b.block.2
      unfold Position.before
      rw [h2, hf]
      simp only [Fin.lt_def]
      cases p.second <;> simp <;> omega
    cases hq : j.nextFrame p with
    | none =>
      intro b hb hpb
      have same := j.nextFrame_none hp hq hb.1 hpb
      exact last same.1 same.2 hpb
    | some q =>
      refine State.firstWanted_congr (fun b hb => ⟨fun hbq => ?_, fun hpb hbq => ?_⟩)
        (s.passed_first second (j.nextFrame_names second hp q hq))
      · by_contra hpb
        rcases Position.before_or hpb with rfl | hbp
        · exact hbq (j.before_nextFrame_self hp hq)
        · exact hbq (Position.before_trans hbp (j.before_nextFrame_self hp hq))
      · have same := (j.before_nextFrame hp hq hb.1 hpb).1 hbq
        exact last same.1 same.2 hpb

/-! ## Sending -/

theorem State.active_setSlot_active (ha : s.active = some (i, j)) (j' : Job) :
    (s.setSlot i (.active j')).active = some (i, j') := by
  unfold State.active at ha ⊢
  obtain ⟨l, k, r, hl, hk, hn⟩ := List.findSome?_eq_some_iff.1 ha
  obtain ⟨j0, -, hj⟩ := Option.map_eq_some_iff.1 hk
  cases hj
  refine List.findSome?_eq_some_iff.2 ⟨l, i, r, hl, by rw [State.slot_setSlot_self]; rfl, fun x hx => ?_⟩
  have : x ≠ i := by
    rintro rfl
    rw [hn x hx] at hk
    cases hk
  rw [State.slot_setSlot, if_neg this]
  exact hn x hx

/-- One fill sent: the block at position p under the fill id k, the position passing on to q. -/
def State.sent (s : State) (i : Fin 16) (j : Job) (k : Fin 4) (p : Position) (q : Option Position) : State :=
  { s with
    scrub :=
      { s.scrub with
        slots := s.scrub.slots.set i (.active { j with position := q })
        fills := s.scrub.fills.set k (some { seq := s.scrub.seq, frame := p.frame, block := p.block })
        seq := s.scrub.seq + 1 }
    out :=
      { s.out with
        mem := s.out.mem ++
          [{ id := k, seq := s.scrub.seq, frame := p.frame, block := p.block, pattern := s.pattern }] } }

theorem State.freeFillId_eq (s : State) : s.freeFillId = s.freeIds.head? := by
  unfold State.freeFillId State.freeIds
  rw [List.head?_filter]

theorem State.sendOneFill_sent (hr : s.scrub.engine = .running) (hm : s.isUp .mem = true)
    (ha : s.active = some (i, j)) {k : Fin 4} {ks : List (Fin 4)} (hk : s.freeIds = k :: ks) {p : Position}
    (hp : s.passed i j j.position = some p) :
    s.sendOneFill = s.sent i j k p (s.passed i j (j.nextBlock p)) := by
  have hfree : s.freeFillId = some k := by rw [State.freeFillId_eq, hk]; rfl
  unfold State.sendOneFill
  rw [if_pos ⟨hr, hm⟩]
  simp only [ha, hfree, hp]
  rw [State.sendFill, if_pos (by exact hm)]
  rfl

theorem State.sendOneFill_full (hk : s.freeIds = []) : s.sendOneFill = s := by
  have hfree : s.freeFillId = none := by rw [State.freeFillId_eq, hk]; rfl
  unfold State.sendOneFill
  split
  · split
    · rename_i h
      rw [hfree] at h
      cases h
    · rfl
  · rfl

theorem State.sendOneFill_end (ha : s.active = some (i, j)) (hp : j.position = none) : s.sendOneFill = s := by
  have same : s.setSlot i (.active { j with position := none }) = s := by
    rw [← hp]
    have := vector_set_get s.scrub.slots i
    rw [show s.scrub.slots[i] = .active j from State.slot_of_active ha] at this
    unfold State.setSlot State.setScrub
    rw [this]
  have passed : s.passed i j j.position = none := by rw [hp]; rfl
  unfold State.sendOneFill
  split
  · split
    · rename_i h _
      cases ha.symm.trans h
      rw [passed]
      exact same
    · rfl
  · rfl

theorem State.filling_nil (ha : s.active = some (i, j)) : s.filling i j [] j.position = s := by
  have slots := vector_set_get s.scrub.slots i
  rw [show s.scrub.slots[i] = .active j from State.slot_of_active ha] at slots
  have fills : (Vector.ofFn fun k => ((s.fillsOf []).lookup k).or (s.fill k)) = s.scrub.fills := by
    ext1 k hk
    rw [Vector.getElem_ofFn]
    simp [State.fillsOf, State.fill]
  unfold State.filling
  rw [fills, slots]
  simp [State.fillsOf]

theorem State.freeIds_nodup (s : State) : s.freeIds.Nodup := (List.nodup_finRange 4).filter _

theorem State.sent_fill (k : Fin 4) (p : Position) (q : Option Position) (c : Fin 4) :
    (s.sent i j k p q).fill c =
      if c = k then some { seq := s.scrub.seq, frame := p.frame, block := p.block } else s.fill c :=
  vector_get_set ..

theorem State.sent_freeIds {k : Fin 4} {ks : List (Fin 4)} (hk : s.freeIds = k :: ks) (p : Position)
    (q : Option Position) : (s.sent i j k p q).freeIds = ks := by
  have nodup := s.freeIds_nodup
  rw [hk] at nodup
  have : (s.sent i j k p q).freeIds = s.freeIds.filter fun c => decide (c ≠ k) := by
    unfold State.freeIds
    rw [List.filter_filter]
    refine List.filter_congr fun c _ => ?_
    rw [State.sent_fill]
    by_cases hc : c = k <;> simp [hc]
  rw [this, hk, List.filter_cons_of_neg (by simp)]
  refine List.filter_eq_self.2 fun c hc => ?_
  have : c ≠ k := by
    rintro rfl
    exact (List.nodup_cons.1 nodup).1 hc
  simpa using this

theorem State.fillsOf_cons {k : Fin 4} {ks : List (Fin 4)} (hk : s.freeIds = k :: ks) (p : Position)
    (ps : List Position) (q : Option Position) :
    s.fillsOf (p :: ps) =
      (k, { seq := s.scrub.seq, frame := p.frame, block := p.block }) :: (s.sent i j k p q).fillsOf ps := by
  unfold State.fillsOf
  rw [State.sent_freeIds hk, hk, List.zip_cons_cons, List.zipIdx_cons, List.map_cons, List.zipIdx_succ, List.map_map]
  refine congrArg₂ List.cons (by simp) (List.map_congr_left fun x _ => ?_)
  have (n : Nat) : s.scrub.seq + BitVec.ofNat 16 (n + 1) = s.scrub.seq + 1 + BitVec.ofNat 16 n := by
    rw [BitVec.ofNat_add, BitVec.add_assoc, BitVec.add_comm (BitVec.ofNat 16 n)]
    rfl
  simp only [Function.comp, this]
  rfl

theorem State.fillsOf_mem {x : Fin 4 × Fill} {ps : List Position} (h : x ∈ s.fillsOf ps) : x.1 ∈ s.freeIds := by
  unfold State.fillsOf at h
  obtain ⟨⟨y, n⟩, hy, rfl⟩ := List.mem_map.1 h
  exact (List.of_mem_zip (List.fst_mem_of_mem_zipIdx hy)).1

theorem State.filling_cons {k : Fin 4} {ks : List (Fin 4)} (hk : s.freeIds = k :: ks) (p : Position)
    (ps : List Position) (q q' : Option Position) :
    s.filling i j (p :: ps) q = (s.sent i j k p q').filling i { j with position := q' } ps q := by
  have nodup := s.freeIds_nodup
  rw [hk] at nodup
  have fills : (Vector.ofFn fun c => ((s.fillsOf (p :: ps)).lookup c).or (s.fill c)) =
      Vector.ofFn fun c => (((s.sent i j k p q').fillsOf ps).lookup c).or ((s.sent i j k p q').fill c) := by
    congr 1
    funext c
    rw [State.fillsOf_cons hk (q := q'), State.sent_fill, List.lookup_cons]
    by_cases hc : c = k
    · have : ((s.sent i j k p q').fillsOf ps).lookup c = none := by
        refine List.lookup_eq_none_iff.2 fun x hx => ?_
        have hx := State.fillsOf_mem hx
        rw [State.sent_freeIds hk] at hx
        have : c ≠ x.1 := by
          rintro rfl
          exact (List.nodup_cons.1 nodup).1 (hc ▸ hx)
        simpa using this
      simp [hc, hc ▸ this]
    · have : (c == k) = false := by simpa using hc
      rw [this, if_neg hc]
  have seq : s.scrub.seq + BitVec.ofNat 16 (p :: ps).length = s.scrub.seq + 1 + BitVec.ofNat 16 ps.length := by
    rw [List.length_cons, BitVec.ofNat_add, BitVec.add_assoc, BitVec.add_comm (BitVec.ofNat 16 ps.length)]
    rfl
  unfold State.filling
  rw [fills, seq, State.fillsOf_cons hk (q := q')]
  unfold State.sent
  simp only [List.map_cons, List.append_assoc, List.singleton_append, Vector.set_set]
  rfl

/-- The blocks sent one after another: passing over from a position leads to the first, and from the block after each to
the next one. -/
def State.passes (s : State) (i : Fin 16) (j : Job) : Option Position → List Position → Option Position → Prop
  | x, [], q => x = q
  | x, p :: ps, q => s.passed i j x = some p ∧ s.passes i j (s.passed i j (j.nextBlock p)) ps q

/-- Passing over reads the Frame Map, and of the job its runs and its tally. -/
theorem passOver_position (hf : t.frames = s.frames) (q : Option Position) :
    ∀ (n : Nat) (x : Option Position), passOver t i { j with position := q } n x = passOver s i j n x
  | 0, _ => rfl
  | _ + 1, none => rfl
  | n + 1, some p => by
    have frame : t.frame p.frame = s.frame p.frame := by
      unfold State.frame
      rw [hf]
    have filled : Job.filled { j with position := q } = j.filled := rfl
    have next : Job.nextFrame { j with position := q } = j.nextFrame := rfl
    simp only [passOver, frame, filled, next, passOver_position hf q n]

theorem State.passed_position (hf : t.frames = s.frames) (q x : Option Position) :
    t.passed i { j with position := q } x = s.passed i j x := passOver_position hf q _ x

theorem State.passes_position (hf : t.frames = s.frames) (q y : Option Position) :
    ∀ (ps : List Position) (x : Option Position), t.passes i { j with position := q } x ps y ↔ s.passes i j x ps y
  | [], _ => Iff.rfl
  | p :: ps, x => by
    have next : Job.nextBlock { j with position := q } = j.nextBlock := rfl
    simp only [State.passes, State.passed_position hf, next, State.passes_position hf q y ps]

/-- Fills sent while ids are free and blocks are left. -/
theorem State.sendOneFill_iterate {q : Option Position} (n : Nat) : ∀ (ps : List Position) (s : State) (j : Job),
    s.scrub.engine = .running → s.isUp .mem = true → s.active = some (i, j) → s.passes i j j.position ps q →
    ps.length ≤ n → (ps.length = s.freeIds.length ∨ ps.length < s.freeIds.length ∧ q = none) →
    State.sendOneFill^[n] s = s.filling i j ps q := by
  induction n with
  | zero =>
    intro ps s j _ _ ha hq hlen _
    obtain rfl := List.length_eq_zero_iff.1 (Nat.le_zero.1 hlen)
    obtain rfl : j.position = q := hq
    exact (s.filling_nil ha).symm
  | succ n ih =>
    intro ps s j hr hm ha hps hlen hroom
    cases ps with
    | nil =>
      obtain rfl : j.position = q := hps
      have stuck : s.sendOneFill = s := by
        rcases hroom with h | ⟨-, h⟩
        · exact State.sendOneFill_full (List.length_eq_zero_iff.1 h.symm)
        · exact State.sendOneFill_end ha h
      rw [Function.iterate_fixed stuck, s.filling_nil ha]
    | cons p ps =>
      obtain ⟨hp, hps⟩ := hps
      obtain ⟨k, ks, hk⟩ : ∃ k ks, s.freeIds = k :: ks := by
        cases hk : s.freeIds with
        | nil => simp [hk] at hroom
        | cons k ks => exact ⟨k, ks, rfl⟩
      have sent := State.sendOneFill_sent hr hm ha hk hp
      have cons := s.filling_cons (i := i) (j := j) hk p ps q (s.passed i j (j.nextBlock p))
      rw [Function.iterate_succ_apply, sent, cons]
      generalize hx : s.passed i j (j.nextBlock p) = x at hps
      refine ih ps (s.sent i j k p x) { j with position := x } hr hm (State.active_setSlot_active ha _) ?_
        (Nat.le_of_succ_le_succ hlen) ?_
      · exact (State.passes_position (by rfl) _ _ ps _).2 hps
      · rw [State.sent_freeIds hk]
        simpa [hk] using hroom

theorem State.passed_self {p : Position} (h : s.wants i j p) (second : ∀ r ∈ j.second, 1 ≤ r.count) :
    s.passed i j (some p) = some p :=
  State.firstWanted_unique (s.passed_first second h.1) ⟨h, p.before_irrefl, fun _ _ hb => hb⟩

/-- The next blocks in issue order are those that passing over leads to. -/
theorem State.passes_of_nextBlocks (second : ∀ r ∈ j.second, 1 ≤ r.count) {q : Option Position} :
    ∀ {ps : List Position} {ok : Position → Prop} {x : Option Position}, s.nextBlocks i j ok ps q → ps ≠ [] →
      s.firstWanted i j ok (s.passed i j x) → s.passes i j x ps q
  | [], _, _, _, hne, _ => absurd rfl hne
  | [p], ok, x, ⟨hp, hq⟩, _, hx =>
    ⟨State.firstWanted_unique hx hp, State.firstWanted_unique (s.passed_nextBlock second hp.1.1) hq⟩
  | p :: p' :: ps, ok, x, ⟨hp, hps⟩, _, hx => by
    have hx' := State.firstWanted_unique hx hp
    have hn := s.passed_nextBlock (i := i) second hp.1.1
    have hp' := State.firstWanted_unique hn hps.1
    refine ⟨hx', State.passes_of_nextBlocks second hps nofun ?_⟩
    rw [hp', State.passed_self hps.1.1 second, ← hp']
    exact hn

/-- The sending of fills, where the ACTIVE job has blocks to send (R118, R119). -/
theorem State.sendFills_of_sends (hr : s.scrub.engine = .running) (hm : s.isUp .mem = true)
    (ha : s.active = some (i, j)) {ps : List Position} {q : Option Position} (h : s.Sends i j ps q) :
    s.sendFills = s.filling i j ps q := by
  obtain ⟨p, hp, hn, hb⟩ := h.order
  have passes : s.passes i j j.position ps q := by
    rw [Option.mem_def.1 hp]
    exact State.passes_of_nextBlocks h.runs hb h.some (s.passed_first h.runs hn)
  have free : s.freeIds.length ≤ 4 := (List.length_filter_le ..).trans_eq (List.length_finRange ..)
  have len : ps.length ≤ 4 := by
    rcases h.room with h | ⟨h, -⟩ <;> omega
  exact State.sendOneFill_iterate 4 ps s j hr hm ha passes len h.room

theorem State.quiet_eq_false {k : Fin 4} (h : s.fill k ≠ none) : s.quiet = false := by
  rw [Bool.eq_false_iff]
  exact fun hq => h (State.quiet_eq_true.1 hq k)

/-- With a fill in flight the job does not end. -/
theorem runEngine_of_fill (n : Nat) (ha : s.sendFills.active = some (i, j)) {k : Fin 4} (h : s.sendFills.fill k ≠ none) :
    runEngine (n + 1) s = s.sendFills := by
  have he : s.sendFills.endJob = none := by
    unfold State.endJob
    rw [ha]
    simp [State.quiet_eq_false h]
  simp only [runEngine, he]

theorem runEngine_of_sends (n : Nat) (hr : s.scrub.engine = .running) (hm : s.isUp .mem = true)
    (ha : s.active = some (i, j)) {ps : List Position} {q : Option Position} (h : s.Sends i j ps q) :
    runEngine (n + 1) s = s.filling i j ps q := by
  have sent := State.sendFills_of_sends hr hm ha h
  obtain ⟨p, ps', rfl⟩ := List.exists_cons_of_ne_nil h.some
  obtain ⟨k, ks, hk⟩ : ∃ k ks, s.freeIds = k :: ks := by
    have room := h.room
    cases hk : s.freeIds with
    | nil => simp [hk] at room
    | cons k ks => exact ⟨k, ks, rfl⟩
  have active : (s.filling i j (p :: ps') q).active = some (i, { j with position := q }) :=
    State.active_setSlot_active ha _
  have fill : (s.filling i j (p :: ps') q).fill k ≠ none := by
    have : (s.filling i j (p :: ps') q).fill k = ((s.fillsOf (p :: ps')).lookup k).or (s.fill k) := by
      simp [State.filling, State.fill]
    rw [this, State.fillsOf_cons (i := i) (j := j) hk (q := none), List.lookup_cons]
    simp
  rw [runEngine_of_fill n (by rw [sent]; exact active) (by rw [sent]; exact fill), sent]

theorem State.drive_of_sends (hr : s.scrub.engine = .running) (hm : s.isUp .mem = true)
    (ha : s.active = some (i, j)) {ps : List Position} {q : Option Position} (h : s.Sends i j ps q) :
    s.drive = s.filling i j ps q := runEngine_of_sends _ hr hm ha h

/-- Which blocks a job has to send depends on the Frame Map and the fills in flight. -/
theorem State.nextBlocks_congr (hf : t.frames = s.frames) {q : Option Position} :
    ∀ {ps : List Position} {ok : Position → Prop}, s.nextBlocks i j ok ps q → t.nextBlocks i j ok ps q := by
  have wants (b : Position) : t.wants i j b ↔ s.wants i j b := by
    unfold State.wants State.frame
    rw [hf]
  have first {ok : Position → Prop} {x : Option Position} (h : s.firstWanted i j ok x) : t.firstWanted i j ok x := by
    cases x with
    | none => exact fun b hb => h b ((wants b).1 hb)
    | some p => exact ⟨(wants p).2 h.1, h.2.1, fun b hb => h.2.2 b ((wants b).1 hb)⟩
  intro ps
  induction ps with
  | nil => exact fun h => first h
  | cons p ps ih => exact fun h => ⟨first h.1, ih h.2⟩

theorem State.Sends.of_eq {ps : List Position} {q : Option Position} (h : s.Sends i j ps q) (hf : t.frames = s.frames)
    (hs : t.scrub.fills = s.scrub.fills) : t.Sends i j ps q where
  some := h.some
  order := by
    obtain ⟨p, hp, hn, hb⟩ := h.order
    exact ⟨p, hp, hn, State.nextBlocks_congr hf hb⟩
  runs := h.runs
  room := by
    have : t.freeIds = s.freeIds := by
      unfold State.freeIds State.fill
      rw [hs]
    rw [this]
    exact h.room

/-! ## The training of a link -/

theorem State.setLink_begin (l : LinkId) (x : Link) : s.begin.setLink l x = (s.setLink l x).setOut .nothing := by
  cases l <;> rfl

/-- A good parameter word brings a link UP; its owner takes part (R161). -/
theorem exec_parameterWord_good {l : LinkId} (hl : (s.link l).state = .training) (n : BitVec 4) (k : BitVec 8) :
    exec (.parameterWord l true (roleOf l) n k) s = .next (s.begin.comeUp l) := by
  simp only [exec, execParameterWord, hl]
  rw [if_pos ⟨trivial, trivial⟩]

/-- Settles O7: a good parameter word on M sends what a RUNNING engine has to send. -/
theorem parameterWordTrains : Obligations.ParameterWordTrains := by
  unfold Obligations.ParameterWordTrains
  intro n k s
  refine ⟨fun l => ⟨fun hr hl => ?_, fun h => ?_⟩, fun l ok r hl hbad => ?_, fun a hl => ?_, fun hl => ?_,
    fun hl => ⟨fun hr ha => ?_, fun i j ps q hr ha hs => ?_⟩⟩
  · simp only [exec, execCarrierDetected]
    rw [if_pos ⟨hr, hl⟩, State.setLink_begin]
    rfl
  · simp only [exec, execCarrierDetected]
    rw [if_neg fun hc => h.elim (fun h => by simp [h] at hc) fun h => h hc.2]
    rfl
  · simp only [exec, execParameterWord, hl]
    rw [if_neg fun hc => hbad.elim (fun h => by simp [h] at hc) fun h => h hc.2]
    rfl
  · exact exec_parameterWord_good hl n k
  · exact exec_parameterWord_good (l := .sup) hl n k
  · refine (exec_parameterWord_good (l := .mem) hl n k).trans (congrArg Host.Outcome.next ?_)
    exact State.drive_of_no_job (s := s.begin.setLink .mem (.fresh .up)) ha
  · refine (exec_parameterWord_good (l := .mem) hl n k).trans (congrArg Host.Outcome.next ?_)
    exact State.drive_of_sends (s := s.begin.setLink .mem (.fresh .up)) hr rfl ha (hs.of_eq rfl rfl)

end Sys2Proof.Machine
end

section
/-!
PROOFS of O10 and O40 to O47: the Scrub Engine's commands, the ends of fills and of jobs, CONFIGURE and the delivery of
notices.
-/

namespace Sys2Proof.Machine

variable {s t : State} {i : Fin 16} {j : Job}

/-! ## The lowest FREE slot, the fields of a run -/

theorem State.freeSlot_of_next (h : s.nextSlot i) : s.freeSlot = some i := by
  refine List.find?_eq_some_iff_getElem.2 ⟨by rw [h.1]; rfl, i.val, by simp, by simp, fun k hk => ?_⟩
  have hne := h.2 ⟨k, hk.trans i.2⟩ hk
  have : (List.finRange 16)[k]'(by simp; omega) = ⟨k, hk.trans i.2⟩ := by simp
  rw [this]
  cases hs : s.slot ⟨k, hk.trans i.2⟩ <;> simp_all [ScrubSlot.isFree]

theorem State.freeSlot_eq_none (h : ∀ i, s.slot i ≠ .free) : s.freeSlot = none :=
  List.find?_eq_none.2 fun i _ => by
    cases hs : s.slot i <;> simp_all [ScrubSlot.isFree]

theorem checkRun_badValue {base : Word} (h : 65536 ≤ base.toNat) (configured most : Nat) (count : Word) :
    checkRun configured most base count = .error .badValue := if_pos h

theorem checkRun_badRange {base count : Word} {configured most : Nat} (hb : base.toNat < 65536)
    (h : count.toNat < 1 ∨ most < count.toNat ∨ configured < base.toNat + count.toNat) :
    checkRun configured most base count = .error .badRange := by
  rw [checkRun, if_neg (Nat.not_le.2 hb), if_pos h]

/-! ## Jobs joining the queue -/

theorem Job.fresh_eq_start (o : Origin) (r : Run) : Job.fresh o r none = Job.start o r := rfl

/-- A job joins the queue of an engine that is not IDLE. -/
theorem State.enqueue_busy (h : s.scrub.engine ≠ .idle) (i : Fin 16) (j : Job) :
    s.enqueue i j =
      s.setScrub { s.scrub with slots := s.scrub.slots.set i (.queued j), queue := s.scrub.queue ++ [i] } :=
  if_neg h

/-- The engine RUNNING with job j ACTIVE in slot i. -/
def State.started (s : State) (i : Fin 16) (j : Job) : State :=
  s.setScrub { s.scrub with slots := s.scrub.slots.set i (.active j), engine := .running }

/-- An IDLE engine without a job starts the one that is queued. -/
theorem State.enqueue_idle (h : s.scrub.engine = .idle) (ha : s.active = none) (hq : s.scrub.queue = []) (i : Fin 16)
    (j : Job) : s.enqueue i j = (s.started i j).drive := by
  set u := (((s.setSlot i (.queued j)).setScrub
    { (s.setSlot i (.queued j)).scrub with queue := (s.setSlot i (.queued j)).scrub.queue ++ [i] }).setEngine .running)
    with hu
  have slot (k : Fin 16) : u.slot k = if k = i then .queued j else s.slot k := s.slot_setSlot i k (.queued j)
  have none : u.active = none := State.active_eq_none.2 fun k j' hk => by
    rw [slot] at hk
    split at hk
    · cases hk
    · exact State.active_eq_none.1 ha k j' hk
  have queue : u.scrub.queue = [i] := by
    have : u.scrub.queue = s.scrub.queue ++ [i] := rfl
    rw [this, hq]
    rfl
  have next : u.startNext = s.started i j := by
    rw [State.startNext, if_pos ⟨rfl, none⟩, queue]
    simp only [slot i, if_true]
    simp only [hu, State.started, State.setSlot, State.setScrub, State.setEngine, Vector.set_set, hq]
  have : s.enqueue i j = u.startNext.drive := if_pos h
  rw [this, next]

theorem State.active_of_none (h : s.active = none) (i : Fin 16) (j : Job) :
    (s.setSlot i (.active j)).active = some (i, j) := by
  refine (State.active_eq_some fun k l j' j'' hk hl => ?_).2 (State.slot_setSlot_self ..)
  have only {k : Fin 16} {j' : Job} (hk : (s.setSlot i (.active j)).slot k = .active j') : k = i := by
    rw [State.slot_setSlot] at hk
    split at hk
    · assumption
    · exact absurd hk (State.active_eq_none.1 h k j')
  rw [only hk, only hl]

theorem State.started_active (h : s.active = none) (i : Fin 16) (j : Job) : (s.started i j).active = some (i, j) :=
  State.active_of_none h i j

/-- While M is not UP nothing is sent. -/
theorem State.sendFills_of_not_up (h : s.isUp .mem = false) : s.sendFills = s := by
  simp [State.sendFills, State.sendOneFill, h]

/-- With every fill id in flight nothing is sent. -/
theorem State.sendFills_full (h : ∀ k, s.fill k ≠ none) : s.sendFills = s := by
  have free : s.freeIds = [] := List.filter_eq_nil_iff.2 fun k _ hk => h k (Option.isNone_iff_eq_none.1 hk)
  simp only [State.sendFills, State.sendOneFill_full free]

/-- A frame of one of the job's runs that is SCRUBBING for its slot. -/
theorem State.hasScrubbing_of_frame {f : Nat} (hf : s.frame f = .scrubbing i) (hc : j.covers f = true) :
    s.hasScrubbing i j = true := by
  obtain h | h := sparseGet_mem FrameState.free s.frames f
  · rw [State.frame, h] at hf
    cases hf
  · rw [show sparseGet .free s.frames f = .scrubbing i from hf] at h
    exact List.any_eq_true.2 ⟨_, h, by simp [hc]⟩

/-- A message on S does not meet the fills of the same action. -/
theorem State.filling_sendSup (h : s.isUp .sup = true) (ps : List Position) (q : Option Position) (m : SupMsg) :
    (s.filling i j ps q).sendSup m = (s.sendSup m).filling i j ps q := by
  rw [State.sendSup_of_up h, State.sendSup_of_up (by exact h)]
  rfl

/-- The job that an IDLE engine starts while M is not UP. -/
theorem State.enqueue_idle_down (h : s.scrub.engine = .idle) (ha : s.active = none) (hq : s.scrub.queue = [])
    (hm : s.isUp .mem = false) (hs : (s.started i j).hasScrubbing i j = true) : s.enqueue i j = s.started i j := by
  have still : (s.started i j).sendFills = s.started i j := State.sendFills_of_not_up hm
  rw [State.enqueue_idle h ha hq, State.drive_of_busy _ still (State.started_active ha i j) (.inl hs)]

/-- The job that an IDLE engine starts while M is UP sends its first fills. -/
theorem State.enqueue_idle_up (h : s.scrub.engine = .idle) (ha : s.active = none) (hq : s.scrub.queue = [])
    (hm : s.isUp .mem = true) {ps : List Position} {q : Option Position} (hs : (s.started i j).Sends i j ps q) :
    s.enqueue i j = (s.started i j).filling i j ps q := by
  rw [State.enqueue_idle h ha hq, State.drive_of_sends rfl (by exact hm) (State.started_active ha i j) hs]

/-! ## RESCRUB -/

theorem exec_rescrub {tag : BitVec 8} (h : s.serves tag) (base count : Word) :
    exec (.rescrub tag base count) s = .next (takeRescrub tag base count (s.setOut (.onSup []))) := by
  rw [exec_sup rfl h.1]
  exact congrArg Host.Outcome.next (request_served h ..)

/-- Settles O40. -/
theorem rescrubQueues : Obligations.RescrubQueues := by
  unfold Obligations.RescrubQueues
  intro tag base count s h
  have hup : s.isUp .sup = true := h.1.1
  dsimp only
  rw [exec_rescrub h, takeRescrub]
  refine ⟨fun hb => ?_, fun hb hc => ?_, fun run hrun => ⟨fun hbusy => ?_, fun hq => ⟨fun hs => ?_, fun i hi => ?_⟩⟩⟩
  · rw [checkRun_badValue hb]
    exact congrArg Host.Outcome.next (refuseSup_eq hup ..)
  · rw [checkRun_badRange hb (by exact hc)]
    exact congrArg Host.Outcome.next (refuseSup_eq hup ..)
  all_goals
    have hread : checkRun (s.setOut (.onSup [])).frameCount Config.maxFramesPerWindow base count = .ok run :=
      checkRun_eq_ok.2 hrun
    rw [hread]
  · have hb : (s.setOut (.onSup [])).runAll run (· == .quarantined) = false := by
      obtain ⟨f, hf, hq⟩ := hbusy
      rw [Bool.eq_false_iff]
      exact fun hc => hq (beq_iff_eq.1 (State.runAll_eq_true.1 hc f hf))
    simp only [hb]
    exact congrArg Host.Outcome.next (refuseSup_eq hup ..)
  all_goals
    have hall : (s.setOut (.onSup [])).runAll run (· == .quarantined) = true :=
      State.runAll_eq_true.2 fun f hf => beq_iff_eq.2 (hq f hf)
  · have hfree : (s.setOut (.onSup [])).freeSlot = none := State.freeSlot_eq_none hs
    simp only [hall, hfree]
    exact congrArg Host.Outcome.next (refuseSup_eq hup ..)
  · have hfree : (s.setOut (.onSup [])).freeSlot = some i := State.freeSlot_of_next hi
    simp only [hall, hfree, Bool.not_true, Bool.false_eq_true, if_false, State.rescrubRun, Job.fresh_eq_start]
    set m := sparseFill .free s.frames run.base run.count (.scrubbing i) with hm
    have frame (f : Nat) : sparseGet .free m f = if run.has f then .scrubbing i else s.frame f :=
      sparseGet_fill ..
    set done : SupMsg := .done tag .applied none (noneOf 8) (some i) none
    by_cases he : s.scrub.engine = .idle
    · set u := ((s.setOut (.onSup [])).setFrames m).started i (Job.start .rescrub run) with hu
      have sent : u.sendSup done = u.setOut (.onSup [done]) := State.sendSup_of_up (by exact hup) done
      refine ⟨u.setOut (.onSup [done]), frame, rfl, fun hn => absurd he hn, fun _ ha hqueue =>
        ⟨rfl, fun hmem => ?_, fun hmem ps q hs => ?_⟩⟩
      · have scrubbing : u.hasScrubbing i (Job.start .rescrub run) = true := by
          have hcount : 1 ≤ run.count := by
            obtain ⟨-, h1, -, -, rfl⟩ := hrun
            exact h1
          refine State.hasScrubbing_of_frame ((frame run.base).trans (if_pos ⟨Nat.le_refl _, by omega⟩)) ?_
          exact Job.covers_eq_true.2 (.inl ⟨Nat.le_refl _, Nat.lt_add_of_pos_right hcount⟩)
        have := State.enqueue_idle_down (s := (s.setOut (.onSup [])).setFrames m) he ha hqueue hmem scrubbing
        exact congrArg Host.Outcome.next ((congrArg (State.sendSup · done) this).trans sent)
      · have := State.enqueue_idle_up (s := (s.setOut (.onSup [])).setFrames m) he ha hqueue hmem
          (hs.of_eq (t := u) rfl rfl)
        refine congrArg Host.Outcome.next ((congrArg (State.sendSup · done) this).trans ?_)
        rw [← hu, State.filling_sendSup (by exact hup), sent]
    · refine ⟨{ s with
          frames := m
          scrub :=
            { s.scrub with
              slots := s.scrub.slots.set i (.queued (Job.start .rescrub run)), queue := s.scrub.queue ++ [i] }
          out := .onSup [done] }, frame, rfl, fun _ => ⟨rfl, ?_⟩, fun hn => absurd hn he⟩
      rw [State.enqueue_busy (by exact he)]
      exact congrArg Host.Outcome.next (State.sendSup_of_up (by exact hup) done)

/-! ## SUSPEND_SCRUB -/

/-- A SUSPENDING engine whose last fill has ended, S being UP. -/
structure State.Settling (s : State) (c : BitVec 8) (tags : NatSet) : Prop where
  engine : s.scrub.engine = .suspending c
  fills : ∀ k, s.fill k = none
  tags : s.tags = tags
  up : s.isUp .sup = true

namespace State.Settling

variable {c : BitVec 8} {n : NatSet}

theorem of_slots (h : s.Settling c n) (m : Sparse FrameState) (i : Fin 16) (x : ScrubSlot) :
    ((s.setFrames m).setSlot i x).Settling c n := ⟨h.engine, h.fills, h.tags, h.up⟩

theorem sendOneFill (h : s.Settling c n) : s.sendOneFill.Settling c n := by
  have : s.sendOneFill = s := if_neg fun hc => by rw [h.engine] at hc; cases hc.1
  rwa [this]

theorem endJob (h : s.Settling c n) (ht : s.endJob = some t) : t.Settling c n := by
  unfold State.endJob at ht
  split at ht
  · cases ht
  · rename_i i j ha
    split at ht
    · cases ht
    · cases ht
      have ended : ((s.setSlot i (.ended j)).postScrub (j.notice i)).Settling c n :=
        ⟨(deliver_engine ..).trans h.engine, fun k => (deliver_fill ..).trans (h.fills k),
          (State.postScrub_tags ..).trans h.tags, (State.postScrub_isUp ..).trans h.up⟩
      have : ((s.setSlot i (.ended j)).postScrub (j.notice i)).startNext =
          (s.setSlot i (.ended j)).postScrub (j.notice i) :=
        if_neg fun hc => by rw [ended.engine] at hc; cases hc.1
      rwa [this]

theorem drive (h : s.Settling c n) : s.drive.Settling c n :=
  runEngine_keeps (P := fun s => s.Settling c n) (fun _ h => h.sendOneFill) (fun _ _ h ht => h.endJob ht) _ s h

/-- The engine becomes SUSPENDED and the waiting SUSPEND is answered (R125). -/
theorem afterFill (h : s.Settling c n) :
    s.afterFill.scrub.engine = .suspended ∧ s.afterFill.tags = natErase n c.toNat ∧
      .plainDone c ∈ s.afterFill.out.sup := by
  have hd := h.drive
  have settled : s.afterFill = (s.drive.setEngine .suspended).finish c .applied none (noneOf 8) none := by
    unfold State.afterFill State.settleSuspend
    rw [hd.engine]
    exact if_pos (State.quiet_eq_true.2 hd.fills)
  rw [settled]
  refine ⟨by simp, by simp [hd.tags], ?_⟩
  rw [State.finish, State.sendSup_of_up (by exact hd.up)]
  simp [SupMsg.plainDone]

end State.Settling

theorem fillEnds_settling {c : BitVec 8} {k : Fin 4} (he : s.scrub.engine = .suspending c) (hup : s.isUp .sup = true)
    (hf : ∀ k', k' ≠ k → s.fill k' = none) (f : Fill) (ok : Bool) :
    (s.fillEnds k f ok).scrub.engine = .suspended ∧ (s.fillEnds k f ok).tags = natErase s.tags c.toNat ∧
      .plainDone c ∈ (s.fillEnds k f ok).out.sup := by
  have h1 : (s.setFill k none).Settling c s.tags :=
    ⟨he, fun k' => by
      rw [State.fill_setFill]
      split
      · rfl
      · exact hf k' ‹_›, rfl, hup⟩
  unfold State.fillEnds
  refine State.Settling.afterFill (n := s.tags) ?_
  split
  · exact h1
  · split
    · split
      · unfold State.countBlock
        dsimp only
        split
        · exact h1.of_slots ..
        · exact h1.of_slots (s.setFill k none).frames ..
      · exact h1.of_slots ..
    · exact h1

theorem exec_suspend {tag : BitVec 8} (h : s.serves tag) :
    exec (.suspendScrub tag) s = .next (takeSuspend tag (s.setOut (.onSup []))) := by
  rw [exec_sup rfl h.1]
  exact congrArg Host.Outcome.next (request_served h ..)

/-- A matched completion ends its fill (R120, R121). -/
theorem exec_filled {k : Fin 4} {f : Fill} (h : s.receives .mem) (hf : s.fill k = some f) {status : BitVec 8} {ok : Bool}
    (hs : fillStatus status = some ok) :
    exec (.filled status (BitVec.ofNat 2 k) f.seq) s = .next ((s.setOut (.onMem [])).fillEnds k f ok) := by
  rw [exec_mem rfl h]
  refine congrArg Host.Outcome.next ?_
  simp only [act, actFilled, takeFilled, fillId_ofNat k, State.setOut_fill, hf, hs, if_true]

theorem exec_fillDeadline {k : Fin 4} {f : Fill} (hf : s.fill k = some f) :
    exec (.fillDeadlineExpiry k) s = .next (s.begin.fillEnds k f false) := by
  simp only [exec, execFillDeadlineExpiry, State.begin_fill, hf]

theorem loseMem_settling {c : BitVec 8} (he : s.scrub.engine = .suspending c) (hup : s.isUp .sup = true) :
    s.loseMem.scrub.engine = .suspended ∧ s.loseMem.tags = natErase s.tags c.toNat ∧
      .plainDone c ∈ s.loseMem.out.sup := by
  have forgotten {u : State} (he : u.scrub.engine = .suspending c) (ht : u.tags = s.tags) (hup : u.isUp .sup = true) :
      (u.setScrub { u.scrub with fills := Vector.replicate 4 none }).Settling c s.tags :=
    ⟨he, fun k => by simp [State.fill, State.setScrub], ht, hup⟩
  unfold State.loseMem
  dsimp only
  split
  · exact State.Settling.afterFill (forgotten he rfl hup)
  · exact State.Settling.afterFill (forgotten he rfl hup)

/-- Settles O41. -/
theorem suspendScrub : Obligations.SuspendScrub := by
  unfold Obligations.SuspendScrub
  intro tag s h
  have hup : s.isUp .sup = true := h.1.1
  have up (x : Engine) : (s.setEngine x).isUp .sup = true := hup
  rw [exec_suspend h, takeSuspend]
  refine ⟨fun he => ?_, fun he hf => ?_, fun c he => ?_, fun he => ?_, fun c status k f e he hf hno hst hc => ?_⟩
  · rcases he with he | ⟨he, hq⟩
    · simp only [State.setOut_scrub, he]
      exact congrArg Host.Outcome.next (sendPlainDone_eq (up .suspended) tag)
    · have quiet : (s.setOut (.onSup [])).quiet = true := State.quiet_eq_true.2 hq
      simp only [State.setOut_scrub, he, quiet]
      exact congrArg Host.Outcome.next (sendPlainDone_eq (up .suspended) tag)
  · obtain ⟨k, hk⟩ := hf
    have quiet : (s.setOut (.onSup [])).quiet = false := State.quiet_eq_false hk
    simp only [State.setOut_scrub, he, quiet]
    rfl
  · simp only [State.setOut_scrub, he]
    exact congrArg Host.Outcome.next (refuseSup_eq hup ..)
  · simp only [State.setOut_scrub, he]
    exact congrArg Host.Outcome.next (sendPlainDone_eq hup tag)
  · rcases hc with ⟨hm, rfl | rfl⟩ | rfl
    · obtain ⟨ok, hok⟩ : ∃ ok, fillStatus status = some ok := by
        rcases hst with rfl | rfl
        · exact ⟨true, rfl⟩
        · exact ⟨false, rfl⟩
      exact ⟨_, exec_filled hm hf hok, fillEnds_settling (s := s.setOut (.onMem [])) he hup hno f ok⟩
    · refine ⟨_, ?_, loseMem_settling (s := (s.begin.setLink .mem (.fresh .down))) he hup⟩
      simp only [exec, execCarrierLost, State.isUp_eq_true.1 hm.1]
      rfl
    · exact ⟨_, exec_fillDeadline hf, fillEnds_settling (s := s.begin) he hup hno f false⟩

/-! ## RESUME_SCRUB -/

theorem exec_resume {tag : BitVec 8} (h : s.serves tag) :
    exec (.resumeScrub tag) s = .next (takeResume tag (s.setOut (.onSup []))) := by
  rw [exec_sup rfl h.1]
  exact congrArg Host.Outcome.next (request_served h ..)

/-- An engine with an ACTIVE job that leaves SUSPENDED or SUSPENDING is RUNNING. -/
theorem State.resume_active (ha : s.active = some (i, j)) : s.resume = (s.setEngine .running).drive := by
  have active : (s.setEngine .running).active = some (i, j) := ha
  have next : (s.setEngine .running).startNext = s.setEngine .running := if_neg fun hc => by
    rw [active] at hc
    cases hc.2
  rw [State.resume, if_neg (fun hc => by rw [ha] at hc; cases hc.1), next]

/-- One without an ACTIVE job makes the head of the queue ACTIVE. -/
theorem State.resume_queued {rest : List (Fin 16)} (ha : s.active = none) (hq : s.scrub.queue = i :: rest)
    (hi : s.slot i = .queued j) :
    s.resume =
      (s.setScrub
        { s.scrub with slots := s.scrub.slots.set i (.active j), queue := rest, engine := .running }).drive := by
  have next : (s.setEngine .running).startNext = s.setScrub
      { s.scrub with slots := s.scrub.slots.set i (.active j), queue := rest, engine := .running } := by
    have slot : (s.setEngine .running).slot i = .queued j := hi
    rw [State.startNext, if_pos ⟨rfl, ha⟩]
    simp only [State.setEngine_scrub, hq, slot]
    rfl
  rw [State.resume, if_neg (fun hc => by rw [hq] at hc; cases hc.2), next]

/-- A RUNNING engine that has nothing to send, or its fills to send, and then a message on S. -/
theorem State.drive_sendSup (hup : s.isUp .sup = true) (hr : s.scrub.engine = .running)
    (ha : s.active = some (i, j)) (m : SupMsg) :
    (s.hasScrubbing i j = true → (s.isUp .mem = false ∨ ∀ k, s.fill k ≠ none) → s.drive.sendSup m = s.sendSup m) ∧
      (s.isUp .mem = true → ∀ ps q, s.Sends i j ps q → s.drive.sendSup m = (s.sendSup m).filling i j ps q) := by
  refine ⟨fun hs hn => ?_, fun hm ps q h => by rw [State.drive_of_sends hr hm ha h, State.filling_sendSup hup]⟩
  have still : s.sendFills = s := by
    rcases hn with hn | hn
    · exact State.sendFills_of_not_up hn
    · exact State.sendFills_full hn
  rw [State.drive_of_busy s still ha (.inl hs)]

/-- Settles O42. -/
theorem resumeScrub : Obligations.ResumeScrub := by
  unfold Obligations.ResumeScrub
  intro tag s h
  have hup : s.isUp .sup = true := h.1.1
  have answers {u t : State} {i : Fin 16} {j : Job} (hu : u.isUp .sup = true) (hr : u.scrub.engine = .running)
      (ha : u.active = some (i, j)) (ht : u.sendPlainDone tag = t) :
      (u.hasScrubbing i j = true → (u.isUp .mem = false ∨ ∀ k, u.fill k ≠ none) →
        (Host.Outcome.next (u.drive.sendPlainDone tag) : Answer) = .next t) ∧
      (u.isUp .mem = true → ∀ ps q, u.Sends i j ps q →
        (Host.Outcome.next (u.drive.sendPlainDone tag) : Answer) = .next (t.filling i j ps q)) := by
    obtain ⟨h1, h2⟩ := State.drive_sendSup hu hr ha (.done tag .applied none (noneOf 8) none none)
    subst ht
    exact ⟨fun hs hn => congrArg Host.Outcome.next (h1 hs hn),
      fun hm ps q hq => congrArg Host.Outcome.next (h2 hm ps q hq)⟩
  rw [exec_resume h, takeResume]
  refine ⟨fun he => ?_, fun he ha hq => ?_, fun i j ha t ht => ?_, fun i rest j he ha hq hi t ht => ?_⟩
  · rcases he with he | he
    · simp only [State.setOut_scrub, he]
      exact congrArg Host.Outcome.next (sendPlainDone_eq hup tag)
    · simp only [State.setOut_scrub, he]
      exact congrArg Host.Outcome.next (sendPlainDone_eq hup tag)
  · have idle : (s.setOut (.onSup [])).resume = (s.setOut (.onSup [])).setEngine .idle := if_pos ⟨ha, hq⟩
    simp only [State.setOut_scrub, he, idle]
    exact congrArg Host.Outcome.next (sendPlainDone_eq (s := s.setEngine .idle) hup tag)
  · rcases ht with ⟨he, rfl⟩ | ⟨c, he, rfl⟩
    · simp only [State.setOut_scrub, he, State.resume_active (s := s.setOut (.onSup [])) ha]
      obtain ⟨h1, h2⟩ := answers (u := (s.setOut (.onSup [])).setEngine .running) hup rfl ha
        (sendPlainDone_eq (s := s.setEngine .running) hup tag)
      exact ⟨h1, fun hm ps q hs => h2 hm ps q (hs.of_eq rfl rfl)⟩
    · have freed : (s.setOut (.onSup [])).finish c .abandoned none (noneOf 8) none =
          (s.freeTag c).setOut (.onSup [.done c .abandoned none (noneOf 8) none none]) :=
        State.setOut_sendSup (s := s.freeTag c) hup [] _
      simp only [State.setOut_scrub, he, freed]
      rw [State.resume_active (by exact ha)]
      obtain ⟨h1, h2⟩ := answers
        (u := ((s.freeTag c).setOut (.onSup [.done c .abandoned none (noneOf 8) none none])).setEngine .running)
        hup rfl ha (State.setOut_sendSup (s := (s.freeTag c).setEngine .running) hup
          [.done c .abandoned none (noneOf 8) none none] (.done tag .applied none (noneOf 8) none none))
      exact ⟨h1, fun hm ps q hs => h2 hm ps q (hs.of_eq rfl rfl)⟩
  · subst ht
    simp only [State.setOut_scrub, he, State.resume_queued (s := s.setOut (.onSup [])) ha hq hi]
    set x : Scrub := { s.scrub with slots := s.scrub.slots.set i (.active j), queue := rest, engine := .running }
    obtain ⟨h1, h2⟩ := answers (u := (s.setOut (.onSup [])).setScrub x) hup rfl (State.active_of_none ha i j)
      (sendPlainDone_eq (s := s.setScrub x) hup tag)
    exact ⟨fun hs hm => h1 hs (.inl hm), fun hm ps q hs => h2 hm ps q (hs.of_eq rfl rfl)⟩

/-! ## The loss of M -/

theorem State.settleSuspend_of_not (h : ∀ c, s.scrub.engine ≠ .suspending c) : s.settleSuspend = s := by
  unfold State.settleSuspend
  split
  · rename_i c hc
    exact absurd hc (h c)
  · rfl

/-- The engine as the loss of M leaves it while a job is ACTIVE (R128). -/
def State.rewound (s : State) (i : Fin 16) (j : Job) : Scrub :=
  { s.scrub with
    slots := s.scrub.slots.set i (.active
      { j with
        position :=
          match s.earliestFill with
          | none => j.position
          | some f => some { second := !j.first.covers f.frame, frame := f.frame, block := f.block } })
    fills := Vector.replicate 4 none }

theorem State.loseMem_of_scrubbing (hm : s.isUp .mem = false) (ha : s.active = some (i, j))
    (hs : s.hasScrubbing i j = true) (he : ∀ c, s.scrub.engine ≠ .suspending c) :
    s.loseMem = s.setScrub (s.rewound i j) := by
  have forgotten {p : Option Position} {u : State}
      (hu : u = s.setScrub
        { s.scrub with slots := s.scrub.slots.set i (.active { j with position := p }), fills := Vector.replicate 4 none }) :
      u.afterFill = u := by
    subst hu
    have still := State.sendFills_of_not_up
      (s := s.setScrub
        { s.scrub with slots := s.scrub.slots.set i (.active { j with position := p }), fills := Vector.replicate 4 none })
      hm
    rw [State.afterFill, State.drive_of_busy _ still (State.active_setSlot_active ha _) (.inl hs)]
    exact State.settleSuspend_of_not he
  unfold State.loseMem State.rewound
  simp only [ha]
  cases hf : s.earliestFill with
  | none =>
    have slots := vector_set_get s.scrub.slots i
    rw [show s.scrub.slots[i] = .active j from State.slot_of_active ha] at slots
    dsimp only
    have := forgotten (p := j.position) rfl
    rw [show ({ j with position := j.position } : Job) = j from rfl, slots] at this ⊢
    exact this
  | some f => exact forgotten rfl

/-- Settles O10. -/
theorem lossOfTheMemoryLink : Obligations.LossOfTheMemoryLink := by
  unfold Obligations.LossOfTheMemoryLink
  intro c s i j hup ha hs he rewound hr
  have hr : rewound = s.rewound i j := hr
  subst hr
  constructor
  · simp only [exec, execLinkError, hup]
    exact congrArg Host.Outcome.next (State.loseMem_of_scrubbing
      (s := { s.setLink .mem { state := .training, credits := 8, buffer := [] } with out := .trains .mem }) rfl ha hs he)
  · simp only [exec, execCarrierLost, State.isUp_eq_true.1 hup]
    exact congrArg Host.Outcome.next (State.loseMem_of_scrubbing
      (s := { s.setLink .mem { state := .down, credits := 8, buffer := [] } with out := .nothing }) rfl ha hs he)

/-! ## The ends of fills -/

theorem EngineOnly.rest (h : EngineOnly s t) :
    t =
      { s with
        scrub := t.scrub, tags := t.tags, outbox := t.outbox, credit := t.credit, noticeN := t.noticeN
        out := t.out } := by
  ext1
  case windows => exact h.windows
  case tables => exact h.tables
  case ports => exact h.ports
  case fenceN => exact h.fenceN
  case park => exact h.park
  case entries => exact h.entries
  case groups => exact h.groups
  case frames => exact h.frames
  case device => exact h.device
  case links => exact h.links
  case resetN => exact h.resetN
  case carrier => exact h.carrier
  case behind => exact h.behind
  case pending => exact h.pending
  all_goals rfl

theorem FinSet.add_all {j : Job} {f : Fill} :
    (List.finRange 16).all (fun c => ((j.filled f.frame).add f.block)[c]) = true ↔ j.lastBlock f := by
  rw [List.all_eq_true]
  refine ⟨fun h c => ?_, fun h c _ => ?_⟩
  · have := h c (List.mem_finRange c)
    rw [FinSet.get_add] at this
    simpa using this
  · rw [FinSet.get_add]
    simpa using h c

/-- The fill id of an ended fill is free, and the ACTIVE job is j. -/
def State.filled (s : State) (k : Fin 4) (i : Fin 16) (j : Job) : State :=
  (s.setFill k none).setSlot i (.active j)

theorem State.filled_active (ha : s.active = some (i, j)) (k : Fin 4) (j' : Job) :
    (s.filled k i j').active = some (i, j') := State.active_setSlot_active (s := s.setFill k none) ha j'

/-- A block counted that is not its frame's last (R120). -/
theorem State.fillEnds_count {f : Fill} (h : s.scrubs f i j) (hl : ¬j.lastBlock f) (k : Fin 4) :
    s.fillEnds k f true =
      (s.filled k i
        { j with tally := sparseSet (noneOf 16) j.tally f.frame ((j.filled f.frame).set f.block true) }).afterFill := by
  obtain ⟨ha, hf⟩ := h
  have active : (s.setFill k none).active = some (i, j) := ha
  unfold State.fillEnds State.countBlock
  simp only [active]
  rw [if_pos (by exact hf), if_pos trivial, if_neg fun hc => hl (FinSet.add_all.1 hc)]
  rfl

/-- The last block of a frame counted (R120). -/
theorem State.fillEnds_free {f : Fill} (h : s.scrubs f i j) (hl : j.lastBlock f) (k : Fin 4) :
    s.fillEnds k f true =
      ((s.setFrames (sparseSet .free s.frames f.frame .free)).filled k i
        { j with
          tally := sparseSet (noneOf 16) j.tally f.frame (noneOf 16)
          freed := j.freed + 1 }).afterFill := by
  obtain ⟨ha, hf⟩ := h
  have active : (s.setFill k none).active = some (i, j) := ha
  unfold State.fillEnds State.countBlock
  simp only [active]
  rw [if_pos (by exact hf), if_pos trivial, if_pos (FinSet.add_all.2 hl)]
  rfl

/-- A failed fill of a frame in which the position does not stand (R121). -/
theorem State.fillEnds_quarantine {f : Fill} (h : s.scrubs f i j) (k : Fin 4) :
    ∃ q, s.fillEnds k f false =
        ((s.setFrames (sparseSet .free s.frames f.frame .quarantined)).filled k i
          { j with
            tally := sparseSet (noneOf 16) j.tally f.frame (noneOf 16)
            quarantined := j.quarantined + 1
            position := q }).afterFill ∧
      ((∀ p ∈ j.position, p.frame ≠ f.frame) → q = j.position) := by
  obtain ⟨ha, hf⟩ := h
  have active : (s.setFill k none).active = some (i, j) := ha
  unfold State.fillEnds State.quarantine
  simp only [active]
  rw [if_pos (by exact hf), if_neg (by decide)]
  refine ⟨_, rfl, fun hp => ?_⟩
  cases hj : j.position with
  | none => rfl
  | some p => exact if_neg (hp p hj)

/-- A fill of a frame that is not SCRUBBING for the ACTIVE job (R107). -/
theorem State.fillEnds_aside {f : Fill} (h : ∀ i j, ¬s.scrubs f i j) (k : Fin 4) (ok : Bool) :
    s.fillEnds k f ok = (s.setFill k none).afterFill := by
  unfold State.fillEnds
  dsimp only
  congr 1
  split
  · rfl
  · rename_i i j ha
    exact if_neg fun hf => h i j ⟨ha, hf⟩

/-- What the end of a fill leaves of everything but the engine: one frame written, or none. -/
theorem State.fillEnds_frames (m : Sparse FrameState) {u : State}
    (hu : u = { s with frames := u.frames, scrub := u.scrub }) (hm : u.frames = m) :
    u.afterFill.frames = m ∧ u.afterFill =
      { s with
        frames := u.afterFill.frames, scrub := u.afterFill.scrub, tags := u.afterFill.tags
        outbox := u.afterFill.outbox, credit := u.afterFill.credit, noticeN := u.afterFill.noticeN
        out := u.afterFill.out } := by
  have e := u.afterFill_engineOnly
  have frames : u.afterFill.frames = m := e.frames.trans hm
  refine ⟨frames, ?_⟩
  have rest := e.rest
  generalize u.afterFill = v at e rest ⊢
  rw [e.frames]
  rw [hu] at rest
  exact rest

theorem State.frameEnds_written {f : Fill} {x : FrameState} {cond : Job → Prop} (h : s.scrubs f i j) (hc : cond j)
    {u : State} (hu : u = { s with frames := u.frames, scrub := u.scrub })
    (hm : u.frames = sparseSet .free s.frames f.frame x) : s.FrameEnds u.afterFill f x cond := by
  obtain ⟨frames, rest⟩ := State.fillEnds_frames _ hu hm
  have frame (g : Nat) : u.afterFill.frame g = if g = f.frame then x else s.frame g := by
    rw [State.frame, frames, sparseGet_set]
    rfl
  refine ⟨fun g hg => (frame g).trans (if_neg hg), fun _ _ _ _ => (frame _).trans (if_pos rfl), fun hn => ?_, rest⟩
  exact absurd hc (hn i j h)

theorem State.frameEnds_kept {f : Fill} {x : FrameState} {cond : Job → Prop}
    (hn : ∀ i j, s.scrubs f i j → ¬cond j) {u : State} (hu : u = { s with frames := u.frames, scrub := u.scrub })
    (hm : u.frames = s.frames) : s.FrameEnds u.afterFill f x cond := by
  obtain ⟨frames, rest⟩ := State.fillEnds_frames _ hu hm
  have frame (g : Nat) : u.afterFill.frame g = s.frame g := by rw [State.frame, frames]; rfl
  exact ⟨fun g _ => frame g, fun i j hs hc => absurd hc (hn i j hs), fun _ => frame _, rest⟩

theorem State.scrubs_unique {f : Fill} {i' : Fin 16} {j' : Job} (h : s.scrubs f i j) (h' : s.scrubs f i' j') :
    j' = j := by
  have := h.1.symm.trans h'.1
  simp only [Option.some.injEq, Prod.mk.injEq] at this
  exact this.2.symm

theorem fillEnds_ok (k : Fin 4) (f : Fill) : s.FrameEnds (s.fillEnds k f true) f .free fun j => j.lastBlock f := by
  by_cases h : ∃ i j, s.scrubs f i j
  · obtain ⟨i, j, hs⟩ := h
    by_cases hl : j.lastBlock f
    · rw [State.fillEnds_free hs hl]
      exact State.frameEnds_written hs hl rfl rfl
    · rw [State.fillEnds_count hs hl]
      exact State.frameEnds_kept (fun i' j' hs' => State.scrubs_unique hs hs' ▸ hl) rfl rfl
  · rw [State.fillEnds_aside fun i j hs => h ⟨i, j, hs⟩]
    exact State.frameEnds_kept (fun i j hs _ => h ⟨i, j, hs⟩) rfl rfl

theorem fillEnds_failed (k : Fin 4) (f : Fill) : s.FrameEnds (s.fillEnds k f false) f .quarantined fun _ => True := by
  by_cases h : ∃ i j, s.scrubs f i j
  · obtain ⟨i, j, hs⟩ := h
    obtain ⟨q, he, -⟩ := State.fillEnds_quarantine hs k
    rw [he]
    exact State.frameEnds_written hs trivial rfl rfl
  · rw [State.fillEnds_aside fun i j hs => h ⟨i, j, hs⟩]
    exact State.frameEnds_kept (fun i j hs _ => h ⟨i, j, hs⟩) rfl rfl

/-- The statement about the frames does not read what the action has sent. -/
theorem State.FrameEnds.setOut {o : Outputs} {f : Fill} {x : FrameState} {cond : Job → Prop}
    (h : (s.setOut o).FrameEnds t f x cond) : s.FrameEnds t f x cond := ⟨h.others, h.moved, h.kept, h.rest⟩

/-- Settles O43. -/
theorem fillsMoveFrames : Obligations.FillsMoveFrames := by
  unfold Obligations.FillsMoveFrames
  intro k f s hf
  refine ⟨fun hm => ⟨⟨_, exec_filled hm hf (ok := true) rfl, ?_⟩, ⟨_, exec_filled hm hf (ok := false) rfl, ?_⟩⟩,
    ⟨_, exec_fillDeadline hf, ?_⟩⟩
  · exact (fillEnds_ok k f).setOut
  · exact (fillEnds_failed k f).setOut
  · exact (fillEnds_failed (s := s.begin) k f).setOut

/-! ### What follows the end of a fill -/

theorem State.settleSuspend_of_fill {k : Fin 4} (h : s.fill k ≠ none) : s.settleSuspend = s := by
  unfold State.settleSuspend
  rw [State.quiet_eq_false h]
  split <;> rfl

/-- While another fill is in flight and none can be sent, nothing follows (R120). -/
theorem State.afterFill_of_fill (ha : s.active = some (i, j)) {k : Fin 4} (hk : s.fill k ≠ none)
    (h : s.scrub.engine ≠ .running ∨ s.isUp .mem = false) : s.afterFill = s := by
  have still : s.sendFills = s := by
    rcases h with h | h
    · exact s.sendFills_of_not_running h
    · exact State.sendFills_of_not_up h
  rw [State.afterFill, State.drive_of_busy s still ha (.inr (State.quiet_eq_false hk)),
    State.settleSuspend_of_fill hk]

theorem State.afterFill_of_sends (hr : s.scrub.engine = .running) (hm : s.isUp .mem = true)
    (ha : s.active = some (i, j)) {ps : List Position} {q : Option Position} (h : s.Sends i j ps q) :
    s.afterFill = s.filling i j ps q := by
  rw [State.afterFill, State.drive_of_sends hr hm ha h]
  refine State.settleSuspend_of_not fun c hc => ?_
  have : (s.filling i j ps q).scrub.engine = s.scrub.engine := rfl
  rw [this, hr] at hc
  cases hc

/-- Settles O44. -/
theorem fillsCount : Obligations.FillsCount := by
  unfold Obligations.FillsCount
  intro k k' f i j s hf hkk hk' hs c o j' x hc t ht
  have exec_eq : exec c s = .next t.afterFill := by
    subst ht
    rcases hc with ⟨rfl, hm, rfl, h⟩ | ⟨h, hp, rfl, rfl⟩
    · rw [exec_filled hm hf (ok := true) rfl]
      rcases h with ⟨hl, rfl, rfl⟩ | ⟨hl, rfl, rfl⟩
      · exact congrArg Host.Outcome.next (State.fillEnds_count (s := s.setOut (.onMem [])) hs hl k)
      · exact congrArg Host.Outcome.next (State.fillEnds_free (s := s.setOut (.onMem [])) hs hl k)
    · have failed (o : Outputs) : (s.setOut o).fillEnds k f false =
          (((s.setOut o).setFrames (sparseSet .free s.frames f.frame .quarantined)).filled k i
            { j with
              tally := sparseSet (noneOf 16) j.tally f.frame (noneOf 16)
              quarantined := j.quarantined + 1 }).afterFill := by
        obtain ⟨q, he, hq⟩ := State.fillEnds_quarantine (s := s.setOut o) hs k
        rw [he, hq hp]
        rfl
      rcases h with ⟨rfl, hm, rfl⟩ | ⟨rfl, rfl⟩
      · rw [exec_filled hm hf (ok := false) rfl, failed]
        rfl
      · rw [exec_fillDeadline hf]
        exact congrArg Host.Outcome.next (failed .nothing)
  have active : t.active = some (i, j') := ht ▸ State.filled_active (s := s) hs.1 k j'
  have fill : t.fill k' ≠ none := by
    subst ht
    have : (s.setFill k none).fill k' = s.fill k' := by rw [State.fill_setFill, if_neg hkk]
    exact fun h => hk' (this.symm.trans h)
  have engine : t.scrub.engine = s.scrub.engine := ht ▸ rfl
  have up : t.isUp .mem = s.isUp .mem := ht ▸ rfl
  rw [exec_eq, ← engine, ← up]
  exact ⟨fun h => congrArg Host.Outcome.next (State.afterFill_of_fill active fill h),
    fun hr hm ps q h => congrArg Host.Outcome.next (State.afterFill_of_sends hr hm active h)⟩

/-! ### The end of a job -/

theorem sparseGet_of_mem {α : Type} {d v : α} {k : Nat} : ∀ {t : Sparse α}, SparseWf d t → (k, v) ∈ t → sparseGet d t k = v
  | (j, u) :: t, hw, h => by
    obtain ⟨hlt, ht⟩ := List.pairwise_cons.1 hw.1
    unfold sparseGet
    rcases List.mem_cons.1 h with h | h
    · cases h
      exact if_pos rfl
    · have : k ≠ j := Nat.ne_of_gt (hlt _ h)
      rw [if_neg this]
      exact sparseGet_of_mem ⟨ht, fun p hp => hw.2 p (List.mem_cons_of_mem _ hp)⟩ h

/-- No frame of the job's runs is SCRUBBING for its slot. -/
theorem State.hasScrubbing_eq_false (hw : SparseWf .free s.frames)
    (h : ∀ g, s.frame g = .scrubbing i → j.covers g = false) : s.hasScrubbing i j = false := by
  refine List.any_eq_false.2 fun p hp => ?_
  obtain ⟨g, y⟩ := p
  have hg : s.frame g = y := sparseGet_of_mem hw hp
  by_cases hy : y = .scrubbing i
  · simp [h g (hg.trans hy)]
  · simp [hy]

theorem State.postScrub_of_mute (h : s.mute) (n : Notice) :
    s.postScrub n = { s with outbox := s.outbox ++ [n], noticeN := false } := by
  unfold State.postScrub
  rw [deliver_mute (by exact h)]
  simp [State.setOutbox]

/-- The end of a job whose frames are done (R123). -/
theorem State.endJob_done (ha : s.active = some (i, j)) (hs : s.hasScrubbing i j = false) (hq : ∀ k, s.fill k = none) :
    s.endJob = some ((s.setSlot i (.ended j)).postScrub (j.notice i)).startNext := by
  unfold State.endJob
  simp only [ha, hs, State.quiet_eq_true.2 hq]
  rfl

theorem runEngine_of_no_job (h : s.active = none) (n : Nat) : runEngine (n + 1) s = s := by
  have still : s.sendFills = s := by simp [State.sendFills, State.sendOneFill, h]
  have he : s.endJob = none := by simp [State.endJob, h]
  simp only [runEngine, still, he]

/-- The ACTIVE job, all its blocks sent and its last frame done, ends; what then starts goes on (R123). -/
theorem State.afterFill_of_end (ha : s.active = some (i, j)) (hp : j.position = none)
    (hs : s.hasScrubbing i j = false) (hq : ∀ k, s.fill k = none) (hm : s.mute) :
    s.afterFill = (runEngine 16
      ({ s.setSlot i (.ended j) with outbox := s.outbox ++ [j.notice i], noticeN := false } : State).startNext).settleSuspend := by
  have once : s.sendOneFill = s := State.sendOneFill_end ha hp
  have still : s.sendFills = s := by simp only [State.sendFills, once]
  have ended := State.endJob_done ha hs hq
  rw [State.postScrub_of_mute (s := s.setSlot i (.ended j)) hm] at ended
  have : s.drive = runEngine 16
      ({ s.setSlot i (.ended j) with outbox := s.outbox ++ [j.notice i], noticeN := false } : State).startNext := by
    simp only [State.drive, Config.scrubSlots, runEngine, still, ended]
    rfl
  rw [State.afterFill, this]

/-- Settles O45. -/
theorem lastFillEndsTheJob : Obligations.LastFillEndsTheJob := by
  unfold Obligations.LastFillEndsTheJob
  intro k f i j s hm hmute hf hno hr hs hone hpos hl hw hrest t ht
  set j' : Job := { j with tally := sparseSet (noneOf 16) j.tally f.frame (noneOf 16), freed := j.freed + 1 } with hj'
  set u := ((s.setOut (.onMem [])).setFrames (sparseSet .free s.frames f.frame .free)).filled k i j' with hu
  have active : u.active = some (i, j') := State.filled_active (s := s) hs.1 k j'
  have fills : s.scrub.fills.set k none = Vector.replicate 4 none := by
    ext1 n hn
    rw [Vector.getElem_replicate]
    have := State.fill_setFill s k ⟨n, hn⟩ none
    refine this.trans ?_
    split
    · rfl
    · exact hno _ ‹_›
  have quiet (k' : Fin 4) : u.fill k' = none := by
    have : u.fill k' = (s.scrub.fills.set k none)[k'] := rfl
    rw [this, fills]
    simp
  have frame (g : Nat) : u.frame g = if g = f.frame then .free else s.frame g := by
    have := sparseGet_set FrameState.free s.frames f.frame g .free
    exact this
  have done : u.hasScrubbing i j' = false := by
    refine State.hasScrubbing_eq_false (sparseWf_set hw f.frame .free) fun g hg => ?_
    rw [frame] at hg
    split at hg
    · cases hg
    · exact hrest g ‹_› hg
  have ended : ({ u.setSlot i (.ended j') with outbox := u.outbox ++ [j'.notice i], noticeN := false } : State) = t := by
    rw [ht, ← fills]
    simp only [hu, State.filled, State.setSlot, State.setScrub, State.setFill, Vector.set_set]
    rfl
  have exec_eq : exec (.filled 1 (BitVec.ofNat 2 k) f.seq) s = .next (runEngine 16 t.startNext).settleSuspend := by
    rw [exec_filled hm hf (ok := true) rfl, State.fillEnds_free (s := s.setOut (.onMem [])) hs hl k, ← ended]
    exact congrArg Host.Outcome.next (State.afterFill_of_end active hpos done quiet hmute)
  have slot (c : Fin 16) : t.slot c = if c = i then .ended j' else s.slot c := by
    rw [ht]
    exact vector_get_set ..
  have none : t.active = none := State.active_eq_none.2 fun i' j'' hi => by
    rw [slot] at hi
    split at hi
    · cases hi
    · exact absurd (hone i' j'' hi) ‹_›
  have engine : t.scrub.engine = .running := ht ▸ hr
  have queue : t.scrub.queue = s.scrub.queue := ht ▸ rfl
  rw [exec_eq, State.startNext, if_pos ⟨engine, none⟩, queue]
  refine ⟨fun hq => ?_, fun i' rest j'' hq hi u' hu' ps q hsend => ?_⟩
  · simp only [hq]
    rw [runEngine_of_no_job (by exact none) 15]
    exact congrArg Host.Outcome.next (State.settleSuspend_of_not fun c hc => by cases hc)
  · have queued : t.slot i' = .queued j'' := by
      have : i' ≠ i := by
        rintro rfl
        rw [State.slot_of_active hs.1] at hi
        cases hi
      rw [slot, if_neg this, hi]
    have next : (t.setScrub { t.scrub with queue := rest }).setSlot i' (.active j'') = u' := hu' ▸ rfl
    simp only [hq, queued, next]
    have active' : u'.active = some (i', j'') := by
      rw [← next]
      exact State.active_of_none (s := t.setScrub { t.scrub with queue := rest }) none i' j''
    have engine' : u'.scrub.engine = .running := hu' ▸ engine
    have up' : u'.isUp .mem = true := by
      rw [← next, ht]
      exact hm.1
    rw [runEngine_of_sends 15 engine' up' active' hsend]
    refine congrArg Host.Outcome.next (State.settleSuspend_of_not fun c hc => ?_)
    have : (u'.filling i' j'' ps q).scrub.engine = u'.scrub.engine := rfl
    rw [this, engine'] at hc
    cases hc

end Sys2Proof.Machine
end

section
/-!
PROOFS of O46 and O47: CONFIGURE with its initial scrub, and the delivery of notices.
-/

namespace Sys2Proof.Machine

variable {s t : State} {i : Fin 16} {j : Job}

/-! ## CONFIGURE -/

theorem exec_configure {tag : BitVec 8} (h : s.receives .sup) (ht : s.tagInUse tag = false) (n d : Word) (o : Bool)
    (u : BitVec 8) (pattern : Word) :
    exec (.configure tag n d o u pattern) s =
      .next (takeConfigure tag (checkConfiguration n d o u pattern) (s.setOut (.onSup []))) := by
  rw [exec_sup rfl h]
  exact congrArg Host.Outcome.next (request_exempt (s := s.setOut (.onSup [])) ht ..)

theorem checkConfiguration_none {n d : Word} {u : BitVec 8}
    (h : n.toNat < 1 ∨ 65536 < n.toNat ∨ d.toNat < 1 ∨ 10000 < d.toNat ∨ u.toNat < 1 ∨ 100 < u.toNat) (o : Bool)
    (pattern : Word) : checkConfiguration n d o u pattern = none := by
  refine if_neg ?_
  simp only [Config.maxConfiguredFrames, Config.maxRecallDeadline, Config.maxFillDeadline]
  omega

theorem checkConfiguration_some {n d : Word} {u : BitVec 8} (hn : 1 ≤ n.toNat) (hn' : n.toNat ≤ 65536)
    (hd : 1 ≤ d.toNat) (hd' : d.toNat ≤ 10000) (hu : 1 ≤ u.toNat) (hu' : u.toNat ≤ 100) (o : Bool) (pattern : Word) :
    checkConfiguration n d o u pattern =
      some
        { frameCount := n.toNat, recallDeadline := d.toNat, fillDeadline := u.toNat, pattern := pattern
          initialScrub := o } := by
  refine if_pos ?_
  simp only [Config.maxConfiguredFrames, Config.maxRecallDeadline, Config.maxFillDeadline]
  omega

theorem takeConfigure_serving (h : s.isServing = true) (tag : BitVec 8) (c : Option Configuration) :
    takeConfigure tag c s = s.refuseSup 0x21 tag .configured := if_pos h

theorem takeConfigure_none (h : s.isServing = false) (tag : BitVec 8) :
    takeConfigure tag none s = s.refuseSup 0x21 tag .badValue := if_neg (by simp [h])

theorem takeConfigure_some (h : s.isServing = false) (tag : BitVec 8) (c : Configuration) :
    takeConfigure tag (some c) s =
      (s.configureWith c).sendSup
        (.done tag .applied none (noneOf 8) (if c.initialScrub then some 0 else none) none) := if_neg (by simp [h])

/-- A block of the first frame of the initial job. -/
def firstFrameBlock (b : Fin 16) : Position := { second := false, frame := 0, block := b }

theorem firstFrameBlock_wants {n : Nat} (hn : 1 ≤ n) (hf : s.frame 0 = .scrubbing i) (b : Fin 16) :
    s.wants i (Job.start .initial ⟨0, n⟩) (firstFrameBlock b) := by
  refine ⟨⟨Nat.le_refl 0, by simpa [firstFrameBlock, Job.start] using Nat.pos_of_ne_zero (by omega)⟩, hf, ?_⟩
  exact noneOf_get b

/-- After a block of the first frame comes the next one. -/
theorem firstFrameBlock_next {n : Nat} (hn : 1 ≤ n) (hf : s.frame 0 = .scrubbing i) {b c : Fin 16}
    (hc : c.val = b.val + 1) :
    s.firstWanted i (Job.start .initial ⟨0, n⟩) (firstFrameBlock b).before (some (firstFrameBlock c)) := by
  refine ⟨firstFrameBlock_wants hn hf c, ?_, fun p _ hb hp => ?_⟩
  · exact .inr ⟨rfl, .inr ⟨rfl, by simp [firstFrameBlock, Fin.lt_def, hc]⟩⟩
  · obtain ⟨p2, pf, pb⟩ := p
    cases p2 <;> simp [Position.before, firstFrameBlock] at hb hp
    omega

theorem firstFrameBlock_first {n : Nat} (hn : 1 ≤ n) (hf : s.frame 0 = .scrubbing i) :
    s.firstWanted i (Job.start .initial ⟨0, n⟩) (fun p => ¬p.before (firstFrameBlock 0)) (some (firstFrameBlock 0)) :=
  ⟨firstFrameBlock_wants hn hf 0, Position.before_irrefl _, fun _ _ hb => hb⟩

/-- The blocks 0 to 3 of the first frame. -/
def firstFourBlocks : List Position := [firstFrameBlock 0, firstFrameBlock 1, firstFrameBlock 2, firstFrameBlock 3]

/-- The first four blocks are the fills that a job sends as it starts. -/
theorem initialJob_sends {n : Nat} (hn : 1 ≤ n) (hf : s.frame 0 = .scrubbing i) (hfills : ∀ k, s.fill k = none) :
    s.Sends i (Job.start .initial ⟨0, n⟩)
      firstFourBlocks (some (firstFrameBlock 4)) where
  some := nofun
  order := ⟨firstFrameBlock 0, rfl, (firstFrameBlock_wants hn hf 0).1, firstFrameBlock_first hn hf,
    firstFrameBlock_next hn hf rfl, firstFrameBlock_next hn hf rfl, firstFrameBlock_next hn hf rfl,
    firstFrameBlock_next hn hf rfl⟩
  runs := nofun
  room := by
    have : s.freeIds = List.finRange 4 := List.filter_eq_self.2 fun k _ => by rw [hfills]; rfl
    rw [this]
    exact .inl rfl

theorem fillsOf_firstFourBlocks (h : ∀ k, s.fill k = none) :
    s.fillsOf firstFourBlocks =
      (List.finRange 4).map fun k =>
        (k, { seq := s.scrub.seq + BitVec.ofNat 16 k, frame := 0, block := Fin.ofNat 16 k }) := by
  have free : s.freeIds = List.finRange 4 := List.filter_eq_self.2 fun k _ => by rw [h]; rfl
  unfold State.fillsOf
  rw [free]
  rfl

/-- The engine with the initial job ACTIVE and its first four blocks sent. -/
theorem filling_firstFourBlocks (h : ∀ k, s.fill k = none) (j : Job) (q : Option Position) :
    s.filling i j firstFourBlocks q =
      { s with
        scrub :=
          { s.scrub with
            slots := s.scrub.slots.set i (.active { j with position := q })
            fills := Vector.ofFn fun k =>
              some { seq := s.scrub.seq + BitVec.ofNat 16 k, frame := 0, block := Fin.ofNat 16 k }
            seq := s.scrub.seq + 4 }
        out :=
          { s.out with
            mem := s.out.mem ++ (List.finRange 4).map fun k =>
              { id := k, seq := s.scrub.seq + BitVec.ofNat 16 k, frame := 0, block := Fin.ofNat 16 k
                pattern := s.pattern } } } := by
  unfold State.filling
  rw [fillsOf_firstFourBlocks h, List.map_map]
  have fills : (Vector.ofFn fun k => (((List.finRange 4).map fun k =>
      ((k, { seq := s.scrub.seq + BitVec.ofNat 16 k, frame := 0, block := Fin.ofNat 16 k }) : Fin 4 × Fill)).lookup
        k).or (s.fill k)) = Vector.ofFn fun k =>
      some { seq := s.scrub.seq + BitVec.ofNat 16 k, frame := 0, block := Fin.ofNat 16 k } := by
    congr 1
    funext k
    rw [h k]
    fin_cases k <;> rfl
  rw [fills]
  rfl

theorem started_scrub {q : BitVec 16} (hs : s.scrub = { Scrub.initial with seq := q }) (j : Job) :
    (s.started 0 j).scrub =
      { slots := (Vector.replicate 16 .free).set 0 (.active j), queue := [], engine := .running
        fills := Vector.replicate 4 none, seq := q } := by
  have : (s.started 0 j).scrub = { s.scrub with slots := s.scrub.slots.set 0 (.active j), engine := .running } := rfl
  rw [this, hs]
  rfl

theorem started_fill {q : BitVec 16} (hs : s.scrub = { Scrub.initial with seq := q }) (j : Job) (k : Fin 4) :
    (s.started 0 j).fill k = none := by
  rw [State.fill, started_scrub hs]
  simp

/-- The initial job started by an engine in its reset state, M being UP, and the DONE. -/
theorem sendSup_initial {q : BitVec 16} (hs : s.scrub = { Scrub.initial with seq := q }) (hup : s.isUp .sup = true)
    (ho : s.out = .onSup []) (j : Job) (x : Option Position) (m : SupMsg) :
    ((s.started 0 j).filling 0 j firstFourBlocks x).sendSup m =
      { s with
        scrub :=
          { slots := (Vector.replicate 16 .free).set 0 (.active { j with position := x })
            queue := []
            engine := .running
            fills := Vector.ofFn fun k => some { seq := q + BitVec.ofNat 16 k, frame := 0, block := Fin.ofNat 16 k }
            seq := q + 4 }
        out :=
          { Outputs.onSup [m] with
            mem := (List.finRange 4).map fun k =>
              { id := k, seq := q + BitVec.ofNat 16 k, frame := 0, block := Fin.ofNat 16 k, pattern := s.pattern } } } := by
  have slots (y : ScrubSlot) :
      ((Vector.replicate 16 ScrubSlot.free).set 0 (.active j)).set (0 : Fin 16) y =
        (Vector.replicate 16 ScrubSlot.free).set 0 y := Vector.set_set ..
  have out : (s.started 0 j).out = .onSup [] := ho
  have pattern : (s.started 0 j).pattern = s.pattern := rfl
  rw [filling_firstFourBlocks (started_fill hs j), State.sendSup_of_up (by exact hup), started_scrub hs, out, pattern]
  dsimp only
  rw [slots]
  rfl

/-- Settles O46. -/
theorem configureServes : Obligations.ConfigureServes := by
  unfold Obligations.ConfigureServes
  intro tag n d u pattern s h ht
  have hup : s.isUp .sup = true := h.1
  refine ⟨fun hd o => ?_, fun hdev => ⟨fun hbad o => ?_, fun hn hn' hd hd' hu hu' => ⟨?_, fun q hq => ⟨fun hm => ?_, fun hm => ?_⟩⟩⟩⟩
  · have serving : (s.setOut (.onSup [])).isServing = true := by
      cases hs : s.device with
      | unconfigured => exact absurd hs hd
      | serving c => simp [State.isServing, hs]
    rw [exec_configure h ht, takeConfigure_serving serving]
    exact congrArg Host.Outcome.next (refuseSup_eq hup ..)
  all_goals
    have unserved : (s.setOut (.onSup [])).isServing = false := by simp [State.isServing, hdev]
    rw [exec_configure h ht]
  · rw [checkConfiguration_none hbad, takeConfigure_none unserved]
    exact congrArg Host.Outcome.next (refuseSup_eq hup ..)
  · rw [checkConfiguration_some hn hn' hd hd' hu hu', takeConfigure_some unserved]
    exact congrArg Host.Outcome.next (State.setOut_sendSup (s := (s.setDevice (.serving _)).setFrames []) hup [] _)
  all_goals
    rw [checkConfiguration_some hn hn' hd hd' hu hu', takeConfigure_some unserved]
    set c : Configuration :=
      { frameCount := n.toNat, recallDeadline := d.toNat, fillDeadline := u.toNat, pattern := pattern
        initialScrub := true }
    set v := ((s.setOut (.onSup [])).setDevice (.serving c)).setFrames
      ((List.range n.toNat).map fun f => (f, .scrubbing 0)) with hv
    set J := Job.start .initial ⟨0, n.toNat⟩ with hJ
    have scrub : v.scrub = { Scrub.initial with seq := q } := hq
    have active : v.active = none := State.active_eq_none.2 fun k j hk => by
      have : v.slot k = .free := by
        rw [State.slot, scrub]
        simp [Scrub.initial]
      rw [this] at hk
      cases hk
    have engine : v.scrub.engine = .idle := by rw [scrub]; rfl
    have queue : v.scrub.queue = [] := by rw [scrub]; rfl
    have frame : (v.started 0 J).frame 0 = .scrubbing 0 := (initialFrames_get n.toNat 0).trans (if_pos hn)
    have configured : (s.setOut (.onSup [])).configureWith c = v.enqueue 0 J := rfl
    rw [configured]
  · rw [State.enqueue_idle_up engine active queue hm (initialJob_sends hn frame (started_fill scrub J)),
      sendSup_initial scrub hup rfl]
    rfl
  · rw [State.enqueue_idle_down engine active queue hm
      (State.hasScrubbing_of_frame frame (Job.covers_eq_true.2 (.inl ⟨Nat.le_refl 0, by show 0 < 0 + n.toNat; omega⟩))),
      State.sendSup_of_up (by exact hup)]
    have : v.started 0 J = v.setScrub (v.started 0 J).scrub := rfl
    rw [this, started_scrub scrub]
    rfl

/-! ## NOTICE_CREDIT -/

/-- The delivery of the oldest m notices, but for the slots of the SCRUB notices among them. -/
def State.delivering (s : State) (m : Nat) (slots : Vector ScrubSlot 16) : State :=
  { s with
    credit := s.credit - m
    outbox := s.outbox.drop m
    noticeN := decide (s.outbox.length ≤ m)
    scrub := { s.scrub with slots := slots }
    out := { s.out with sup := s.out.sup ++ (s.outbox.take m).map .notice } }

theorem State.delivering_zero (h : s.noticeN = s.outbox.isEmpty) : s.delivering 0 s.scrub.slots = s := by
  ext1 <;> try rfl
  case noticeN => cases ho : s.outbox <;> simp [State.delivering, h, ho]
  case out => simp [State.delivering]

theorem State.noticeDelivered_slots (s : State) (n : Notice) :
    ∃ w, s.noticeDelivered n = s.setScrub { s.scrub with slots := w } := by
  rcases s.noticeDelivered_cases n with h | ⟨_, _, _, _, _, _, _, -, -, h⟩ <;> exact ⟨_, h⟩

/-- As many of the oldest notices leave as the credit allows, in order. -/
theorem deliver_delivering (l : List Notice) : ∀ s : State, s.isUp .sup = true → s.outbox = l → s.noticeN = l.isEmpty →
    deliver l s = s.delivering (min s.credit l.length) (deliver l s).scrub.slots := by
  induction l with
  | nil =>
    intro s _ ho hn
    rw [show min s.credit ([] : List Notice).length = 0 from Nat.min_zero ..]
    exact (State.delivering_zero (s := s) (by rw [hn, ho])).symm
  | cons n l ih =>
    intro s hs ho hn
    by_cases hc : 0 < s.credit
    · rw [deliver_cons hs hc]
      have hm : min s.credit (n :: l).length = min (s.credit - 1) l.length + 1 := by
        simp only [List.length_cons]
        omega
      rw [ih _ (by simpa using hs) (by simp) (by simp [State.setOutbox]), hm]
      generalize (deliver l _).scrub.slots = v
      obtain ⟨w, hw⟩ :=
        State.noticeDelivered_slots (((s.sendSup (.notice n)).setCredit (s.credit - 1)).setOutbox l) n
      rw [hw, State.sendSup_of_up hs]
      ext1 <;> try rfl
      case outbox => simp [State.delivering, ho]
      case credit => exact Nat.sub_sub .. |>.trans (congrArg _ (Nat.add_comm ..))
      case noticeN => simp [State.delivering, ho]
      case out => simp [State.delivering, ho]
    · have hz : s.credit = 0 := by omega
      rw [show deliver (n :: l) s = s from if_neg (by simp [hz]), hz, Nat.zero_min]
      exact (State.delivering_zero (by rw [hn, ho])).symm

/-- Whether the notice of slot i is a SCRUB notice among those of a list. -/
def ScrubNoticeIn (i : Fin 16) (l : List Notice) : Prop := ∃ o r q x y, .scrub i o r q x y ∈ l

/-- The first of the notices that leave, and those after it. -/
theorem scrubNoticeIn_take_succ {n : Notice} {l : List Notice} {m : Nat} :
    ScrubNoticeIn i ((n :: l).take (m + 1)) ↔ (∃ o r q x y, n = .scrub i o r q x y) ∨ ScrubNoticeIn i (l.take m) := by
  simp only [ScrubNoticeIn, List.take_succ_cons, List.mem_cons, exists_or, eq_comm]

theorem State.noticeDelivered_ended {n : Notice} (hn : ∃ o r q x y, n = .scrub i o r q x y) (hi : s.slot i = .ended j) :
    (s.noticeDelivered n).slot i = .free := by
  obtain ⟨o, r, q, x, y, rfl⟩ := hn
  simp [State.noticeDelivered, hi]

theorem State.noticeDelivered_aside {n : Notice} (hn : (¬∃ o r q x y, n = .scrub i o r q x y) ∨ ∀ j, s.slot i ≠ .ended j) :
    (s.noticeDelivered n).slot i = s.slot i := by
  rcases s.noticeDelivered_cases n with h | ⟨k, o, r, q, x, y, j, hk, hj, h⟩ <;> rw [h]
  rw [State.slot_setSlot, if_neg]
  rintro rfl
  rcases hn with hn | hn
  · exact hn ⟨o, r, q, x, y, hk⟩
  · exact hn j hj

section
variable {n : Notice} {l : List Notice}

/-- The state in which the first notice of the outbox has left. -/
def State.firstDelivered (s : State) (n : Notice) (l : List Notice) : State :=
  (((s.sendSup (.notice n)).setCredit (s.credit - 1)).setOutbox l).noticeDelivered n

theorem State.firstDelivered_isUp : (s.firstDelivered n l).isUp .sup = s.isUp .sup := by
  simp [State.firstDelivered]

theorem State.firstDelivered_count (hc : 0 < s.credit) :
    min s.credit (n :: l).length = min (s.firstDelivered n l).credit l.length + 1 := by
  simp only [State.firstDelivered, State.noticeDelivered_credit, List.length_cons]
  show _ = min (s.credit - 1) l.length + 1
  omega

theorem State.firstDelivered_ended (hn : ∃ o r q x y, n = .scrub i o r q x y) (hi : s.slot i = .ended j) :
    (s.firstDelivered n l).slot i = .free :=
  State.noticeDelivered_ended hn (by simpa using hi)

theorem State.firstDelivered_aside (hn : (¬∃ o r q x y, n = .scrub i o r q x y) ∨ ∀ j, s.slot i ≠ .ended j) :
    (s.firstDelivered n l).slot i = s.slot i :=
  (State.noticeDelivered_aside (hn.imp_right fun h j => by simpa using h j)).trans (by simp)

end

/-- The slot of a SCRUB notice that leaves goes from ENDED to FREE. -/
theorem deliver_slot_free (l : List Notice) : ∀ s : State, s.isUp .sup = true →
    ScrubNoticeIn i (l.take (min s.credit l.length)) → s.slot i = .ended j → (deliver l s).slot i = .free := by
  induction l with
  | nil =>
    intro s _ ⟨_, _, _, _, _, h⟩
    rw [List.take_nil] at h
    exact absurd h List.not_mem_nil
  | cons n l ih =>
    intro s hs hin hi
    by_cases hc : 0 < s.credit
    · rw [State.firstDelivered_count (l := l) (n := n) hc, scrubNoticeIn_take_succ] at hin
      rw [deliver_cons hs hc]
      show (deliver l (s.firstDelivered n l)).slot i = .free
      by_cases hn : ∃ o r q x y, n = .scrub i o r q x y
      · rcases deliver_slot i l (s.firstDelivered n l) with h | ⟨_, h⟩
        · rw [h, State.firstDelivered_ended hn hi]
        · exact h
      · exact ih _ (State.firstDelivered_isUp.trans hs) (hin.resolve_left hn)
          ((State.firstDelivered_aside (.inl hn)).trans hi)
    · rw [show s.credit = 0 by omega, Nat.zero_min] at hin
      obtain ⟨_, _, _, _, _, h⟩ := hin
      exact absurd h List.not_mem_nil

/-- Every other slot stays. -/
theorem deliver_slot_kept (l : List Notice) : ∀ s : State, s.isUp .sup = true →
    (¬ScrubNoticeIn i (l.take (min s.credit l.length)) ∨ ∀ j, s.slot i ≠ .ended j) →
      (deliver l s).slot i = s.slot i := by
  induction l with
  | nil => exact fun _ _ _ => rfl
  | cons n l ih =>
    intro s hs hin
    by_cases hc : 0 < s.credit
    · rw [State.firstDelivered_count (l := l) (n := n) hc, scrubNoticeIn_take_succ, not_or] at hin
      rw [deliver_cons hs hc]
      show (deliver l (s.firstDelivered n l)).slot i = s.slot i
      have first := State.firstDelivered_aside (l := l) (hin.imp_left And.left)
      rw [ih _ (State.firstDelivered_isUp.trans hs) (hin.imp And.right fun h j => by rw [first]; exact h j), first]
    · rw [show deliver (n :: l) s = s from if_neg (by simp [hc])]

theorem exec_noticeCredit {tag : BitVec 8} (h : s.receives .sup) (ht : s.tagInUse tag = false) (n : Word) :
    exec (.noticeCredit tag n) s = .next (takeNoticeCredit tag n (s.setOut (.onSup []))) := by
  rw [exec_sup rfl h]
  exact congrArg Host.Outcome.next (request_exempt (s := s.setOut (.onSup [])) ht ..)

/-- Settles O47. -/
theorem noticeCreditDelivers : Obligations.NoticeCreditDelivers := by
  unfold Obligations.NoticeCreditDelivers
  intro tag n s h ht
  have hup : s.isUp .sup = true := h.1
  refine ⟨fun hn => ?_, fun hn hline c m hc hm => ?_⟩
  · rw [exec_noticeCredit h ht, takeNoticeCredit, if_pos (by exact hn)]
    exact congrArg Host.Outcome.next (refuseSup_eq hup ..)
  · set u : State := { s with
      credit := c, out := .onSup [.done tag .applied none (noneOf 8) none (some c)] } with hu
    have taken : takeNoticeCredit tag n (s.setOut (.onSup [])) = deliver s.outbox u := by
      have credited : ((s.setOut (.onSup [])).setCredit (min (s.credit + n.toNat) 255)).sendSup
          (.done tag .applied none (noneOf 8) none (some (min (s.credit + n.toNat) 255))) = u := by
        rw [State.sendSup_of_up (by exact hup), ← hc]
        rfl
      rw [takeNoticeCredit, if_neg (by exact Nat.not_lt.2 hn)]
      show deliver (State.outbox (State.sendSup _ _)) (State.sendSup _ _) = _
      exact congrArg (fun v : State => deliver v.outbox v) credited
    have line : u.noticeN = u.outbox.isEmpty := by
      rw [Bool.eq_iff_iff, List.isEmpty_iff]
      exact hline
    have delivered := deliver_delivering s.outbox u hup rfl line
    have hm' : m = min u.credit s.outbox.length := hm
    rw [exec_noticeCredit h ht, taken]
    refine ⟨_, rfl, ?_, fun i => ⟨fun o r q x y j hmem hj => ?_, fun hk => ?_⟩⟩
    · rw [hm']
      exact delivered
    · exact deliver_slot_free s.outbox u hup (hm' ▸ ⟨o, r, q, x, y, hmem⟩) hj
    · refine deliver_slot_kept s.outbox u hup (hk.imp_left fun hno => ?_)
      rw [← hm']
      rintro ⟨o, r, q, x, y, hmem⟩
      exact hno o r q x y hmem

end Sys2Proof.Machine
end

section
/-!
PROOFS of O27, O28 and O30: CREATE, the queries, and the checks common to all requests.
-/

namespace Sys2Proof.Machine

variable {s t : State}

/-! ## Rights sets -/

theorem rightsOfCode_code (r : Rights) : rightsOfCode r.code = some r := by cases r <;> rfl

theorem code_rightsOfCode (c : BitVec 2) (hc : c ≠ 3) : ((rightsOfCode c).getD .none).code = c := by
  revert c
  decide

theorem rightsSetOfBits_eq_some {bits : BitVec 16} {r : RightsSet} :
    rightsSetOfBits bits = some r ↔ rightsNamed bits r := by
  unfold rightsSetOfBits rightsNamed
  constructor
  · intro h a
    split at h
    · rename_i hall
      have ha : rightsCodeAt bits a ≠ 3 := by simpa using List.all_eq_true.1 hall a (List.mem_finRange a)
      cases h
      have get : (Vector.ofFn fun a : AgentId => (rightsOfCode (rightsCodeAt bits a)).getD .none)[a] =
          (rightsOfCode (rightsCodeAt bits a)).getD .none := Vector.getElem_ofFn ..
      rw [get, code_rightsOfCode _ ha]
      rfl
    · cases h
  · intro h
    have code (a : AgentId) : rightsCodeAt bits a = r[a].code := h a
    rw [if_pos]
    · congr 1
      refine Vector.ext fun a ha => ?_
      rw [Vector.getElem_ofFn, code ⟨a, ha⟩, rightsOfCode_code]
      rfl
    · rw [List.all_eq_true]
      intro a _
      rw [code a]
      cases r[a] <;> rfl

theorem rightsSetOfBits_eq_none {bits : BitVec 16} : rightsSetOfBits bits = none ↔ ¬∃ r, rightsNamed bits r := by
  simp only [← rightsSetOfBits_eq_some, Option.eq_none_iff_forall_ne_some, not_exists, ne_eq]

theorem storedRights_eq (c : WindowClass) (r : RightsSet) : storedRights c r = c.entries r := by
  cases c with
  | shared => exact Vector.ext fun a ha => (Vector.getElem_ofFn (f := fun b : AgentId => r[b]) ha).symm
  | bound => rfl

theorem windowNumber_of_lt {w : BitVec 16} (h : w.toNat < 4096) : windowNumber w = some w.toNat :=
  windowNumber_eq_some.2 ⟨rfl, h⟩

theorem windowNumber_of_le {w : BitVec 16} (h : 4096 ≤ w.toNat) : windowNumber w = none := if_neg (Nat.not_lt.2 h)

/-! ## CREATE -/

theorem createChecks_setOut (w bits : BitVec 16) (code agent context : BitVec 8) (scrub : Bool) (base count : Word)
    (o : Outputs) :
    createChecks w code scrub agent context bits base count (s.setOut o) =
      createChecks w code scrub agent context bits base count s := rfl

theorem State.setOut_createWindow (w : Nat) (l : LiveFields) (o : Outputs) :
    (s.setOut o).createWindow w l = (s.createWindow w l).setOut o := rfl

theorem State.window_createWindow (w : Nat) (l : LiveFields) (o : Outputs) :
    (((s.createWindow w l).setOut o).window w).generation = (s.window w).generation + 1 :=
  congrArg Window.generation ((sparseGet_set ..).trans (if_pos rfl))

theorem exec_create {tag : BitVec 8} (h : s.serves tag) (w bits : BitVec 16) (code : BitVec 8) (scrub : Bool)
    (agent context : BitVec 8) (base count : Word) :
    exec (.create tag w code scrub agent context bits base count) s = .next
      (match createChecks w code scrub agent context bits base count s with
        | .error e => (s.setOut (.onSup [])).refuseSup 0x22 tag e
        | .ok (w, l) =>
          ((s.setOut (.onSup [])).createWindow w l).sendSup
            (.done tag .applied (some (((s.setOut (.onSup [])).createWindow w l).window w).generation) (noneOf 8) none
              none)) := by
  rw [exec_sup rfl h.1]
  show (Host.Outcome.next (actCreate tag w code scrub agent context bits base count (s.setOut _)) : Answer) = _
  rw [actCreate, request_served h]
  exact congrArg Host.Outcome.next (by rw [createChecks_setOut] <;> rfl)

theorem exec_create_refused {tag : BitVec 8} (h : s.serves tag) {w bits : BitVec 16} {code : BitVec 8} {scrub : Bool}
    {agent context : BitVec 8} {base count : Word} {e : Reason}
    (hc : createChecks w code scrub agent context bits base count s = .error e) :
    exec (.create tag w code scrub agent context bits base count) s = .next
      { s with out := .onSup [.refused 0x22 tag e] } := by
  rw [exec_create h, hc]
  exact congrArg Host.Outcome.next (refuseSup_eq h.1.1 ..)

section
variable {w bits : BitVec 16} {code agent context : BitVec 8} {base count : Word} {r : RightsSet} {c : WindowClass}

theorem knownClass_eq_true : knownClass code = true ↔ code.toNat ≤ 1 := by
  rw [knownClass, Bool.or_eq_true, beq_iff_eq, beq_iff_eq]
  constructor
  · rintro (rfl | rfl) <;> decide
  · intro h
    rcases Nat.le_one_iff_eq_zero_or_eq_one.1 h with h | h
    · exact .inl (BitVec.eq_of_toNat_eq h)
    · exact .inr (BitVec.eq_of_toNat_eq h)

/-- Window, class or rights out of their values. -/
theorem createChecks_fields (h : ¬(w.toNat < 4096 ∧ code.toNat ≤ 1 ∧ ∃ r, rightsNamed bits r)) (scrub : Bool) :
    createChecks w code scrub agent context bits base count s = .error .badValue := by
  unfold createChecks
  split
  · rename_i w' r hw hr
    obtain ⟨rfl, hw⟩ := windowNumber_eq_some.1 hw
    rw [if_pos]
    rw [Bool.not_eq_true', ← Bool.not_eq_true, knownClass_eq_true]
    exact fun hc => h ⟨hw, hc, r, rightsSetOfBits_eq_some.1 hr⟩
  · rfl

/-- The checks that follow on a window number, a class and a rights set within their values. -/
theorem createChecks_of_fields (hw : w.toNat < 4096) (hc : code.toNat ≤ 1) (hr : rightsNamed bits r) (scrub : Bool) :
    createChecks w code scrub agent context bits base count s =
      match checkBinding code agent context with
      | .error e => .error e
      | .ok c =>
        match checkRun s.frameCount 4096 base count with
        | .error e => .error e
        | .ok run =>
          if (s.window w.toNat).live ≠ none then .error .windowInUse
          else if !s.runAll run (· == .free) then .error .framesBusy
          else .ok (w.toNat, { cls := c, run := run, rights := c.entries r, scrub := scrub }) := by
  unfold createChecks
  rw [windowNumber_of_lt hw, rightsSetOfBits_eq_some.2 hr]
  dsimp only
  rw [if_neg (by simpa using knownClass_eq_true.2 hc)]
  simp only [storedRights_eq]
  rfl

/-- The binding named: none for a SHARED window, else an agent and a context within their values. -/
theorem checkBinding_ok (hc : code.toNat ≤ 1) (h : code = 1 → agent.toNat < 8 ∧ context.toNat < 16) :
    ∃ c, checkBinding code agent context = .ok c := by
  unfold checkBinding
  by_cases h0 : code = 0
  · exact ⟨_, if_pos (by simp [h0])⟩
  · have h1 : code = 1 := BitVec.eq_of_toNat_eq (by
      have : code.toNat ≠ 0 := fun h => h0 (BitVec.eq_of_toNat_eq h)
      show code.toNat = 1
      omega)
    obtain ⟨ha, hx⟩ := h h1
    rw [if_neg (fun hc => h0 (beq_iff_eq.1 hc)), fieldBelow_val ha, fieldBelow_val hx]
    exact ⟨_, rfl⟩

theorem checkBinding_eq {b : AgentId} {d : Fin 16} :
    checkBinding 1 (BitVec.ofNat 8 b) (BitVec.ofNat 8 d) = .ok (.bound b d) := by
  unfold checkBinding
  rw [if_neg (by decide), fieldBelow_ofNat b (by norm_num), fieldBelow_ofNat d (by norm_num)]

theorem checkBinding_agent (h : 8 ≤ agent.toNat) : checkBinding 1 agent context = .error .badAgent := by
  unfold checkBinding
  rw [if_neg (by decide), fieldBelow_eq_none.2 h]

theorem checkBinding_context (ha : agent.toNat < 8) (h : 16 ≤ context.toNat) :
    checkBinding 1 agent context = .error .badValue := by
  unfold checkBinding
  rw [if_neg (by decide), fieldBelow_val ha, fieldBelow_eq_none.2 h]

end

/-- Settles O27. -/
theorem createMakesAWindow : Obligations.CreateMakesAWindow := by
  unfold Obligations.CreateMakesAWindow
  refine ⟨fun tag w bits scrub base count r s h hw hr hb hn hn' hrun hlive hfree c code agent context hcls => ?_,
    ?_⟩
  · have bound : checkBinding code agent context = .ok c := by
      rcases hcls with ⟨rfl, rfl⟩ | ⟨b, d, rfl, rfl, rfl, rfl⟩
      · rfl
      · exact checkBinding_eq
    have hcode : code.toNat ≤ 1 := by rcases hcls with ⟨-, rfl⟩ | ⟨_, _, -, rfl, -, -⟩ <;> decide
    have checks : createChecks w code scrub agent context bits base count s =
        .ok (w.toNat, { cls := c, run := ⟨base.toNat, count.toNat⟩, rights := c.entries r, scrub := scrub }) := by
      rw [createChecks_of_fields hw hcode hr, bound]
      dsimp only
      rw [checkRun_eq_ok.2 ⟨hb, hn, hn', hrun, rfl⟩]
      dsimp only
      rw [if_neg (not_not.2 hlive), if_neg]
      simpa using (State.runAll_eq_true (s := s) (ok := (· == .free))).2 fun f hf => beq_iff_eq.2 (hfree f hf)
    rw [exec_create h, checks]
    refine ⟨_, rfl, ?_, fun f => ?_⟩
    · dsimp only
      rw [State.setOut_createWindow, State.setOut_sendSup (by exact h.1.1), State.window_createWindow]
      rfl
    · rw [State.sendSup_frame]
      exact sparseGet_fill ..
  · intro tag w bits scrub base count code agent context s h refused fields binding range
    refine ⟨fun hf => exec_create_refused h (createChecks_fields hf scrub), fun ⟨hw, hc, r, hr⟩ h1 ha => ?_,
      fun ⟨hw, hc, r, hr⟩ h1 ha hx => ?_, fun ⟨hw, hc, r, hr⟩ hb hbase => ?_, fun ⟨hw, hc, r, hr⟩ hb hbase hrange => ?_,
      fun ⟨hw, hc, r, hr⟩ hb hbase ⟨hn, hn', hrun⟩ => ⟨fun hlive => ?_, fun hlive hfree => ?_⟩⟩
    all_goals refine exec_create_refused h ((createChecks_of_fields hw hc hr scrub).trans ?_)
    · rw [h1, checkBinding_agent ha]
    · rw [h1, checkBinding_context ha hx]
    all_goals
      obtain ⟨c, hbound⟩ := checkBinding_ok hc hb
      rw [hbound]
      dsimp only
    · rw [checkRun_badValue hbase]
    · rw [checkRun_badRange hbase (by omega)]
    all_goals
      rw [checkRun_eq_ok.2 ⟨hbase, hn, hn', hrun, rfl⟩]
      dsimp only
    · rw [if_pos hlive]
    · rw [if_neg (not_not.2 hlive), if_pos]
      obtain ⟨f, hf, hne⟩ := hfree
      rw [Bool.not_eq_true', ← Bool.not_eq_true, State.runAll_eq_true]
      exact fun hall => hne (beq_iff_eq.1 (hall f hf))

/-! ## The queries -/

theorem exec_queryWindow {tag : BitVec 8} (h : s.serves tag) {w : BitVec 16} (hw : w.toNat < 4096) :
    exec (.queryWindow tag w) s =
      .next { s with out := .onSup [.report tag 0 true (.window (s.windowReport w.toNat))] } := by
  rw [exec_sup rfl h.1]
  show (Host.Outcome.next (actQueryWindow tag w (s.setOut _)) : Answer) = _
  rw [actQueryWindow, request_served h]
  rw [windowNumber_of_lt hw]
  exact congrArg Host.Outcome.next (State.setOut_sendSup h.1.1 [] _)

theorem exec_queryWindow_over {tag : BitVec 8} (h : s.serves tag) {w : BitVec 16} (hw : 4096 ≤ w.toNat) :
    exec (.queryWindow tag w) s = .next { s with out := .onSup [.refused 0x2E tag .badValue] } := by
  rw [exec_sup rfl h.1]
  show (Host.Outcome.next (actQueryWindow tag w (s.setOut _)) : Answer) = _
  rw [actQueryWindow, request_served h]
  rw [windowNumber_of_le hw]
  exact congrArg Host.Outcome.next (refuseSup_eq h.1.1 ..)

theorem exec_queryAgent {tag : BitVec 8} (h : s.receives .sup) (ht : s.tagInUse tag = false) (n : BitVec 9) :
    exec (.queryAgent tag n) s = .next
      (withAgent 0x2F tag n (fun a s => s.sendSup (.report tag 0 true (.agent (s.agentReport a))))
        (s.setOut (.onSup []))) := by
  rw [exec_sup rfl h]
  exact congrArg Host.Outcome.next (request_exempt (s := s.setOut (.onSup [])) ht ..)

theorem exec_queryFrames {tag : BitVec 8} (h : s.serves tag) {base count : Word} {r : Run}
    (hr : checkRun s.frameCount 64 base count = .ok r) :
    exec (.queryFrames tag base count) s =
      .next { s with out := .onSup [.report tag 0 true (.frames (s.framesReport r))] } := by
  rw [exec_sup rfl h.1]
  show (Host.Outcome.next (actQueryFrames tag base count (s.setOut _)) : Answer) = _
  rw [actQueryFrames, request_served h]
  rw [show checkRun (s.setOut (.onSup [])).frameCount Config.maxFramesPerQuery base count = .ok r from hr]
  exact congrArg Host.Outcome.next (State.setOut_sendSup h.1.1 [] _)

theorem exec_queryFrames_refused {tag : BitVec 8} (h : s.serves tag) {base count : Word} {e : Reason}
    (hr : checkRun s.frameCount 64 base count = .error e) :
    exec (.queryFrames tag base count) s = .next { s with out := .onSup [.refused 0x30 tag e] } := by
  rw [exec_sup rfl h.1]
  show (Host.Outcome.next (actQueryFrames tag base count (s.setOut _)) : Answer) = _
  rw [actQueryFrames, request_served h]
  rw [show checkRun (s.setOut (.onSup [])).frameCount Config.maxFramesPerQuery base count = .error e from hr]
  exact congrArg Host.Outcome.next (refuseSup_eq h.1.1 ..)

theorem exec_queryScrub {tag : BitVec 8} (h : s.serves tag) :
    exec (.queryScrub tag) s = .next
      { s with
        out := .onSup
          [.report tag 0 false (.scrubLow s.engineReport (s.slotReports.take 8)),
            .report tag 1 true (.scrubHigh (s.slotReports.drop 8))] } := by
  rw [exec_sup rfl h.1]
  show (Host.Outcome.next (actQueryScrub tag (s.setOut _)) : Answer) = _
  rw [actQueryScrub, request_served h]
  rw [State.setOut_sendSup h.1.1]
  exact congrArg Host.Outcome.next (State.setOut_sendSup h.1.1 _ _)

/-- The pending items of the report of a window whose change is entry e. -/
theorem State.pendingReport_of_entry {w : Nat} {e : Fin 16} {x : Entry} (hp : (s.window w).pending = some e)
    (he : s.entry e = some x) :
    s.pendingReport w =
      some
        { entry := e, retire := decide (x.kind = .retire), tag := x.tag, group := x.group
          awaited := if x.state = .held then none else some x.awaited } := by
  have retire : (x.kind == .retire) = decide (x.kind = .retire) := rfl
  have inRound : (if x.inRound then some x.awaited else none) = if x.state = .held then none else some x.awaited := by
    unfold Entry.inRound
    cases x.state <;> rfl
  unfold State.pendingReport
  rw [hp]
  dsimp only
  rw [he]
  dsimp only
  rw [retire, inRound]

theorem State.pendingReport_none {w : Nat} (hp : (s.window w).pending = none) : s.pendingReport w = none := by
  unfold State.pendingReport
  rw [hp]

/-- Settles O28. -/
theorem queriesReport : Obligations.QueriesReport := by
  unfold Obligations.QueriesReport
  refine fun tag s => ⟨fun h w hw => ⟨_, exec_queryWindow h hw, State.pendingReport_none,
      fun e x hp he => State.pendingReport_of_entry hp he⟩,
    fun h ht a => ?_, fun h base count hb hn hn' hr => ?_, fun w h hw => exec_queryWindow_over h hw,
    fun n h ht hn => ?_,
    fun base count h => ⟨fun hb => exec_queryFrames_refused h (checkRun_badValue hb ..),
      fun hb hc => exec_queryFrames_refused h (checkRun_badRange hb hc)⟩,
    fun h record ⟨hfree, hreserved, hjob⟩ => ?_⟩
  · rw [exec_queryAgent h ht, withAgent_ofNat]
    exact congrArg Host.Outcome.next (State.setOut_sendSup h.1 [] _)
  · rw [exec_queryFrames h (checkRun_eq_ok.2 ⟨hb, hn, hn', hr, rfl⟩)]
    rfl
  · rw [exec_queryAgent h ht, withAgent_over hn]
    exact congrArg Host.Outcome.next (refuseSup_eq h.1 ..)
  · have report : record = ScrubSlot.report := by
      funext k
      cases k with
      | free => exact hfree
      | reserved e => exact hreserved e
      | queued j => exact (hjob j).1
      | active j => exact (hjob j).2.1
      | ended j => exact (hjob j).2.2
    rw [exec_queryScrub h, report]
    rfl

/-! ## The common checks -/

section
variable {c : Instr} {kind tag : BitVec 8} {subject : BitVec 9} {body : List Word}

/-- Every supervisor request but RESTART passes the common checks first; three are taken in both device states. -/
theorem act_eq_request (h : commandMessage c = some (.sup, kind, tag, subject, body)) (hw : c.wellFormed = true)
    (hb : bodyWords .sup kind = some body.length) (hk : kind ≠ 0x33#8) :
    ∃ exempt f, act c = request kind tag exempt f ∧ (exempt = true ↔ kind ∈ [0x21#8, 0x2F#8, 0x32#8]) := by
  cases c with
  | unknownKindMessage =>
    cases h
    simp [Instr.wellFormed, hb] at hw
  | restart =>
    cases h
    exact absurd rfl hk
  | lookup | released | returnSlot | flush | switch | join | filled | recallDeadlineExpiry | fillDeadlineExpiry | resetN
  | carrierDetected | parameterWord | carrierLost | linkError | creditReturnWord | messageInTraining | resetNRelease
  | otherControlCodeWord => cases h
  | configure | queryAgent | noticeCredit =>
    cases h
    exact ⟨true, _, rfl, by decide⟩
  | create | change | retire | abandon | groupOpen | groupCommit | groupAbandon | admitAgent | fence | suspendScrub
  | resumeScrub | rescrub | queryWindow | queryFrames | queryScrub =>
    cases h
    exact ⟨false, _, rfl, by decide⟩

theorem request_notConfigured {f : State → State} (hs : s.isServing = false) :
    request kind tag false f s = s.refuseSup kind tag .notConfigured := if_pos (by simp [hs])

theorem request_tagInUse {exempt : Bool} {f : State → State} (hs : exempt = true ∨ s.isServing = true)
    (ht : s.tagInUse tag = true) : request kind tag exempt f s = s.refuseSup kind tag .tagInUse := by
  rw [request, if_neg, if_pos ht]
  rcases hs with hs | hs <;> simp [hs]

end

theorem isServing_eq_false_iff : s.isServing = false ↔ s.device = .unconfigured := by
  unfold State.isServing
  cases s.device <;> simp

/-- Settles O30. -/
theorem commonChecks : Obligations.CommonChecks := by
  unfold Obligations.CommonChecks
  refine ⟨fun kind tag body s => ⟨fun a h => ?_, fun h => ?_, fun h => ?_⟩,
    fun c kind tag subject body s hc hw hb h => ⟨fun hd hk => ?_, fun hd hk ht => ?_⟩⟩
  · rw [exec_agent rfl h]
    exact congrArg Host.Outcome.next (State.setOut_sendAgent h.1 [] _)
  · rw [exec_sup rfl h]
    exact congrArg Host.Outcome.next (refuseSup_eq h.1 ..)
  · rw [exec_mem rfl h]
    rfl
  all_goals
    have hk33 : kind ≠ 0x33#8 := by
      rintro rfl
      simp at hk
    obtain ⟨exempt, f, hf, hex⟩ := act_eq_request hc hw hb hk33
    rw [exec_sup (by rw [hc]; rfl) h, hf]
  · have : exempt = false := Bool.eq_false_iff.2 fun he => hk (by have := hex.1 he; simp at this ⊢; tauto)
    rw [this, request_notConfigured (isServing_eq_false_iff.2 (by exact hd))]
    exact congrArg Host.Outcome.next (refuseSup_eq h.1 ..)
  · rw [request_tagInUse (hd.symm.imp hex.2 fun hd => ?_) (by exact ht)]
    · exact congrArg Host.Outcome.next (refuseSup_eq h.1 ..)
    · exact Bool.not_eq_false _ ▸ fun hs => hd (isServing_eq_false_iff.1 hs)

end Sys2Proof.Machine
end

section
/-!
PROOFS about the acceptance of a CHANGE or RETIRE, whom it affects, and its application: what the model's parts come to
in the terms of the obligations.
-/

namespace Sys2Proof.Machine

variable {s t : State} {e : Fin 16} {x : Entry} {l : LiveFields} {k : ChangeKind} {slot : Option (Fin 16)}

/-! ## Whom a change affects -/

theorem FinSet.eq_of_get {n : Nat} {u v : FinSet n} (h : ∀ i : Fin n, u[i] = v[i]) : u = v :=
  Vector.ext fun i hi => h ⟨i, hi⟩

theorem ChangeKind.affects_eq_true {a : AgentId} {r : Rights} : k.affects l a r = true ↔ k.hits l a r := by
  have lowered (q : Option RightsSet) : ChangeKind.affects.rightsLowered l a r q = true ↔
      ∃ p ∈ q, r.exceeds (l.cls.entries p)[a] = true := by
    cases q <;> simp [ChangeKind.affects.rightsLowered, storedRights_eq]
  match k with
  | .retire => exact iff_of_true rfl trivial
  | .change q none b => exact (lowered q).trans (by simp [ChangeKind.hits])
  | .change q (some n) b =>
    simp only [ChangeKind.affects, ChangeKind.hits]
    split
    · rename_i hn
      exact iff_of_true rfl (.inl ⟨n, rfl, hn⟩)
    · rename_i hn
      exact (lowered q).trans (by simp [not_not.1 hn])

/-- The awaited set when a recall starts: the agents of which a listed holding of the window is affected. -/
theorem State.affectedAgents_get {w : Nat} (hl : (s.window w).live = some l) (a : AgentId) :
    (s.affectedAgents k w)[a] =
      match (s.table a).holding w with
      | some h => k.affects l a h.rights
      | none => false := by
  rw [State.affectedAgents, hl]
  exact Vector.getElem_ofFn ..

theorem State.affectedAgents_eq_false {w : Nat} (hl : (s.window w).live = some l) {a : AgentId}
    (h : ∀ i, ∀ h ∈ s.held a i, h.window = w → ¬k.hits l a h.rights) : (s.affectedAgents k w)[a] = false := by
  rw [State.affectedAgents_get hl, SlotTable.holding]
  cases hn : (s.table a).naming w with
  | none => rfl
  | some i =>
    obtain ⟨y, hy, hw⟩ := SlotTable.naming_some hn
    dsimp only
    rw [hy]
    exact Bool.eq_false_iff.2 fun hk => h i y hy hw (ChangeKind.affects_eq_true.1 hk)

theorem State.affectedAgents_empty {w : Nat} (hl : (s.window w).live = some l)
    (h : ∀ a i, ∀ h ∈ s.held a i, h.window = w → ¬k.hits l a h.rights) : (s.affectedAgents k w).empty = true :=
  (FinSet.empty_iff _).2 fun a => State.affectedAgents_eq_false hl (h a)

/-- The slot that names a window listed once. -/
theorem State.Affected.naming {w : Nat} {agents : FinSet 8} {held : AgentId → Fin 64} {p : AgentId → Rights → Prop}
    (h : s.Affected w agents held p) {a : AgentId} (ha : agents[a] = true) : (s.table a).naming w = some (held a) := by
  obtain ⟨y, hy, hw, -⟩ := h.holds a ha
  exact SlotTable.naming_eq hy hw fun j z hz hzw => h.once a j (held a) z hz y hy hzw hw

/-- The affected agents are the awaited set of the recall. -/
theorem State.Affected.affectedAgents {w : Nat} (hl : (s.window w).live = some l) {agents : FinSet 8}
    {held : AgentId → Fin 64} (h : s.Affected w agents held (k.hits l)) : s.affectedAgents k w = agents := by
  refine FinSet.eq_of_get fun a => ?_
  cases hb : agents[a] with
  | false => exact State.affectedAgents_eq_false hl (h.spared a hb)
  | true =>
    obtain ⟨y, hy, hw, hk⟩ := h.holds a hb
    have holding : (s.table a).holding w = some y := by
      rw [SlotTable.holding, h.naming hb]
      exact hy
    rw [State.affectedAgents_get hl, holding]
    exact ChangeKind.affects_eq_true.2 hk

/-! ## The application of an entry -/

theorem Entry.record_eq (r : Window) : x.kind.applied r l = x.record r l := by
  unfold ChangeKind.applied Entry.record
  match x.kind with
  | .retire => rfl
  | .change none _ _ => rfl
  | .change (some q) _ _ => simp only [LiveFields.changed, storedRights_eq]

theorem Entry.job_eq : releaseJob x.window (x.kind.leaves l) = x.job l := by
  unfold Entry.job releaseJob
  match x.kind.leaves l with
  | [] => rfl
  | [_] => rfl
  | _ :: _ :: _ => rfl

theorem Entry.job_isSome (h : x.kind.leaves l ≠ []) : ∃ j, x.job l = some j := by
  unfold Entry.job
  match hl : x.kind.leaves l with
  | [] => exact absurd hl h
  | _ :: _ => exact ⟨_, rfl⟩

/-- An entry whose slot fits its change queues its job in that slot. -/
theorem Entry.jobSlot_eq (h : x.kind.slotFits l x.scrubSlot) : x.jobSlot l = x.scrubSlot := by
  unfold Entry.jobSlot
  rw [ChangeKind.released_eq_leaves]
  split
  · rfl
  · rename_i hr
    refine (h.2 ?_).symm
    cases hs : l.scrub <;> simp_all

/-- The window's record, frames and job as an application writes them, with its entry free. -/
theorem State.moveFrames_frame (hm : SparseWf .free s.frames) (h : x.kind.slotFits l x.scrubSlot) (f : Nat) :
    (s.moveFrames x l).frame f =
      if ∃ r ∈ x.kind.leaves l, r.has f then x.settled
      else if x.kind.moves l = true ∧ s.frame f = .reserved x.window then .bound x.window else s.frame f := by
  have frames : (s.moveFrames x l).frames = x.framesAfter l s.frames := by
    cases hs : x.scrubSlot with
    | none => rw [State.moveFrames_none (hs ▸ h) hs, State.setFrames]
    | some i =>
      have hi : x.kind.slotFits l (some i) := hs ▸ h
      obtain ⟨j, hj⟩ := Entry.job_isSome hi.releases.2
      rw [State.moveFrames_some hi hs (Entry.job_eq.trans hj)]
      exact (State.enqueue_engineOnly (s.setFrames (x.framesAfter l s.frames)) i j).frames
  rw [State.frame, frames]
  exact Entry.framesAfter_get hm f

theorem State.framesApplied_of_move (hm : SparseWf .free s.frames) (h : x.kind.slotFits l x.scrubSlot)
    {u : State} (hu : u.frames = s.frames) (ht : t.frames = (u.moveFrames x l).frames) : s.framesApplied t x l := by
  intro f
  have : t.frame f = (u.moveFrames x l).frame f := by rw [State.frame, ht]; rfl
  rw [this, State.moveFrames_frame (hu ▸ hm) h, State.frame, hu]
  refine if_congr Iff.rfl rfl (if_congr ?_ rfl rfl)
  rw [ChangeKind.moves_eq_true, and_comm]
  rfl

/-- The record, the frames and the job, the free entry and DONE, of an entry whose slot fits its change. -/
theorem State.applyParts_eq (hl : (s.window x.window).live = some l) (h : x.kind.slotFits l x.scrubSlot) :
    s.applyParts e x =
      (((s.setWindow x.window (x.record (s.window x.window) l)).moveFrames x l).setEntry e none).finish x.tag .applied
        (some ((s.window x.window).generation + 1)) x.lost x.scrubSlot := by
  unfold State.applyParts
  rw [hl]
  dsimp only
  rw [Entry.record_eq, Entry.jobSlot_eq h]
  rfl

/-- The parked lookups, the ports and every other record stay; the window's pending change is absent. -/
theorem State.applyParts_kept (hl : (s.window x.window).live = some l) (h : x.kind.slotFits l x.scrubSlot) :
    (s.applyParts e x).park = s.park ∧ (s.applyParts e x).ports = s.ports ∧
      ((s.applyParts e x).window x.window).pending = none := by
  obtain ⟨m, hm⟩ := (s.setWindow x.window (x.record (s.window x.window) l)).moveFrames_engineOnly x l
  rw [State.applyParts_eq hl h]
  refine ⟨?_, ?_, ?_⟩
  · rw [State.finish, State.sendSup_park]
    exact hm.park
  · rw [State.finish, State.sendSup_ports]
    exact hm.ports
  · have windows : ((s.setWindow x.window (x.record (s.window x.window) l)).moveFrames x l).window x.window =
        x.record (s.window x.window) l := by
      rw [State.window, hm.windows]
      exact (sparseGet_set ..).trans (if_pos rfl)
    rw [State.finish, State.sendSup_window]
    exact congrArg Window.pending windows

/-- The application of an entry that can be applied (R76 to R80). -/
theorem State.Applicable.applies (h : s.Applicable e x l) : s.Applies (s.applyParts e x) e x l := by
  have applied := State.applyParts_eq (e := e) h.live h.fits
  refine ⟨?_, State.framesApplied_of_move h.wf h.fits (u := s.setWindow x.window (x.record (s.window x.window) l)) rfl ?_⟩
  · cases hs : x.scrubSlot with
    | none =>
      rw [hs] at applied
      rw [applied, State.moveFrames_none (hs ▸ h.fits) hs, State.finish, State.sendSup_of_up (by exact h.up)]
      rfl
    | some i =>
      have hi : x.kind.slotFits l (some i) := hs ▸ h.fits
      obtain ⟨j, hj⟩ := Entry.job_isSome hi.releases.2
      have busy : s.scrub.engine ≠ .idle := h.engine.resolve_right (by simp [hs])
      rw [hs] at applied
      rw [applied, State.moveFrames_some hi hs (Entry.job_eq.trans hj), State.enqueue_busy (by exact busy), State.finish,
        State.sendSup_of_up (by exact h.up), hj]
      rfl
  · rw [applied, State.finish]
    simp

theorem State.parkSound_congr (hp : t.park = s.park) (hq : t.ports = s.ports) (h : s.parkSound) : t.parkSound := by
  intro p hp'
  rw [State.port, hq]
  exact h p (hp ▸ hp')

/-- The application of an entry with the re-take of its window's parked lookups. -/
theorem applyEntry_eq (he : s.entry e = some x) (hl : (s.window x.window).live = some l)
    (h : x.kind.slotFits l x.scrubSlot) (hs : s.parkSound) :
    applyEntry cascade none e s = (s.applyParts e x).retaken x.window := by
  obtain ⟨park, ports, pending⟩ := State.applyParts_kept (e := e) hl h
  rw [applyEntry, he, State.retaken_eq (State.parkSound_congr park ports hs) pending]

/-! ## Acceptance -/

/-- Entry e is the first FREE one. -/
theorem State.freeEntry_of_next (h : s.nextEntry e) : s.freeEntry = some e := by
  refine List.find?_eq_some_iff_getElem.2 ⟨by rw [h.1]; rfl, e.val, by simp, by simp, fun d hd => ?_⟩
  have hne := h.2 ⟨d, hd.trans e.2⟩ hd
  have : (List.finRange 16)[d]'(by simp; omega) = ⟨d, hd.trans e.2⟩ := by simp
  rw [this]
  simpa [Option.isSome_iff_ne_none] using hne

theorem State.freeEntry_eq_none (h : ∀ e, s.entry e ≠ none) : s.freeEntry = none :=
  List.find?_eq_none.2 fun e _ => by simpa [Option.isSome_iff_ne_none] using h e

section
variable {w : Nat} {g : Option (Fin 4)}

theorem State.newRunFree_of (h : ∀ r ∈ k.newRun, ∀ f, r.has f → s.frame f = .free ∨ s.frame f = .bound w) :
    s.newRunFree w k = true := by
  match k with
  | .retire => rfl
  | .change _ none _ => rfl
  | .change _ (some r) _ =>
    refine (State.runAll_eq_true (s := s) (ok := fun y => y == .free || y == .bound w)).2 fun f hf => ?_
    rw [Bool.or_eq_true, beq_iff_eq, beq_iff_eq]
    exact h r rfl f hf

theorem State.newRunFree_eq_false (h : ∃ r ∈ k.newRun, ∃ f, r.has f ∧ s.frame f ≠ .free ∧ s.frame f ≠ .bound w) :
    s.newRunFree w k = false := by
  obtain ⟨r, hr, f, hf, h1, h2⟩ := h
  rw [Bool.eq_false_iff]
  exact fun hk => (State.newRunFree_eq_true hk r hr f hf).elim h1 h2

/-- The checks of a request whose window is LIVE and has no pending change, from the group on. -/
theorem State.changeChecks_of_idle (hl : (s.window w).live = some l) (hp : (s.window w).pending = none)
    (hg : s.checkGroup g = none) :
    s.changeChecks ⟨w, g, k⟩ =
      match s.freeEntry with
      | none => .error .changeFull
      | some e =>
        if !s.newRunFree w k then .error .framesBusy
        else if k.needsSlot l then
          match s.freeSlot with
          | none => .error .scrubFull
          | some i => .ok (l, e, some i)
        else .ok (l, e, none) := by
  unfold State.changeChecks
  dsimp only
  rw [hl]
  dsimp only
  rw [if_neg (not_not.2 hp), hg] <;> rfl

theorem State.Admits.checks (h : s.Admits w k l e slot) (hg : s.checkGroup g = none) :
    s.changeChecks ⟨w, g, k⟩ = .ok (l, e, slot) := by
  rw [State.changeChecks_of_idle h.live h.idle hg, State.freeEntry_of_next h.entry]
  dsimp only
  rw [State.newRunFree_of h.frames]
  cases slot with
  | none => rw [ChangeKind.needsSlot_eq_false.2 (h.fits.1 rfl)] <;> rfl
  | some i =>
    have needs : k.needsSlot l = true := by
      rw [← Bool.not_eq_false, ChangeKind.needsSlot_eq_false]
      exact fun hn => nomatch h.fits.2 hn
    rw [needs, State.freeSlot_of_next (h.slot i rfl)] <;> rfl

theorem State.checkGroup_none : s.checkGroup none = none := rfl

theorem State.checkGroup_open {g : Fin 4} (ho : (s.group g).state = .opened) (hm : (s.group g).members.length < 8) :
    s.checkGroup (some g) = none := by
  unfold State.checkGroup
  dsimp only
  rw [if_neg (not_not.2 ho)]
  exact if_neg (Nat.not_le.2 hm)

/-- Every acceptance takes its entry, the window's pending change, the FREE frames of the new run and the slot. -/
theorem State.acceptParts_accepts (tag : BitVec 8) (q : ChangeRequest) (e : Fin 16) (slot : Option (Fin 16)) :
    s.Accepts (s.acceptParts tag q e slot) e (.fresh tag q.window q.kind q.group slot) := by
  cases slot with
  | none =>
    refine ⟨?_, fun f => ?_⟩
    · rw [State.acceptParts_none, State.accepted, State.reserveRun_eq]
      rfl
    · rw [State.acceptParts_none]
      exact State.accepted_frame ..
  | some i =>
    refine ⟨?_, fun f => ?_⟩
    · rw [State.acceptParts_some, State.accepted, State.reserveRun_eq]
      rfl
    · rw [State.acceptParts_some]
      exact State.accepted_frame ..

end

/-! ## A request read -/

theorem optionalField_of {α β : Type} {read : α → Option β} {v : Option α} {r : Option β}
    (h : v = none ∧ r = none ∨ ∃ b q, v = some b ∧ r = some q ∧ read b = some q) : optionalField read v = some r := by
  rcases h with ⟨rfl, rfl⟩ | ⟨b, q, rfl, rfl, hb⟩
  · rfl
  · simp [optionalField, hb]

theorem checkNewRun_of {configured : Nat} {run : Option (Word × Word)} {n : Option Run}
    (h : run = none ∧ n = none ∨
      ∃ base count q, run = some (base, count) ∧ n = some q ∧ runNamed configured base count q) :
    checkNewRun configured run = .ok n := by
  rcases h with ⟨rfl, rfl⟩ | ⟨base, count, q, rfl, rfl, hq⟩
  · rfl
  · simp only [checkNewRun]
    rw [show checkRun configured Config.maxFramesPerWindow base count = .ok q from checkRun_eq_ok.2 hq]

/-- A CHANGE or RETIRE whose fields are within their values. -/
theorem exec_asks {c : Instr} {tag : BitVec 8} {w : BitVec 16} {group : Option (BitVec 8)} {g : Option (Fin 4)}
    (h : s.serves tag) (hw : w.toNat < 4096) (hg : optionalField (fun g => fieldBelow 4 g.toNat) group = some g)
    (hc : s.asks c tag w group k) :
    exec c s = .next (takeChange k.code tag (.ok ⟨w.toNat, g, k⟩) (s.setOut (.onSup []))) := by
  match k with
  | .retire =>
    obtain rfl : c = .retire tag w group := hc
    rw [exec_sup rfl h.1]
    show (Host.Outcome.next (actRetire tag w group (s.setOut _)) : Answer) = _
    rw [actRetire, request_served h, readRetire, windowNumber_of_lt hw, hg]
    rfl
  | .change r n scrub =>
    obtain ⟨bits, run, rfl, hr, hn⟩ := hc
    have rights : optionalField rightsSetOfBits bits = some r :=
      optionalField_of (hr.imp_right fun ⟨b, q, h1, h2, h3⟩ => ⟨b, q, h1, h2, rightsSetOfBits_eq_some.2 h3⟩)
    have newRun : checkNewRun (s.setOut (.onSup [])).frameCount run = .ok n := checkNewRun_of hn
    rw [exec_sup rfl h.1]
    show (Host.Outcome.next (actChange tag w group bits run scrub (s.setOut _)) : Answer) = _
    rw [actChange, request_served h, readChange, windowNumber_of_lt hw, hg, rights]
    dsimp only
    rw [newRun]
    rfl

theorem groupField_none : optionalField (fun g : BitVec 8 => fieldBelow 4 g.toNat) none = some none := rfl

theorem groupField_ofNat (g : Fin 4) :
    optionalField (fun g : BitVec 8 => fieldBelow 4 g.toNat) (some (BitVec.ofNat 8 g)) = some (some g) := by
  simp only [optionalField, fieldBelow_ofNat g (m := 8) (by norm_num)]
  rfl

end Sys2Proof.Machine
end

section
/-!
PROOFS of O31 to O34: a CHANGE or RETIRE that applies at its acceptance, that starts a recall, that joins a group, and
the refusals of its checks.
-/

namespace Sys2Proof.Machine

variable {s t u : State} {e : Fin 16} {x : Entry} {l : LiveFields} {k : ChangeKind} {slot : Option (Fin 16)} {w : Nat} {i : Fin 16}

/-! ## What an acceptance leaves -/

theorem State.Accepts.entry (h : s.Accepts u e x) (d : Fin 16) : u.entry d = if d = e then some x else s.entry d := by
  rw [h.rest]
  exact State.entry_setEntry ..

theorem State.Accepts.window (h : s.Accepts u e x) (v : Nat) :
    u.window v = if v = x.window then { s.window x.window with pending := some e } else s.window v := by
  rw [h.rest]
  exact sparseGet_set ..

theorem State.Accepts.live (h : s.Accepts u e x) (v : Nat) : (u.window v).live = (s.window v).live := by
  rw [h.window]
  split
  · subst_vars
    rfl
  · rfl

theorem State.Accepts.generation (h : s.Accepts u e x) (v : Nat) : (u.window v).generation = (s.window v).generation := by
  rw [h.window]
  split
  · subst_vars
    rfl
  · rfl

theorem State.Accepts.tables (h : s.Accepts u e x) : u.tables = s.tables := (congrArg State.tables h.rest).trans rfl
theorem State.Accepts.links (h : s.Accepts u e x) : u.links = s.links := (congrArg State.links h.rest).trans rfl
theorem State.Accepts.tags (h : s.Accepts u e x) : u.tags = s.tags := (congrArg State.tags h.rest).trans rfl
theorem State.Accepts.out (h : s.Accepts u e x) : u.out = s.out := (congrArg State.out h.rest).trans rfl

theorem State.Accepts.parkSound (h : s.Accepts u e x) (hs : s.parkSound) : u.parkSound :=
  State.parkSound_congr ((congrArg State.park h.rest).trans rfl) ((congrArg State.ports h.rest).trans rfl) hs

theorem State.Accepts.engine (h : s.Accepts u e x) : u.scrub.engine = s.scrub.engine := by
  rw [congrArg State.scrub h.rest]
  dsimp only
  split <;> rfl

theorem State.Accepts.isUp (h : s.Accepts u e x) (c : LinkId) : u.isUp c = s.isUp c := State.isUp_eq h.links c

/-- An acceptance keeps the Frame Map in its canonical form. -/
theorem State.acceptParts_wf (hm : SparseWf .free s.frames) (tag : BitVec 8) (q : ChangeRequest) (e : Fin 16)
    (slot : Option (Fin 16)) : SparseWf .free (s.acceptParts tag q e slot).frames := by
  have reserved (v : State) (hv : SparseWf .free v.frames) : SparseWf .free (v.reserveRun q.window q.kind).frames := by
    unfold State.reserveRun
    split
    · refine foldl_keeps (P := SparseWf FrameState.free) (fun m i hm => ?_) _ _ hv
      split
      · exact sparseWf_set hm ..
      · exact hm
    · exact hv
  cases slot with
  | none => exact reserved _ hm
  | some i => exact reserved _ hm

/-! ## A request that its checks accept -/

theorem takeChange_ok {q : ChangeRequest} (h : s.changeChecks q = .ok (l, e, slot)) (kind tag : BitVec 8) :
    takeChange kind tag (.ok q) s =
      match q.group with
      | some g => (s.acceptParts tag q e slot).joinGroup g e tag
      | none => startStandalone e (s.acceptParts tag q e slot) := by
  rw [takeChange]
  dsimp only
  rw [h] <;> rfl

theorem State.Admits.setOut (h : s.Admits w k l e slot) (o : Outputs) : (s.setOut o).Admits w k l e slot :=
  ⟨h.live, h.idle, h.entry, h.frames, h.fits, h.slot⟩

/-- A standalone request that its checks accept. -/
theorem exec_accepted {c : Instr} {tag : BitVec 8} {w : BitVec 16} (h : s.serves tag) (hw : w.toNat < 4096)
    (hc : s.asks c tag w none k) (ha : s.Admits w.toNat k l e slot) :
    exec c s = .next (startStandalone e ((s.setOut (.onSup [])).acceptParts tag ⟨w.toNat, none, k⟩ e slot)) := by
  rw [exec_asks h hw groupField_none hc, takeChange_ok ((ha.setOut _).checks State.checkGroup_none)]

/-- A standalone entry that awaits nobody applies, and its window's lookups are re-taken. -/
theorem startStandalone_empty (he : u.entry e = some x) (hl : (u.window x.window).live = some l)
    (hf : x.kind.slotFits l x.scrubSlot) (hs : u.parkSound)
    (hn : ∀ a i, ∀ h ∈ u.held a i, h.window = x.window → ¬x.kind.hits l a h.rights) :
    startStandalone e u = (u.applyParts e x).retaken x.window := by
  rw [startStandalone, he]
  dsimp only
  rw [if_pos (State.affectedAgents_empty hl hn), applyEntry_eq he hl hf hs]

/-- Settles O31. -/
theorem changeAppliesAtOnce : Obligations.ChangeAppliesAtOnce := by
  unfold Obligations.ChangeAppliesAtOnce
  intro c tag w r n scrub l e slot s h hs hm hw hc ha he hn
  have accepts := (s.setOut (.onSup [])).acceptParts_accepts tag ⟨w.toNat, none, .change r n scrub⟩ e slot
  set u := (s.setOut (.onSup [])).acceptParts tag ⟨w.toNat, none, .change r n scrub⟩ e slot with hu
  have applicable : u.Applicable e (.fresh tag w.toNat (.change r n scrub) none slot) l :=
    { entry := (accepts.entry e).trans (if_pos rfl)
      live := (accepts.live _).trans ha.live
      up := (accepts.isUp _).trans h.1.1
      wf := State.acceptParts_wf (s := s.setOut (.onSup [])) hm ..
      fits := ha.fits
      engine := he.imp_left fun he => accepts.engine.trans_ne he }
  refine ⟨u, _, accepts, applicable.applies, ?_⟩
  rw [exec_accepted h hw hc ha]
  refine congrArg Host.Outcome.next (startStandalone_empty applicable.entry applicable.live applicable.fits
    (accepts.parkSound hs) fun a i y hy => hn a i y ?_)
  rw [State.held, State.table, accepts.tables] at hy
  exact hy

/-! ## A member joins its group -/

theorem State.Accepts.group (h : s.Accepts u e x) (g : Fin 4) : u.group g = s.group g := by
  unfold State.group
  rw [(congrArg State.groups h.rest).trans rfl]
  rfl

theorem State.Accepts.joinGroup (h : s.Accepts u e x) {g : Fin 4} (ho : (s.group g).state = .opened)
    (hup : s.isUp .sup = true) (hout : s.out = .onSup []) (tag : BitVec 8) :
    u.joinGroup g e tag =
      { u.setGroup g { state := .opened, members := (s.group g).members ++ [e] } with
        tags := natInsert s.tags tag.toNat
        out := .onSup [.accepted tag] } := by
  have up : u.isUp .sup = true := (h.isUp _).trans hup
  rw [State.joinGroup, State.accept, State.sendSup_of_up (by exact up), h.group]
  show State.setOut _ { u.out with sup := u.out.sup ++ [.accepted tag] } = _
  rw [h.out, hout, ← ho, ← h.tags]
  rfl

/-- The checks on a LIVE window without a pending change end at the group. -/
theorem State.changeChecks_group {g : Option (Fin 4)} {r : Reason} (hl : (s.window w).live = some l)
    (hp : (s.window w).pending = none) (hg : s.checkGroup g = some r) : s.changeChecks ⟨w, g, k⟩ = .error r := by
  unfold State.changeChecks
  dsimp only
  rw [hl]
  dsimp only
  rw [if_neg (not_not.2 hp), hg]

theorem takeChange_error {q : ChangeRequest} {r : Reason} (h : s.changeChecks q = .error r) (kind tag : BitVec 8) :
    takeChange kind tag (.ok q) s = s.refuseSup kind tag r := by
  rw [takeChange]
  dsimp only
  rw [h]

/-- Settles O34. -/
theorem membersJoin : Obligations.MembersJoin := by
  unfold Obligations.MembersJoin
  intro c tag w g k s h hw hc
  have read := exec_asks h hw (groupField_ofNat g) hc
  refine ⟨fun ho hm l e slot ha => ?_, fun hlive hp => ?_⟩
  · have accepts := (s.setOut (.onSup [])).acceptParts_accepts tag ⟨w.toNat, some g, k⟩ e slot
    refine ⟨_, accepts, ?_⟩
    rw [read, takeChange_ok ((ha.setOut _).checks (State.checkGroup_open (by exact ho) (by exact hm)))]
    exact congrArg Host.Outcome.next (accepts.joinGroup ho h.1.1 rfl tag)
  · obtain ⟨l, hl⟩ := Option.ne_none_iff_exists'.1 hlive
    have refused {r : Reason} (hr : (s.setOut (.onSup [])).checkGroup (some g) = some r) :
        exec c s = .next { s with out := .onSup [.refused k.code tag r] } := by
      rw [read, takeChange_error (State.changeChecks_group (by exact hl) (by exact hp) hr)]
      exact congrArg Host.Outcome.next (refuseSup_eq h.1.1 ..)
    refine ⟨fun ho => refused (if_pos ho), fun ho hm => refused ?_⟩
    exact (if_neg (not_not.2 (by exact ho))).trans (if_pos (by exact hm))

/-! ## RETIRE at its acceptance -/

theorem sparsePut_sparsePut {α : Type} (m : Sparse α) (k : Nat) (u v : α) :
    sparsePut (sparsePut m k u) k v = sparsePut m k v := by
  induction m with
  | nil => simp [sparsePut]
  | cons p m ih =>
    obtain ⟨j, y⟩ := p
    by_cases h : k < j
    · simp [sparsePut, h]
    · by_cases hk : k = j
      · simp [sparsePut, hk]
      · simp [sparsePut, h, hk, ih]

theorem sparseDrop_sparsePut {α : Type} (m : Sparse α) (k : Nat) (u : α) :
    sparseDrop (sparsePut m k u) k = sparseDrop m k := by
  induction m with
  | nil => simp [sparsePut, sparseDrop]
  | cons p m ih =>
    obtain ⟨j, y⟩ := p
    by_cases h : k < j
    · simp [sparsePut, sparseDrop, h]
    · by_cases hk : k = j
      · simp [sparsePut, sparseDrop, hk]
      · have hj : (j != k) = true := by simpa using Ne.symm hk
        simp only [sparsePut, if_neg h, if_neg hk, sparseDrop, List.filter_cons, hj, if_true]
        exact congrArg _ ih

/-- A record written over one that is not as after RESET_N. -/
theorem State.setWindow_setWindow {r : Window} (hr : r ≠ Window.initial) (w : Nat) (r' : Window) :
    (s.setWindow w r).setWindow w r' = s.setWindow w r' := by
  have windows : sparseSet Window.initial (sparseSet Window.initial s.windows w r) w r' =
      sparseSet Window.initial s.windows w r' := by
    rw [sparseSet, sparseSet, if_neg hr, sparsePut_sparsePut, sparseDrop_sparsePut] <;> rfl
  exact congrArg (fun m => { s with windows := m }) windows

theorem State.setEntry_setEntry (he : s.entry e = none) (x : Entry) : (s.setEntry e (some x)).setEntry e none = s := by
  have entries : (s.entries.set e (some x)).set e none = s.entries := by
    rw [Vector.set_set, ← he]
    exact Vector.set_getElem_self ..
  exact congrArg (fun m => { s with entries := m }) entries

theorem natErase_of_free {tag : BitVec 8} (h : s.tagInUse tag = false) : natErase s.tags tag.toNat = s.tags := by
  refine List.filter_eq_self.2 fun j hj => ?_
  rw [bne_iff_ne]
  rintro rfl
  simp [State.tagInUse, hj] at h

/-- An accepted RETIRE applied: the record FREE, these frames and this engine, and DONE. -/
def State.retiring (s : State) (w : Nat) (tag : BitVec 8) (slot : Option (Fin 16)) (m : Sparse FrameState) (y : Scrub) :
    State :=
  { s.setWindow w { s.window w with generation := (s.window w).generation + 1, live := none } with
    frames := m
    scrub := y
    out := .onSup [.done tag .applied (some ((s.window w).generation + 1)) (noneOf 8) slot none] }

section
variable {tag : BitVec 8}

/-- The state of an accepted RETIRE, with this engine. -/
def State.retireAccepted (s : State) (e : Fin 16) (w : Nat) (x : Entry) (y : Scrub) : State :=
  (((s.setOut (.onSup [])).setEntry e (some x)).setWindow w { s.window w with pending := some e }).setScrub y

theorem State.retireAccepted_window (y : Scrub) :
    (s.retireAccepted e w x y).window w = { s.window w with pending := some e } :=
  (sparseGet_set ..).trans (if_pos rfl)

/-- The engine with the scrub slot of an acceptance RESERVED. -/
def State.reserving (s : State) (e : Fin 16) : Option (Fin 16) → Scrub
  | none => s.scrub
  | some i => { s.scrub with slots := s.scrub.slots.set i (.reserved e) }

theorem State.acceptParts_retire (slot : Option (Fin 16)) :
    (s.setOut (.onSup [])).acceptParts tag ⟨w, none, .retire⟩ e slot =
      s.retireAccepted e w (.fresh tag w .retire none slot) (s.reserving e slot) := by
  cases slot <;> rfl

/-- Written over the accepted state, with the entry free again, the record is FREE. -/
theorem State.retireAccepted_finish (hup : s.isUp .sup = true) (ht : s.tagInUse tag = false) (he : s.entry e = none)
    (y z : Scrub) (m : Sparse FrameState) :
    ((((((s.retireAccepted e w x y).setWindow w
        { s.window w with generation := (s.window w).generation + 1, live := none }).setFrames m).setScrub z).setEntry e
          none).finish tag .applied (some ((s.window w).generation + 1)) (noneOf 8) slot) =
      s.retiring w tag slot m z := by
  have pending : { s.window w with pending := some e } ≠ Window.initial := fun h => nomatch congrArg Window.pending h
  rw [State.finish, State.sendSup_of_up (by exact hup)]
  show { (((s.setWindow w { s.window w with pending := some e }).setWindow w
      { s.window w with generation := (s.window w).generation + 1, live := none }).setEntry e (some x)).setEntry e
        none with
        frames := m, scrub := z, tags := natErase s.tags tag.toNat
        out := .onSup [.done tag .applied (some ((s.window w).generation + 1)) (noneOf 8) slot none] } = _
  rw [State.setWindow_setWindow pending, State.setEntry_setEntry (by exact he), natErase_of_free ht]
  rfl

theorem Entry.record_retire (hx : x.kind = .retire) (r : Window) (l : LiveFields) :
    x.record r l = { r with generation := r.generation + 1, pending := none, live := none } := by
  unfold Entry.record
  rw [hx]

end

section
variable {tag : BitVec 8}

/-- The frames of the window's run, as its RETIRE leaves them. -/
theorem State.retiring_framesSet {y : FrameState} {z : Scrub} :
    s.framesSet (s.retiring w tag slot (fillRuns s.frames [l.run] y) z) l.run y := fun f =>
  (fillRuns_get [l.run] y f s.frames).trans (by simp only [List.mem_singleton, exists_eq_left]; rfl)

/-- What a job sends as it starts does not depend on the entry that is freed and the DONE that follow. -/
def Apart (e : Fin 16) (post : State → State) : Prop :=
  ∀ v : State, v.isUp .sup = true → ∀ tag o g lost slot,
    ((post v).setEntry e none).finish tag o g lost slot = post ((v.setEntry e none).finish tag o g lost slot)

theorem apart_id : Apart e id := fun _ _ _ _ _ _ _ => rfl

theorem apart_filling (i : Fin 16) (j : Job) (ps : List Position) (q : Option Position) :
    Apart e fun v => v.filling i j ps q :=
  fun v hv tag _ _ _ _ => State.filling_sendSup (s := (v.setEntry e none).freeTag tag) (by exact hv) ps q _

/-- The application of a RETIRE just accepted, once what becomes of the frames is known. -/
theorem State.retireAccepted_applyParts (h : s.serves tag) (he : s.entry e = none)
    (hl : (s.window w).live = some l) (hp : (s.window w).pending = none) {y z : Scrub} {m : Sparse FrameState}
    (hf : ChangeKind.slotFits .retire l slot) {post : State → State} (hpost : Apart e post)
    (hm : ∀ v : State, v.frames = s.frames → v.scrub = y → v.links = s.links →
      v.moveFrames (.fresh tag w .retire none slot) l = post ((v.setFrames m).setScrub z)) :
    (s.retireAccepted e w (.fresh tag w .retire none slot) y).applyParts e (.fresh tag w .retire none slot) =
      post (s.retiring w tag slot m z) := by
  have live : ((s.retireAccepted e w (.fresh tag w .retire none slot) y).window w).live = some l := by
    rw [State.retireAccepted_window]
    exact hl
  have record : (Entry.fresh tag w .retire none slot).record
      ((s.retireAccepted e w (.fresh tag w .retire none slot) y).window w) l =
        { s.window w with generation := (s.window w).generation + 1, live := none } := by
    rw [Entry.record_retire rfl, State.retireAccepted_window, ← hp]
  have generation : ((s.retireAccepted e w (.fresh tag w .retire none slot) y).window w).generation =
      (s.window w).generation := (congrArg Window.generation (State.retireAccepted_window y)).trans rfl
  rw [State.applyParts_eq (by exact live) hf]
  show (((State.setWindow _ w (Entry.record _ (State.window _ w) l)).moveFrames _ l).setEntry e none).finish tag .applied
    (some ((State.window _ w).generation + 1)) (noneOf 8) slot = _
  rw [record, generation, hm _ (by exact rfl) (by exact rfl) (by exact rfl), hpost _ (by exact h.1.1), State.retireAccepted_finish h.1.1 h.2.2 he]

/-- A RETIRE of a window that nobody holds. -/
theorem exec_retire_empty {w : BitVec 16} (h : s.serves tag) (hs : s.parkSound) (hw : w.toNat < 4096)
    (ha : s.Admits w.toNat .retire l e slot) (hn : ∀ a i, ∀ h ∈ s.held a i, h.window ≠ w.toNat) {z : Scrub}
    {m : Sparse FrameState} {post : State → State} (hpost : Apart e post)
    (hm : ∀ v : State, v.frames = s.frames → v.scrub = s.reserving e slot → v.links = s.links →
      v.moveFrames (.fresh tag w.toNat .retire none slot) l = post ((v.setFrames m).setScrub z)) :
    exec (.retire tag w none) s = .next ((post (s.retiring w.toNat tag slot m z)).retaken w.toNat) := by
  rw [exec_accepted h hw (c := .retire tag w none) (k := .retire) rfl ha, State.acceptParts_retire,
    startStandalone_empty (x := .fresh tag w.toNat .retire none slot) (l := l)]
  · rw [State.retireAccepted_applyParts h ha.entry.1 ha.live ha.idle ha.fits hpost hm]
    rfl
  · exact (State.entry_setEntry ..).trans (if_pos rfl)
  · exact (congrArg Window.live (State.retireAccepted_window _)).trans ha.live
  · exact ha.fits
  · exact hs
  · exact fun a i y hy hyw => absurd hyw (hn a i y hy)

end

theorem State.reserving_active {v : State} (hv : v.scrub = s.reserving e (some i)) (hs : s.active = none) :
    v.active = none := State.active_eq_none.2 fun c j hc => by
  have slot : v.slot c = if c = i then .reserved e else s.slot c :=
    (congrArg (fun y : Scrub => y.slots[c]) hv).trans (s.slot_setSlot i c (.reserved e))
  rw [slot] at hc
  split at hc
  · cases hc
  · exact State.active_eq_none.1 hs c j hc

theorem State.reserving_set (s : State) (e i : Fin 16) (y : ScrubSlot) :
    (s.reserving e (some i)).slots.set i y = s.scrub.slots.set i y := Vector.set_set ..

/-- The engine that starts the job of an accepted RETIRE. -/
theorem State.reserving_started {v : State} (hv : v.scrub = s.reserving e (some i)) (j : Job) :
    v.started i j =
      v.setScrub { s.scrub with slots := s.scrub.slots.set i (.active j), engine := .running } := by
  rw [State.started, hv, State.reserving_set]
  rfl

/-- Settles O33. -/
theorem retireAppliesAtOnce : Obligations.RetireAppliesAtOnce := by
  unfold Obligations.RetireAppliesAtOnce
  intro tag w l e s h hs hw hl hp he hn
  refine ⟨fun hscrub => ?_, fun hscrub i hi => ?_⟩
  · have fits : ChangeKind.slotFits .retire l none := iff_of_true rfl (.inl hscrub)
    refine ⟨s.retiring w.toNat tag none (fillRuns s.frames [l.run] .free) s.scrub,
      exec_retire_empty h hs hw ⟨hl, hp, he, nofun, fits, nofun⟩ hn apart_id fun v hv hy _ => ?_, rfl,
      State.retiring_framesSet⟩
    rw [State.moveFrames_none fits rfl, ← hv]
    exact congrArg (State.setScrub (v.setFrames (fillRuns v.frames [l.run] .free))) hy
  · have fits : ChangeKind.slotFits .retire l (some i) := by
      refine iff_of_false nofun fun hk => ?_
      rcases hk with hk | hk
      · rw [hscrub] at hk
        cases hk
      · cases hk
    have admits : s.Admits w.toNat .retire l e (some i) :=
      ⟨hl, hp, he, nofun, fits, fun _ hj => Option.some.inj hj ▸ hi⟩
    have moved {v : State} (hv : v.frames = s.frames) : v.moveFrames (.fresh tag w.toNat .retire none (some i)) l =
        (v.setFrames (fillRuns s.frames [l.run] (.scrubbing i))).enqueue i (.start (.window w.toNat) l.run) :=
      hv ▸ State.moveFrames_some fits rfl rfl
    by_cases hidle : s.scrub.engine = .idle
    · refine ⟨s.retiring w.toNat tag (some i) (fillRuns s.frames [l.run] (.scrubbing i))
          { s.scrub with slots := s.scrub.slots.set i (.active (.start (.window w.toNat) l.run)), engine := .running },
        State.retiring_framesSet, rfl, absurd hidle, fun _ hactive hqueue hcount => ⟨rfl, fun hm => ?_, fun hm ps q hsends => ?_⟩⟩
      · refine exec_retire_empty h hs hw admits hn apart_id fun v hv hy hlinks => ?_
        have scrub : (v.setFrames (fillRuns s.frames [l.run] (.scrubbing i))).scrub = s.reserving e (some i) := hy
        have engine : (v.setFrames (fillRuns s.frames [l.run] (.scrubbing i))).scrub.engine = .idle := by
          rw [scrub]
          exact hidle
        have queue : (v.setFrames (fillRuns s.frames [l.run] (.scrubbing i))).scrub.queue = [] := by
          rw [scrub]
          exact hqueue
        have active := State.reserving_active scrub hactive
        have started := State.reserving_started scrub (.start (.window w.toNat) l.run)
        have frame : (s.retiring w.toNat tag (some i) (fillRuns s.frames [l.run] (.scrubbing i)) s.scrub).frame l.run.base =
            .scrubbing i := (State.retiring_framesSet l.run.base).trans (if_pos ⟨Nat.le_refl _, by omega⟩)
        rw [moved hv, State.enqueue_idle_down engine active queue (by exact (State.isUp_eq hlinks _).trans hm)]
        · exact started
        · refine State.hasScrubbing_of_frame (f := l.run.base) ?_ ?_
          · rw [started]
            exact frame
          · exact Job.covers_eq_true.2 (.inl ⟨Nat.le_refl _, by show l.run.base < l.run.base + l.run.count; omega⟩)
      · refine exec_retire_empty h hs hw admits hn (apart_filling i _ ps q) fun v hv hy hlinks => ?_
        have scrub : (v.setFrames (fillRuns s.frames [l.run] (.scrubbing i))).scrub = s.reserving e (some i) := hy
        have engine : (v.setFrames (fillRuns s.frames [l.run] (.scrubbing i))).scrub.engine = .idle := by
          rw [scrub]
          exact hidle
        have queue : (v.setFrames (fillRuns s.frames [l.run] (.scrubbing i))).scrub.queue = [] := by
          rw [scrub]
          exact hqueue
        have active := State.reserving_active scrub hactive
        have started := State.reserving_started scrub (.start (.window w.toNat) l.run)
        rw [moved hv, State.enqueue_idle_up engine active queue (by exact (State.isUp_eq hlinks _).trans hm) (ps := ps) (q := q)]
        · rw [started]
        · rw [started]
          exact hsends.of_eq rfl rfl
    · refine ⟨s.retiring w.toNat tag (some i) (fillRuns s.frames [l.run] (.scrubbing i))
          { s.scrub with
            slots := s.scrub.slots.set i (.queued (.start (.window w.toNat) l.run)), queue := s.scrub.queue ++ [i] },
        State.retiring_framesSet, rfl, fun _ => ⟨rfl, exec_retire_empty h hs hw admits hn apart_id fun v hv hy _ => ?_⟩,
        fun hc => absurd hc hidle⟩
      have busy : (v.setFrames (fillRuns s.frames [l.run] (.scrubbing i))).scrub.engine ≠ .idle := by
        show v.scrub.engine ≠ _
        rw [hy]
        exact hidle
      rw [moved hv, State.enqueue_busy busy]
      show State.setScrub _ { v.scrub with slots := v.scrub.slots.set i _, queue := v.scrub.queue ++ [i] } = _
      rw [hy, State.reserving_set]
      rfl

/-! ## The start of a recall -/

/-- A RECALL of window w sent to each agent of p, naming its slot: the window in its recalled set and out of its regranted
set. -/
def State.recallTo (s : State) (w : Nat) (slot : AgentId → Fin 64) (p : AgentId → Bool) : State :=
  { s with
    tables := Vector.ofFn fun a =>
      if p a then
        { s.table a with
          recalled := natInsert (s.table a).recalled w, regranted := natErase (s.table a).regranted w }
      else s.table a
    out :=
      { s.out with
        agents := Vector.ofFn fun a =>
          if p a then s.out.agents[a] ++ [.recall (slot a) w (s.window w).generation] else s.out.agents[a] } }

section
variable {held : AgentId → Fin 64} {p q : AgentId → Bool} {a : AgentId}

theorem State.recallTo_table (b : AgentId) : (s.recallTo w held p).table b =
    if p b then
      { s.table b with
        recalled := natInsert (s.table b).recalled w, regranted := natErase (s.table b).regranted w }
    else s.table b := Vector.getElem_ofFn ..

theorem State.recallTo_naming (b : AgentId) (v : Nat) :
    ((s.recallTo w held p).table b).naming v = (s.table b).naming v := by
  rw [State.recallTo_table]
  split <;> rfl

theorem State.recallTo_none (h : ∀ a, p a = false) : s.recallTo w held p = s := by
  unfold State.recallTo
  simp only [h, Bool.false_eq_true, if_false]
  have tables : Vector.ofFn s.table = s.tables := Vector.ext fun i hi => Vector.getElem_ofFn hi
  have agents : (Vector.ofFn fun a : AgentId => s.out.agents[a]) = s.out.agents :=
    Vector.ext fun i hi => Vector.getElem_ofFn hi
  rw [tables, agents]

/-- The two vectors that RECALLs write. -/
theorem State.recallTo_eq {T : Vector SlotTable 8} {A : Vector (List AgentMsg) 8}
    (hT : ∀ b : AgentId, (s.recallTo w held p).table b = T[b])
    (hA : ∀ b : AgentId, (s.recallTo w held p).out.agents[b] = A[b]) :
    s.recallTo w held p = { s with tables := T, out := { s.out with agents := A } } := by
  have tables : (s.recallTo w held p).tables = T := Vector.ext fun i hi => hT ⟨i, hi⟩
  have agents : (s.recallTo w held p).out.agents = A := Vector.ext fun i hi => hA ⟨i, hi⟩
  rw [← tables, ← agents]
  rfl

theorem State.recallTo_agents (b : AgentId) : (s.recallTo w held p).out.agents[b] =
    if p b then s.out.agents[b] ++ [.recall (held b) w (s.window w).generation] else s.out.agents[b] :=
  Vector.getElem_ofFn ..

/-- Recalls to the agents of two disjoint sets, one after the other. -/
theorem State.recallTo_recallTo (h : ∀ a, p a = true → q a = false) :
    (s.recallTo w held p).recallTo w held q = s.recallTo w held fun a => p a || q a := by
  refine State.recallTo_eq (T := (s.recallTo w held fun a => p a || q a).tables)
    (A := (s.recallTo w held fun a => p a || q a).out.agents) (fun b => ?_) fun b => ?_
  · show _ = (s.recallTo w held fun a => p a || q a).table b
    simp only [State.recallTo_table]
    cases hp : p b with
    | true => simp [h b hp]
    | false => simp
  · simp only [State.recallTo_agents]
    cases hp : p b with
    | true => simp [h b hp]
    | false => simp; rfl

/-- The RECALL to one agent that lists the window. -/
theorem State.sendRecall_eq (hup : s.isUp (.agent a) = true) (hn : (s.table a).naming w = some (held a)) :
    s.sendRecall w a = s.recallTo w held fun b => decide (b = a) := by
  unfold State.sendRecall
  dsimp only
  rw [hn]
  dsimp only
  rw [State.sendAgent_of_up (by exact hup)]
  have writes := State.recallTo_eq (s := s) (w := w) (held := held) (p := fun b => decide (b = a))
    (T := s.tables.set a
      { s.table a with
        recalled := natInsert (s.table a).recalled w, regranted := natErase (s.table a).regranted w })
    (A := s.out.agents.set a (s.out.agents[a] ++ [.recall (held a) w (s.window w).generation]))
    (fun b => ?_) fun b => ?_
  · exact writes.symm
  · rw [State.recallTo_table, vector_get_set]
    by_cases hb : b = a <;> simp [hb, State.table]
  · rw [State.recallTo_agents]
    by_cases hb : b = a
    · subst hb
      rw [vector_get_set]
      simp
    · rw [vector_get_set]
      simp [hb]

/-- The RECALLs to every agent of a list. -/
theorem foldl_sendRecall (l : List AgentId) : ∀ s : State, l.Nodup →
    (∀ a ∈ l, s.isUp (.agent a) = true ∧ (s.table a).naming w = some (held a)) →
      l.foldl (fun s a => s.sendRecall w a) s = s.recallTo w held fun a => decide (a ∈ l) := by
  induction l with
  | nil => exact fun s _ _ => (State.recallTo_none fun a => by simp).symm
  | cons a l ih =>
    intro s hnd h
    obtain ⟨ha, hnd⟩ := List.nodup_cons.1 hnd
    obtain ⟨hup, hn⟩ := h a (.head _)
    rw [List.foldl_cons, State.sendRecall_eq hup hn, ih (s.recallTo w held fun b => decide (b = a)) hnd fun b hb => ⟨(h b (.tail _ hb)).1, ?_⟩,
      State.recallTo_recallTo fun b hb => ?_]
    · congr 1
      funext b
      simp
    · have : b = a := of_decide_eq_true hb
      simp [this, ha]
    · rw [State.recallTo_naming]
      exact (h b (.tail _ hb)).2

end

/-- A standalone entry that awaits agents starts its recall, and is ACCEPTED. -/
theorem startStandalone_recalls {agents : FinSet 8} {held : AgentId → Fin 64} (he : u.entry e = some x)
    (hl : (u.window x.window).live = some l) (hn : ∃ a : AgentId, agents[a] = true)
    (hup : ∀ a : AgentId, agents[a] = true → u.isUp (.agent a) = true)
    (ha : u.Affected x.window agents held (x.kind.hits l)) (hsup : u.isUp .sup = true) (hout : u.out = .onSup []) :
    startStandalone e u = u.recalls e x agents held := by
  have affected : u.affectedAgents x.kind x.window = agents := ha.affectedAgents hl
  have nonempty : agents.empty = false := by
    obtain ⟨a, ha⟩ := hn
    rw [Bool.eq_false_iff]
    intro h
    rw [(FinSet.empty_iff _).1 h a] at ha
    cases ha
  rw [startStandalone, he]
  dsimp only
  rw [affected, nonempty, if_neg Bool.false_ne_true, State.startRecall, affected]
  have chosen : (fun a => decide (a ∈ agents.elems)) = fun a : AgentId => agents[a] := by
    funext a
    rw [Bool.eq_iff_iff, decide_eq_true_iff, FinSet.mem_elems]
  have recalls := foldl_sendRecall (held := held) (w := x.window) agents.elems
    (u.setEntry e (some { x with state := .recalling, awaited := agents, deadline := .running }))
    ((List.nodup_finRange 8).filter _) fun a hb => ⟨hup a ((FinSet.mem_elems _ _).1 hb), ha.naming ((FinSet.mem_elems _ _).1 hb)⟩
  rw [nonempty, if_neg Bool.false_ne_true, recalls, State.accept, State.sendSup_of_up (by exact hsup), chosen]
  have out : { u.out with
        agents := Vector.ofFn fun a : AgentId =>
          if agents[a] then u.out.agents[a] ++ [AgentMsg.recall (held a) x.window (u.window x.window).generation]
          else u.out.agents[a]
        sup := u.out.sup ++ [SupMsg.accepted x.tag] } =
      { Outputs.onSup [SupMsg.accepted x.tag] with
        agents := Vector.ofFn fun a : AgentId =>
          if agents[a] then [.recall (held a) x.window (u.window x.window).generation] else [] } := by
    rw [hout]
    have agents (b : AgentId) : (Outputs.onSup []).agents[b] = [] := Vector.getElem_replicate ..
    simp only [agents]
    rfl
  exact congrArg (fun o => { (u.setEntry e (some { x with state := .recalling, awaited := agents, deadline := .running })) with
    tags := natInsert u.tags x.tag.toNat
    tables := Vector.ofFn fun a : AgentId =>
      if agents[a] then
        { u.table a with
          recalled := natInsert (u.table a).recalled x.window
          regranted := natErase (u.table a).regranted x.window }
      else u.table a
    out := o }) out

section
variable {tag : BitVec 8} {w : BitVec 16} {group : Option (BitVec 8)}

theorem exec_change (h : s.serves tag) (bits : Option (BitVec 16)) (run : Option (Word × Word)) (scrub : Option Bool) :
    exec (.change tag w group bits run scrub) s = .next
      (takeChange 0x23 tag (readChange s.frameCount w group bits run scrub) (s.setOut (.onSup []))) := by
  rw [exec_sup rfl h.1]
  show (Host.Outcome.next (actChange tag w group bits run scrub (s.setOut _)) : Answer) = _
  rw [actChange, request_served h]
  rfl

theorem exec_retire (h : s.serves tag) :
    exec (.retire tag w group) s = .next (takeChange 0x24 tag (readRetire w group) (s.setOut (.onSup []))) := by
  rw [exec_sup rfl h.1]
  show (Host.Outcome.next (actRetire tag w group (s.setOut _)) : Answer) = _
  rw [actRetire, request_served h]

theorem optionalField_eq_none {α β : Type} {read : α → Option β} {v : Option α} :
    optionalField read v = none ↔ ∃ b ∈ v, read b = none := by
  cases v <;> simp [optionalField]

theorem groupField_eq_none : optionalField (fun g : BitVec 8 => fieldBelow 4 g.toNat) group = none ↔
    ∃ g ∈ group, 4 ≤ g.toNat := by
  simp only [optionalField_eq_none, fieldBelow_eq_none]

theorem eq_of_groupField {g : Fin 4} (h : optionalField (fun g : BitVec 8 => fieldBelow 4 g.toNat) group = some (some g)) :
    group = some (BitVec.ofNat 8 g) := by
  cases group with
  | none => cases h
  | some b =>
    have hb : fieldBelow 4 b.toNat = some g := by simpa [optionalField] using h
    rw [← fieldBelow_eq_some.1 hb, BitVec.ofNat_toNat, BitVec.setWidth_eq]

theorem rightsField_eq_none {bits : Option (BitVec 16)} : optionalField rightsSetOfBits bits = none ↔
    ∃ b ∈ bits, ¬∃ r, rightsNamed b r := by
  simp only [optionalField_eq_none, rightsSetOfBits_eq_none]

/-- A window, group or rights entry out of its values. -/
theorem readChange_badValue {bits : Option (BitVec 16)}
    (h : ¬(w.toNat < 4096 ∧ (∀ g ∈ group, g.toNat < 4) ∧ ∀ b ∈ bits, ∃ r, rightsNamed b r)) (configured : Nat)
    (run : Option (Word × Word)) (scrub : Option Bool) :
    readChange configured w group bits run scrub = .error .badValue := by
  unfold readChange
  split
  · rename_i w' g r hw hg hr
    refine absurd ⟨(windowNumber_eq_some.1 hw).1 ▸ (windowNumber_eq_some.1 hw).2, fun b hb => ?_, fun b hb => ?_⟩ h
    · by_contra hc
      rw [groupField_eq_none.2 ⟨b, hb, Nat.not_lt.1 hc⟩] at hg
      cases hg
    · by_contra hc
      rw [rightsField_eq_none.2 ⟨b, hb, hc⟩] at hr
      cases hr
  · rfl

/-- A new run out of its values. -/
theorem readChange_run {bits : Option (BitVec 16)} {configured : Nat} {base count : Word} {r : Reason}
    (h : w.toNat < 4096 ∧ (∀ g ∈ group, g.toNat < 4) ∧ ∀ b ∈ bits, ∃ r, rightsNamed b r)
    (hr : checkRun configured 4096 base count = .error r) (scrub : Option Bool) :
    readChange configured w group bits (some (base, count)) scrub = .error r := by
  obtain ⟨hw, hg, hb⟩ := h
  obtain ⟨g, hg⟩ := Option.ne_none_iff_exists'.1 (mt (groupField_eq_none (group := group)).1
    fun ⟨b, hm, hb⟩ => absurd (hg b hm) (Nat.not_lt.2 hb))
  obtain ⟨q, hq⟩ := Option.ne_none_iff_exists'.1 (mt (rightsField_eq_none (bits := bits)).1
    fun ⟨b, hm, hn⟩ => hn (hb b hm))
  rw [readChange, windowNumber_of_lt hw, hg, hq]
  dsimp only
  rw [checkNewRun, show checkRun configured Config.maxFramesPerWindow base count = .error r from hr]

theorem readRetire_badValue (h : 4096 ≤ w.toNat ∨ ∃ g ∈ group, 4 ≤ g.toNat) :
    readRetire w group = .error .badValue := by
  unfold readRetire
  rcases h with h | h
  · rw [windowNumber_of_le h]
  · rw [groupField_eq_none.2 h]
    cases windowNumber w <;> rfl

end

theorem State.Affected.of_tables {agents : FinSet 8} {held : AgentId → Fin 64} {p : AgentId → Rights → Prop}
    (h : s.Affected w agents held p) (ht : u.tables = s.tables) : u.Affected w agents held p := by
  have held (a : AgentId) (i : Fin 64) : u.held a i = s.held a i := by
    unfold State.held State.table
    rw [ht]
  exact ⟨fun a ha => by rw [held]; exact h.holds a ha, fun a ha i => by rw [held]; exact h.spared a ha i,
    fun a i j => by rw [held, held]; exact h.once a i j⟩

/-! ## The refusals of the checks on the state -/

theorem State.changeChecks_noWindow {g : Option (Fin 4)} (hl : (s.window w).live = none) :
    s.changeChecks ⟨w, g, k⟩ = .error .noWindow := by
  unfold State.changeChecks
  dsimp only
  rw [hl]

theorem State.changeChecks_windowBusy {g : Option (Fin 4)} (hl : (s.window w).live = some l)
    (hp : (s.window w).pending ≠ none) : s.changeChecks ⟨w, g, k⟩ = .error .windowBusy := by
  unfold State.changeChecks
  dsimp only
  rw [hl]
  exact if_pos hp

theorem State.freeEntry_isSome (he : ∃ e, s.entry e = none) : ∃ e, s.freeEntry = some e := by
  refine Option.ne_none_iff_exists'.1 fun hn => ?_
  obtain ⟨e, he⟩ := he
  simpa [he] using List.find?_eq_none.1 hn e (List.mem_finRange e)

section
variable {g : Option (Fin 4)} (hl : (s.window w).live = some l) (hp : (s.window w).pending = none)
  (hg : s.checkGroup g = none)
include hl hp hg

theorem State.changeChecks_changeFull (he : ∀ e, s.entry e ≠ none) : s.changeChecks ⟨w, g, k⟩ = .error .changeFull := by
  rw [State.changeChecks_of_idle hl hp hg, State.freeEntry_eq_none he]

theorem State.changeChecks_framesBusy (he : ∃ e, s.entry e = none)
    (hf : ∃ r ∈ k.newRun, ∃ f, r.has f ∧ s.frame f ≠ .free ∧ s.frame f ≠ .bound w) :
    s.changeChecks ⟨w, g, k⟩ = .error .framesBusy := by
  obtain ⟨e, he⟩ := State.freeEntry_isSome he
  rw [State.changeChecks_of_idle hl hp hg, he, State.newRunFree_eq_false hf]
  rfl

theorem State.changeChecks_scrubFull (he : ∃ e, s.entry e = none)
    (hf : ∀ r ∈ k.newRun, ∀ f, r.has f → s.frame f = .free ∨ s.frame f = .bound w) (hs : l.scrub = true)
    (hk : k.leaves l ≠ []) (hi : ∀ i, s.slot i ≠ .free) : s.changeChecks ⟨w, g, k⟩ = .error .scrubFull := by
  obtain ⟨e, he⟩ := State.freeEntry_isSome he
  have needs : k.needsSlot l = true := by
    rw [← Bool.not_eq_false, ChangeKind.needsSlot_eq_false]
    simp [hs, hk]
  rw [State.changeChecks_of_idle hl hp hg, he, State.newRunFree_of hf, needs, State.freeSlot_eq_none hi]
  rfl

end

/-- Settles O32. -/
theorem recallStarts : Obligations.RecallStarts := by
  unfold Obligations.RecallStarts
  refine ⟨fun c tag w k l e slot agents held s h hw hc ha hn hup haff => ?_, fun tag w group s h => ?_⟩
  · have accepts := (s.setOut (.onSup [])).acceptParts_accepts tag ⟨w.toNat, none, k⟩ e slot
    refine ⟨_, accepts, ?_⟩
    rw [exec_accepted h hw hc ha]
    refine congrArg Host.Outcome.next (startStandalone_recalls (l := l) ((accepts.entry e).trans (if_pos rfl))
      ((accepts.live _).trans ha.live) hn (fun a hb => (accepts.isUp _).trans (hup a hb))
      (haff.of_tables accepts.tables) ((accepts.isUp _).trans h.1.1) accepts.out)
  · intro refused
    refine ⟨fun bits run scrub => ?_, fun hbad => ?_, fun c k hw hg hc => ?_⟩
    · intro fields
      refine ⟨fun hbad => ?_, fun hf base count hrun => ⟨fun hb => ?_, fun hb hr => ?_⟩⟩
      · show exec _ s = _
        rw [exec_change h, readChange_badValue hbad]
        exact congrArg Host.Outcome.next (refuseSup_eq h.1.1 ..)
      all_goals
        subst hrun
        show exec _ s = _
        rw [exec_change h]
      · rw [readChange_run hf (checkRun_badValue hb ..)]
        exact congrArg Host.Outcome.next (refuseSup_eq h.1.1 ..)
      · rw [readChange_run hf (checkRun_badRange hb hr)]
        exact congrArg Host.Outcome.next (refuseSup_eq h.1.1 ..)
    · show exec _ s = _
      rw [exec_retire h, readRetire_badValue hbad]
      exact congrArg Host.Outcome.next (refuseSup_eq h.1.1 ..)
    · obtain ⟨g, hgroup⟩ := Option.ne_none_iff_exists'.1 (mt (groupField_eq_none (group := group)).1
        fun ⟨b, hm, hb⟩ => absurd (hg b hm) (Nat.not_lt.2 hb))
      have error {r : Reason} (hr : (s.setOut (.onSup [])).changeChecks ⟨w.toNat, g, k⟩ = .error r) :
          refused c k.code r := by
        show exec _ s = _
        rw [exec_asks h hw hgroup hc, takeChange_error hr]
        exact congrArg Host.Outcome.next (refuseSup_eq h.1.1 ..)
      refine ⟨fun hl => error (State.changeChecks_noWindow hl), fun l hl => ⟨fun hp => ?_, fun hp hroom => ?_⟩⟩
      · exact error (State.changeChecks_windowBusy hl hp)
      have room : (s.setOut (.onSup [])).checkGroup g = none := by
        cases hgc : g with
        | none => rfl
        | some c =>
          rw [hgc] at hgroup
          obtain ⟨ho, hm⟩ := hroom c (eq_of_groupField hgroup)
          exact State.checkGroup_open ho hm
      refine ⟨fun he => ?_, fun he => ⟨fun hf => ?_, fun hf hs hk hi => ?_⟩⟩
      · exact error (State.changeChecks_changeFull hl hp room he)
      · exact error (State.changeChecks_framesBusy hl hp room he hf)
      · exact error (State.changeChecks_scrubFull hl hp room he hf hs hk hi)

end Sys2Proof.Machine
end

section
/-!
PROOFS of O48: the nesting of the ends of changes. A nested end belongs to an entry that has ceased to await in this
action, and no entry starts to await, so the number of entries that still await bounds the depth (log 14).
-/

namespace Sys2Proof.Machine

variable {s t u : State} {ab : Option (Fin 4)} {k k' : EndWait} {n : Nat}

/-! ## No entry starts to await -/

/-- Every entry that awaits somebody in t did so in s. -/
structure State.OnlyEnds (s t : State) : Prop where
  awaits : ∀ e, t.awaits e = true → s.awaits e = true

theorem State.OnlyEnds.refl (s : State) : s.OnlyEnds s := ⟨fun _ h => h⟩

theorem State.OnlyEnds.trans (h : s.OnlyEnds t) (k : t.OnlyEnds u) : s.OnlyEnds u :=
  ⟨fun e he => h.awaits e (k.awaits e he)⟩

theorem State.OnlyEnds.of_entries (h : s.OnlyEnds t) (hu : u.entries = t.entries) : s.OnlyEnds u := ⟨fun e he => by
  refine h.awaits e ?_
  rwa [State.awaits_of_entry_eq (s := t) (by unfold State.entry; rw [hu])] at he⟩

/-- An entry written that awaits nobody its former self did not await. -/
theorem State.OnlyEnds.setEntry (h : s.OnlyEnds t) {e : Fin 16} {y : Option Entry}
    (hy : ∀ z ∈ y, ∀ a : AgentId, z.awaited[a] = true → t.awaits e = true) : s.OnlyEnds (t.setEntry e y) := by
  refine ⟨fun d hd => ?_⟩
  obtain ⟨z, hz, a, ha⟩ := State.awaits_iff.1 hd
  rw [State.entry_setEntry] at hz
  split at hz
  · rename_i hde
    exact hde ▸ h.awaits e (hy z hz a ha)
  · exact h.awaits d (State.awaits_iff.2 ⟨z, hz, a, ha⟩)

theorem State.OnlyEnds.report (h : s.OnlyEnds t) (ab : Option (Fin 4)) (a : AgentId) (w : Nat) (d : Bool) :
    s.OnlyEnds (t.report ab a w d) := by
  rcases t.report_cases ab a w d with hr | ⟨e, x, -, hx, -, -, hr⟩ <;> rw [hr]
  · exact h
  · refine h.setEntry ?_
    rintro z ⟨⟩ b hb
    rw [FinSet.get_del, Bool.and_eq_true] at hb
    exact State.awaits_iff.2 ⟨x, hx, b, hb.2⟩

theorem State.OnlyEnds.removeSlot (h : s.OnlyEnds t) (ab : Option (Fin 4)) (a : AgentId) (d : Bool) (i : Fin 64) :
    s.OnlyEnds (t.removeSlot ab a d i) := by
  cases hh : (t.table a).slots[i] with
  | none => rwa [State.removeSlot_empty hh]
  | some x =>
    rw [State.removeSlot_held hh]
    refine State.OnlyEnds.report ?_ ..
    exact h.of_entries rfl

theorem State.OnlyEnds.sendGrant (h : s.OnlyEnds t) (a : AgentId) (tag : Fin 4) (i : Fin 64) (w : Nat) (l : LiveFields)
    (r : Rights) (v : Option Nat) : s.OnlyEnds (t.sendGrant a tag i w l r v) := by
  rw [State.sendGrant_eq]
  exact h.of_entries (by simp)

section
variable (hk : ∀ e t, s.OnlyEnds t → s.OnlyEnds (k e t))
include hk

/-- No grant makes an entry await where no nested end does. -/
theorem grant_onlyEnds (h : s.OnlyEnds t) (a : AgentId) (tag : Fin 4) (w : Nat) (r : Rights) (l : LiveFields) :
    s.OnlyEnds (grant k ab a tag w r l t) := by
  unfold grant
  dsimp only
  split
  · refine State.OnlyEnds.sendGrant ?_ ..
    exact h.of_entries rfl
  · have removed := h.removeSlot ab a false (t.table a).choose
    refine endWaits_keeps hk _ _ (State.OnlyEnds.sendGrant ?_ ..)
    exact removed.of_entries rfl

theorem retakeOne_onlyEnds (p : Parked) (h : s.OnlyEnds t) : s.OnlyEnds (retakeOne k ab p t) :=
  retakeOne_keeps (P := s.OnlyEnds) (fun _ _ _ h => h.of_entries rfl)
    (fun _ _ _ _ _ h => h.of_entries (by simp [State.refuseLookup])) (fun a t w r l _ h => grant_onlyEnds hk h a t w r l) p t h

theorem retake_onlyEnds (w : Nat) (h : s.OnlyEnds t) : s.OnlyEnds (retake k ab w t) :=
  foldl_keeps (fun _ p h => retakeOne_onlyEnds hk p h) _ _ (h.of_entries rfl)

end

theorem State.OnlyEnds.applyParts (h : s.OnlyEnds t) (e : Fin 16) (x : Entry) : s.OnlyEnds (t.applyParts e x) := by
  unfold State.applyParts
  split
  · exact h
  · rename_i l _
    obtain ⟨m, hm⟩ := (t.setWindow x.window (x.kind.applied (t.window x.window) l)).moveFrames_engineOnly x l
    have moved : s.OnlyEnds ((t.setWindow x.window (x.kind.applied (t.window x.window) l)).moveFrames x l) :=
      h.of_entries hm.entries
    exact (moved.setEntry (e := e) (y := none) (by simp)).of_entries (by simp [State.finish])

theorem State.OnlyEnds.closeGroup (h : s.OnlyEnds t) (g : Fin 4) (o : DoneOutcome) (lost : FinSet 8) :
    s.OnlyEnds (t.closeGroup g o lost) := by
  unfold State.closeGroup
  dsimp only
  split
  · exact h.of_entries (by simp [State.finish, State.setGroup])
  · exact h.of_entries rfl

theorem onlyEnds_keeps (s : State) (ab : Option (Fin 4)) : CascadeKeeps s.OnlyEnds ab where
  retake _ hk w _ h := retake_onlyEnds hk w h
  apply e x _ _ h := h.applyParts e x
  ready e x t he h := h.setEntry (by
    rintro z ⟨⟩ a ha
    exact State.awaits_iff.2 ⟨x, he, a, ha⟩)
  close g o l _ h := h.closeGroup g o l

/-! ## How many entries await -/

/-- How many entries await somebody. -/
def State.waiting (s : State) : Nat := (Finset.univ.filter fun e => s.awaits e = true).card

theorem State.OnlyEnds.waiting (h : s.OnlyEnds t) : t.waiting ≤ s.waiting :=
  Finset.card_le_card (Finset.monotone_filter_right _ fun e _ he => h.awaits e he)

theorem mem_emptied {e : Fin 16} : e ∈ emptied s t ↔ s.awaits e = true ∧ t.awaits e = false := by
  simp [emptied]

/-- Fewer entries await where one has ceased to. -/
theorem State.OnlyEnds.waiting_lt (h : s.OnlyEnds t) {e : Fin 16} (he : e ∈ emptied s t) : t.waiting < s.waiting := by
  obtain ⟨hs, ht⟩ := mem_emptied.1 he
  refine Finset.card_lt_card (Finset.ssubset_iff_subset_ne.2
    ⟨Finset.monotone_filter_right _ fun d _ hd => h.awaits d hd, fun heq => ?_⟩)
  have : e ∈ Finset.univ.filter fun d => t.awaits d = true :=
    heq ▸ Finset.mem_filter.2 ⟨Finset.mem_univ e, hs⟩
  rw [Finset.mem_filter, ht] at this
  exact nomatch this.2

/-- An entry that awaits nobody leaves 15 that can. -/
theorem State.waiting_lt_of {e : Fin 16} (he : s.awaits e = false) : s.waiting < 16 := by
  refine lt_of_lt_of_eq (Finset.card_lt_card (Finset.ssubset_univ_iff.2 fun heq => ?_)) (Finset.card_fin 16)
  have : e ∈ Finset.univ.filter fun d => s.awaits d = true := by rw [heq]; exact Finset.mem_univ e
  rw [Finset.mem_filter, he] at this
  exact nomatch this.2

/-! ## Ends of waiting that agree while few entries await -/

/-- Two ways to end an entry's waiting agree while fewer than n entries await, and neither makes one await. -/
structure AgreeBelow (n : Nat) (k k' : EndWait) : Prop where
  eq : ∀ (e : Fin 16) (s : State), s.waiting < n → k e s = k' e s
  ends : ∀ (e : Fin 16) (s : State), s.OnlyEnds (k e s)

/-- Folds of steps that agree, on states of which a property holds that the steps keep. -/
theorem foldl_agree {α : Type} {P : State → Prop} {f f' : State → α → State} (eq : ∀ s x, P s → f s x = f' s x)
    (keep : ∀ s x, P s → P (f s x)) (l : List α) : ∀ s, P s → l.foldl f s = l.foldl f' s := by
  induction l with
  | nil => exact fun _ _ => rfl
  | cons x l ih =>
    intro s hs
    rw [List.foldl_cons, List.foldl_cons, ← eq s x hs]
    exact ih _ (keep s x hs)

section
variable (hk : AgreeBelow n k k')
include hk

theorem AgreeBelow.onlyEnds (e : Fin 16) (t : State) (h : s.OnlyEnds t) : s.OnlyEnds (k e t) := h.trans (hk.ends e t)

theorem AgreeBelow.waiting (e : Fin 16) (t : State) (h : t.waiting < n) : (k e t).waiting < n :=
  (hk.ends e t).waiting.trans_lt h

/-- A nested end follows an entry that has ceased to await. -/
theorem endWaits_agree (h : s.waiting ≤ n) (ht : s.OnlyEnds t) : endWaits k s t = endWaits k' s t := by
  unfold endWaits
  match hl : emptied s t with
  | [] => rfl
  | e :: l =>
    have few : t.waiting < n := (ht.waiting_lt (e := e) (by rw [hl]; exact .head _)).trans_le h
    exact foldl_agree (P := fun u => u.waiting < n) (fun u e hu => hk.eq e u hu) (fun u e hu => hk.waiting e u hu) _ t few

theorem grant_agree (h : s.waiting ≤ n) (a : AgentId) (tag : Fin 4) (w : Nat) (r : Rights) (l : LiveFields) :
    grant k ab a tag w r l s = grant k' ab a tag w r l s := by
  unfold grant
  dsimp only
  split
  · rfl
  · have removed := (State.OnlyEnds.refl s).removeSlot ab a false (s.table a).choose
    refine endWaits_agree hk h (State.OnlyEnds.sendGrant ?_ ..)
    exact removed.of_entries rfl

theorem retakeOne_agree (h : s.waiting ≤ n) (p : Parked) : retakeOne k ab p s = retakeOne k' ab p s := by
  unfold retakeOne answerLookup
  split
  · rfl
  · split
    · rfl
    · have freed : s.OnlyEnds (s.setLookupTag p.agent p.tag false) := (State.OnlyEnds.refl s).of_entries rfl
      exact grant_agree hk (freed.waiting.trans h) ..

/-- A re-take does not tell apart two ways to end waiting that agree while fewer entries await than do now. -/
theorem retake_agree (h : s.waiting ≤ n) (w : Nat) : retake k ab w s = retake k' ab w s := by
  have left : s.OnlyEnds (s.setPark (s.park.filter fun p => p.window != w)) := (State.OnlyEnds.refl s).of_entries rfl
  exact foldl_agree (P := fun u => u.waiting ≤ n) (fun u p hu => retakeOne_agree hk hu p)
    (fun u p hu => (retakeOne_onlyEnds hk.onlyEnds p (.refl u)).waiting.trans hu) _ _ (left.waiting.trans h)

theorem applyEntry_agree (h : s.waiting ≤ n) (e : Fin 16) : applyEntry k ab e s = applyEntry k' ab e s := by
  unfold applyEntry
  split
  · rfl
  · exact retake_agree hk (((State.OnlyEnds.refl s).applyParts e _).waiting.trans h) _

theorem applyGroup_agree (h : s.waiting ≤ n) (g : Fin 4) : applyGroup k ab g s = applyGroup k' ab g s := by
  unfold applyGroup
  rw [foldl_agree (P := fun u => u.waiting ≤ n) (f' := fun s e => applyEntry k' ab e s)
    (fun u e hu => applyEntry_agree hk hu e) (fun u e hu => ?_) _ s h]
  exact (applyEntry_keeps (onlyEnds_keeps u ab) hk.onlyEnds e u (.refl u)).waiting.trans hu

theorem endWaiting_agree (h : s.waiting ≤ n) (e : Fin 16) : endWaiting k ab e s = endWaiting k' ab e s := by
  unfold endWaiting
  split
  · rfl
  · rename_i x hx
    split
    · exact applyEntry_agree hk h e
    · have ready := (onlyEnds_keeps s ab).ready e x s hx (.refl s)
      dsimp only
      split
      · exact applyGroup_agree hk (ready.waiting.trans h) _
      · rfl

end

/-- A depth greater than the number of entries that await makes no difference. -/
theorem cascadeDepth_agree (ab : Option (Fin 4)) (m : Nat) : 
    ∀ n, AgreeBelow n (cascadeDepth ab n) (cascadeDepth ab (n + m)) := by
  intro n
  refine ⟨?_, fun e s => cascadeDepth_keeps (onlyEnds_keeps s ab) n e s (.refl s)⟩
  induction n with
  | zero => exact fun _ _ h => absurd h (Nat.not_lt_zero _)
  | succ n ih =>
    intro e s h
    rw [Nat.add_right_comm]
    exact endWaiting_agree ⟨ih, fun e s => cascadeDepth_keeps (onlyEnds_keeps s ab) n e s (.refl s)⟩ (Nat.lt_succ_iff.1 h) e

/-- Settles O48, by induction on the depth: what a nested end may still nest is bounded by the entries that await. -/
theorem cascadeDepthSuffices : Obligations.CascadeDepthSuffices := by
  unfold Obligations.CascadeDepthSuffices
  intro n g e s he
  exact ((cascadeDepth_agree g n 16).eq e s (State.waiting_lt_of he)).symm

end Sys2Proof.Machine
end

section
/-!
SUPPORT of O26, O36, O38 and O39. What the ends of changes leave of the Park List, the Frame Map and the engine; and the
members of a group that await nobody, which no nested end of another change reaches.
-/

namespace Sys2Proof.Machine

variable {s t u : State} {ab : Option (Fin 4)} {k : EndWait}

theorem foldl_keeps_mem {α σ : Type} {P : σ → Prop} {f : σ → α → σ} {l : List α}
    (h : ∀ s, ∀ x ∈ l, P s → P (f s x)) : ∀ s, P s → P (l.foldl f s) := by
  induction l with
  | nil => exact fun _ hs => hs
  | cons x l ih => exact fun s hs => ih (fun s y hy => h s y (.tail _ hy)) _ (h s x (.head _) hs)

/-! ## The Park List, the Frame Map and the engine -/

/-- Lookups leave the Park List only, the Frame Map stays in its canonical form, and a busy engine stays busy. -/
structure State.Onward (s t : State) : Prop where
  park : ∀ p ∈ t.park, p ∈ s.park
  wf : SparseWf .free s.frames → SparseWf .free t.frames
  busy : s.scrub.engine ≠ .idle → t.scrub.engine ≠ .idle

theorem State.Onward.refl (s : State) : s.Onward s := ⟨fun _ h => h, id, id⟩

theorem State.Onward.trans (h : s.Onward t) (k : t.Onward u) : s.Onward u :=
  ⟨fun p hp => h.park p (k.park p hp), k.wf ∘ h.wf, k.busy ∘ h.busy⟩

theorem State.Onward.of_eq (h : s.Onward t) (hu : (u.park, u.frames, u.scrub) = (t.park, t.frames, t.scrub)) :
    s.Onward u := by
  obtain ⟨hp, hf, hs⟩ : u.park = t.park ∧ u.frames = t.frames ∧ u.scrub = t.scrub := by simpa using hu
  exact ⟨hp ▸ h.park, hf ▸ h.wf, hs ▸ h.busy⟩

theorem State.Onward.removeSlot (h : s.Onward t) (ab : Option (Fin 4)) (a : AgentId) (d : Bool) (i : Fin 64) :
    s.Onward (t.removeSlot ab a d i) := by
  cases hh : (t.table a).slots[i] with
  | none => rwa [State.removeSlot_empty hh]
  | some x =>
    rw [State.removeSlot_held hh, State.report_rest]
    exact h.of_eq rfl

theorem State.Onward.sendGrant (h : s.Onward t) (a : AgentId) (tag : Fin 4) (i : Fin 64) (w : Nat) (l : LiveFields)
    (r : Rights) (v : Option Nat) : s.Onward (t.sendGrant a tag i w l r v) := by
  rw [State.sendGrant_eq]
  exact h.of_eq (by simp)

theorem State.Onward.moveFrames (h : s.Onward t) (x : Entry) (l : LiveFields) : s.Onward (t.moveFrames x l) := by
  have settled (hm : SparseWf .free s.frames) :
      SparseWf .free (if x.kind.moves l then settleReserved x.window (.bound x.window) t.frames else t.frames) := by
    split
    · exact sparseWf_map (h.wf hm) _
    · exact h.wf hm
  unfold State.moveFrames
  dsimp only
  split
  · split
    · rename_i i j _ _
      generalize hm : fillRuns _ _ (.scrubbing i) = m
      have only := (t.setFrames m).enqueue_engineOnly i j
      refine ⟨fun p hp => h.park p (only.park ▸ hp), fun hw => ?_, fun hb => ?_⟩
      · rw [only.frames, ← hm]
        exact fillRuns_wf (settled hw) ..
      · rw [State.enqueue_busy (by exact h.busy hb)]
        exact h.busy hb
    · exact ⟨h.park, settled, h.busy⟩
  · exact ⟨h.park, fun hm => fillRuns_wf (settled hm) .., h.busy⟩

theorem State.Onward.applyParts (h : s.Onward t) (e : Fin 16) (x : Entry) : s.Onward (t.applyParts e x) := by
  unfold State.applyParts
  split
  · exact h
  · have moved := (h.of_eq (u := t.setWindow x.window (x.kind.applied (t.window x.window) ‹_›)) rfl).moveFrames x ‹_›
    exact moved.of_eq (by simp [State.finish])

theorem State.Onward.closeGroup (h : s.Onward t) (g : Fin 4) (o : DoneOutcome) (lost : FinSet 8) :
    s.Onward (t.closeGroup g o lost) := by
  unfold State.closeGroup
  dsimp only
  split
  · exact h.of_eq (by simp [State.finish])
  · exact h.of_eq rfl

theorem grant_onward (hk : ∀ e t, s.Onward t → s.Onward (k e t)) (h : s.Onward t) (a : AgentId) (tag : Fin 4) (w : Nat)
    (r : Rights) (l : LiveFields) : s.Onward (grant k ab a tag w r l t) := by
  unfold grant
  dsimp only
  split
  · refine State.Onward.sendGrant ?_ ..
    exact h.of_eq rfl
  · have removed := h.removeSlot ab a false (t.table a).choose
    refine endWaits_keeps hk _ _ (State.Onward.sendGrant ?_ ..)
    exact removed.of_eq rfl

theorem retake_onward (hk : ∀ e t, s.Onward t → s.Onward (k e t)) (w : Nat) (h : s.Onward t) :
    s.Onward (retake k ab w t) :=
  foldl_keeps (fun _ p h => retakeOne_keeps (P := s.Onward) (fun _ _ _ h => h.of_eq rfl)
    (fun _ _ _ _ _ h => h.of_eq (by simp [State.refuseLookup])) (fun a t w r l _ h => grant_onward hk h a t w r l) p _ h) _ _
    ⟨fun p hp => h.park p (List.mem_filter.1 hp).1, h.wf, h.busy⟩

theorem onward_keeps (s : State) (ab : Option (Fin 4)) : CascadeKeeps s.Onward ab where
  retake _ hk w _ h := retake_onward hk w h
  apply e x _ _ h := h.applyParts e x
  ready _ _ _ _ h := h.of_eq rfl
  close g o l _ h := h.closeGroup g o l

theorem cascadeDepth_onward (ab : Option (Fin 4)) (n : Nat) (e : Fin 16) (s : State) :
    s.Onward (cascadeDepth ab n e s) := cascadeDepth_keeps (onward_keeps s ab) n e s (.refl s)

/-! ## Members that await nobody -/

/-- Since s, the entries of D, members of group g, have stood as they were, and so have the LIVE fields of their windows;
no other entry is of the group. -/
structure Beside (g : Fin 4) (D : Fin 16 → Prop) (s t : State) : Prop where
  entry : ∀ d, D d → t.entry d = s.entry d
  live : ∀ d, D d → ∀ x, s.entry d = some x → (t.window x.window).live = (s.window x.window).live
  own : ∀ e y, t.entry e = some y → y.group = some g → D e
  alone : ∀ c d, D d → d ∈ (t.group c).members → c = g
  group : t.group g = s.group g
  pending : PendingLaw t

section
variable {g : Fin 4} {D : Fin 16 → Prop}

theorem Beside.step (h : Beside g D s t) (he : u.entries = t.entries) (hg : u.groups = t.groups)
    (hw : ∀ w, (u.window w).live = (t.window w).live ∧ (u.window w).pending = (t.window w).pending) : Beside g D s u := by
  have entry (e : Fin 16) : u.entry e = t.entry e := by unfold State.entry; rw [he]
  have group (c : Fin 4) : u.group c = t.group c := by unfold State.group; rw [hg]
  exact {
    entry := fun d hd => (entry d).trans (h.entry d hd)
    live := fun d hd x hx => (hw _).1.trans (h.live d hd x hx)
    own := fun e y hy => h.own e y ((entry e).symm.trans hy)
    alone := fun c d hd hm => h.alone c d hd (group c ▸ hm)
    group := (group g).trans h.group
    pending := h.pending.of_same (fun w => (hw w).2) fun e => by simp only [State.changed, entry] }

theorem Beside.of_eq (h : Beside g D s t) (hu : (u.entries, u.groups, u.windows) = (t.entries, t.groups, t.windows)) :
    Beside g D s u := by
  obtain ⟨he, hg, hw⟩ : u.entries = t.entries ∧ u.groups = t.groups ∧ u.windows = t.windows := by simpa using hu
  exact h.step he hg fun w => by simp only [State.window, hw, and_self]

/-- An entry outside D rewritten, its window and its group kept. -/
theorem Beside.setEntry (h : Beside g D s t) {e : Fin 16} (he : ¬D e) {x y : Entry} (hx : t.entry e = some x)
    (hw : y.window = x.window) (hg : y.group = x.group) : Beside g D s (t.setEntry e (some y)) where
  entry d hd := by
    have hne : d ≠ e := fun hde => he (hde ▸ hd)
    rw [State.entry_setEntry, if_neg hne]
    exact h.entry d hd
  live := h.live
  own d z hz hzg := by
    rw [State.entry_setEntry] at hz
    split at hz
    · rename_i hde
      cases hz
      exact absurd (h.own e x hx (hg ▸ hzg)) he
    · exact h.own d z hz hzg
  alone := h.alone
  group := h.group
  pending := h.pending.of_same (fun _ => rfl) fun d => by
    rw [State.changed_setEntry]
    split
    · rename_i hde
      subst hde
      simp [State.changed, hx, hw]
    · rfl

theorem Beside.mono {D' : Fin 16 → Prop} (h : Beside g D s t) (hD : ∀ d, D' d → D d)
    (own : ∀ e y, t.entry e = some y → y.group = some g → D' e) : Beside g D' s t where
  entry d hd := h.entry d (hD d hd)
  live d hd := h.live d (hD d hd)
  own := own
  alone c d hd := h.alone c d (hD d hd)
  group := h.group
  pending := h.pending

/-- An entry that ends, its window's record written. -/
theorem Beside.clear (h : Beside g D s t) {e : Fin 16} {x : Entry} (hx : t.entry e = some x) {r : Window}
    (hr : r.pending = none) : Beside g (fun d => D d ∧ d ≠ e) s ((t.setWindow x.window r).setEntry e none) where
  entry d hd := by
    rw [State.entry_setEntry, if_neg hd.2]
    exact h.entry d hd.1
  live d hd y hy := by
    rw [State.setEntry_window, State.window_setWindow, if_neg]
    · exact h.live d hd.1 y hy
    · intro hw
      have hd' := h.pending.named d y ((h.entry d hd.1).trans hy)
      rw [hw, h.pending.named e x hx] at hd'
      exact hd.2 (Option.some.inj hd').symm
  own d z hz hzg := by
    rw [State.entry_setEntry] at hz
    split at hz
    · cases hz
    · exact ⟨h.own d z hz hzg, ‹_›⟩
  alone c d hd := h.alone c d hd.1
  group := h.group
  pending := h.pending.clear hx hr

/-- An entry of D has not ceased to await between two states that both leave D as it was. -/
theorem Beside.not_emptied (h : Beside g D s t) (k : Beside g D s u) {e : Fin 16} (he : e ∈ emptied t u) : ¬D e := fun hd => by
  obtain ⟨ht, hu⟩ := mem_emptied.1 he
  rw [State.awaits_of_entry_eq ((h.entry e hd).trans (k.entry e hd).symm), hu] at ht
  cases ht

theorem Beside.applyParts (h : Beside g D s t) {e : Fin 16} {x : Entry} (hx : t.entry e = some x)
    (hl : (t.window x.window).live ≠ none) : Beside g (fun d => D d ∧ d ≠ e) s (t.applyParts e x) := by
  unfold State.applyParts
  split
  · exact absurd ‹_› hl
  · rename_i l _
    obtain ⟨m, hm⟩ := (t.setWindow x.window (x.kind.applied (t.window x.window) l)).moveFrames_engineOnly x l
    refine (h.clear hx (r := x.kind.applied (t.window x.window) l) rfl).of_eq ?_
    simp [hm.windows, hm.entries, hm.groups, State.setEntry]

/-- The application of an entry outside D. -/
theorem Beside.applyParts_outside (h : Beside g D s t) {e : Fin 16} (he : ¬D e) {x : Entry} (hx : t.entry e = some x) :
    Beside g D s (t.applyParts e x) := by
  by_cases hl : (t.window x.window).live = none
  · rw [State.applyParts]
    split
    · exact h
    · rename_i hl'
      rw [hl] at hl'
      cases hl'
  · exact (h.applyParts hx hl).mono (fun d hd => ⟨hd, fun hde => he (hde ▸ hd)⟩) fun d y hy hg =>
      ((h.applyParts hx hl).own d y hy hg).1

theorem Beside.closeGroup (h : Beside g D s t) {c : Fin 4} (hc : c ≠ g) (o : DoneOutcome) (lost : FinSet 8) :
    Beside g D s (t.closeGroup c o lost) := by
  have closed {v : State} (hv : Beside g D s v) : Beside g D s (v.setGroup c .initial) :=
    { entry := hv.entry, live := hv.live, own := hv.own, pending := hv.pending.of_eq rfl
      alone := fun b d hd hm => by
        rw [State.group_setGroup] at hm
        split at hm
        · cases hm
        · exact hv.alone b d hd hm
      group := by rw [State.group_setGroup, if_neg hc.symm]; exact hv.group }
  unfold State.closeGroup
  dsimp only
  split
  · exact closed (h.of_eq (by simp [State.finish]))
  · exact closed h

/-- No report writes an entry of its window's group in that group's abandonment (R97). -/
theorem State.report_abandoning {e : Fin 16} {x : Entry} {w : Nat} (hp : (s.window w).pending = some e)
    (hx : s.entry e = some x) (hg : x.group = some g) (a : AgentId) (d : Bool) : s.report (some g) a w d = s := by
  unfold State.report
  rw [hp]
  dsimp only
  rw [hx]
  dsimp only
  exact if_neg (by simp [hg])

/-- The entries of D await nobody, or their group is being abandoned: no release is theirs. -/
def SparesReleases (ab : Option (Fin 4)) (g : Fin 4) (D : Fin 16 → Prop) (s : State) : Prop :=
  ∀ d, D d → s.awaits d = false ∨ ab = some g ∧ ∀ x ∈ s.entry d, x.group = some g

variable (hq : SparesReleases ab g D s)
include hq

theorem Beside.report (h : Beside g D s t) (a : AgentId) (w : Nat) (d : Bool) : Beside g D s (t.report ab a w d) := by
  rcases t.report_cases ab a w d with hr | ⟨e, x, hp, hx, -, ha, hr⟩
  · rw [hr]
    exact h
  · by_cases he : D e
    · rcases hq e he with hn | ⟨rfl, hg⟩
      · rw [← State.awaits_of_entry_eq (h.entry e he), State.awaits_iff.2 ⟨x, hx, a, ha⟩] at hn
        cases hn
      · rw [State.report_abandoning hp hx (hg x ((h.entry e he).symm.trans hx))]
        exact h
    · rw [hr]
      exact h.setEntry he hx rfl rfl

theorem Beside.removeSlot (h : Beside g D s t) (a : AgentId) (d : Bool) (i : Fin 64) :
    Beside g D s (t.removeSlot ab a d i) := by
  cases hh : (t.table a).slots[i] with
  | none => rwa [State.removeSlot_empty hh]
  | some x =>
    rw [State.removeSlot_held hh]
    refine Beside.report hq ?_ ..
    refine h.step rfl rfl fun w => ?_
    rw [State.window_setWindow]
    split
    · subst_vars
      exact ⟨rfl, rfl⟩
    · exact ⟨rfl, rfl⟩

section
variable (hk : ∀ e t, ¬D e → Beside g D s t → Beside g D s (k e t))
include hk

/-- What nested ends keep of D when they are of entries outside it, a grant keeps. -/
theorem grant_beside (h : Beside g D s t) (a : AgentId) (tag : Fin 4) (w : Nat) (r : Rights) (l : LiveFields) :
    Beside g D s (grant k ab a tag w r l t) := by
  have sent {v : State} (hv : Beside g D s v) (i : Fin 64) (r : Rights) (ev : Option Nat) :
      Beside g D s (v.sendGrant a tag i w l r ev) := by
    rw [State.sendGrant_eq]
    exact hv.of_eq (by simp)
  unfold grant
  dsimp only
  split
  · refine sent ?_ ..
    exact h.of_eq rfl
  · have removed := h.removeSlot hq a false (t.table a).choose
    suffices after : Beside g D s _ from
      foldl_keeps_mem (P := Beside g D s) (fun u e he hu => hk e u (h.not_emptied after he) hu) _ after
    refine sent ?_ ..
    refine removed.step rfl rfl fun v => ?_
    rw [State.window_setWindow]
    split
    · subst_vars
      exact ⟨rfl, rfl⟩
    · exact ⟨rfl, rfl⟩

theorem retake_beside (w : Nat) (h : Beside g D s t) : Beside g D s (retake k ab w t) :=
  foldl_keeps (fun _ p h => retakeOne_keeps (P := Beside g D s) (fun _ _ _ h => h.of_eq rfl)
    (fun _ _ _ _ _ h => h.of_eq (by simp [State.refuseLookup]))
    (fun a t w r l _ h => grant_beside hq hk h a t w r l) p _ h) _ _ (h.of_eq rfl)

theorem applyEntry_beside {e : Fin 16} (he : ¬D e) (h : Beside g D s t) : Beside g D s (applyEntry k ab e t) := by
  unfold applyEntry
  split
  · exact h
  · exact retake_beside hq hk _ (h.applyParts_outside he ‹_›)

theorem applyGroup_beside {c : Fin 4} (hc : c ≠ g) (h : Beside g D s t) : Beside g D s (applyGroup k ab c t) := by
  unfold applyGroup
  refine Beside.closeGroup ?_ hc ..
  exact foldl_keeps_mem (P := fun u => Beside g D s u)
    (fun u e he hu => applyEntry_beside hq hk (fun hd => hc (h.alone c e hd he)) hu) _ h

theorem endWaiting_beside {e : Fin 16} (he : ¬D e) (h : Beside g D s t) : Beside g D s (endWaiting k ab e t) := by
  unfold endWaiting
  split
  · exact h
  · rename_i x hx
    split
    · exact applyEntry_beside hq hk he h
    · rename_i c hc
      have ready := h.setEntry he hx (y := { x with state := .ready }) rfl rfl
      dsimp only
      split
      · refine applyGroup_beside hq hk (fun hcg => ?_) ready
        exact he (h.own e x hx (hc.trans (congrArg some hcg)))
      · exact ready

end

/-- No end of a change outside D reaches D, at any depth. -/
theorem cascadeDepth_beside (n : Nat) :
    ∀ e t, ¬D e → Beside g D s t → Beside g D s (cascadeDepth ab n e t) := by
  induction n with
  | zero => exact fun _ _ _ h => h
  | succ n ih => exact fun e t he h => endWaiting_beside hq ih he h

end

/-! ## Members applied one after another -/

/-- What an application of entry e needs of the rest of the state. -/
structure State.Serving (s : State) : Prop where
  up : s.isUp .sup = true
  wf : SparseWf .free s.frames
  park : s.parkSound

theorem State.Serving.next (h : s.Serving) (hs : Steady s t) (ho : s.Onward t) : t.Serving where
  up := (State.isUp_eq hs.links _).trans h.up
  wf := ho.wf h.wf
  park p hp := by
    rw [hs.state]
    exact h.park p (ho.park p hp)

theorem applyEntry_cascade_steady (e : Fin 16) (s : State) : Steady s (applyEntry cascade none e s) := by
  unfold applyEntry
  split
  · exact .refl s
  · exact retake_steady (o := s) (fun e t h => h.trans (cascade_steady e t)) none _ _ (s.applyParts_steady e _)

theorem applyEntry_cascade_onward (e : Fin 16) (s : State) : s.Onward (applyEntry cascade none e s) :=
  applyEntry_keeps (onward_keeps s none) (fun e t h => h.trans (cascadeDepth_onward none _ e t)) e s (.refl s)

/-- An entry of s, whose window is LIVE, can be applied as long as nothing but its engine stands against it. -/
def State.Member (s t : State) (d : Fin 16) (x : Entry) (l : LiveFields) : Prop :=
  s.entry d = some x ∧ (s.window x.window).live = some l ∧ x.kind.slotFits l x.scrubSlot ∧
    (t.scrub.engine ≠ .idle ∨ x.scrubSlot = none)

/-- Members of a group that await nobody, applied one after another, each whole with its re-take. -/
theorem foldl_applyEntry {g : Fin 4} : ∀ (L : List (Fin 16)) (t : State), L.Nodup → Beside g (· ∈ L) s t →
    (∀ d ∈ L, s.awaits d = false) → t.Serving → (∀ d ∈ L, ∃ x l, s.Member t d x l) →
      State.AppliesAll L t (L.foldl (fun s e => applyEntry cascade none e s) t) ∧
        (L.foldl (fun s e => applyEntry cascade none e s) t).group g = s.group g ∧
        (L.foldl (fun s e => applyEntry cascade none e s) t).Serving := by
  intro L
  induction L with
  | nil => exact fun t _ hb _ hs _ => ⟨rfl, hb.group, hs⟩
  | cons d L ih =>
    intro t hnd hb hq hs hm
    obtain ⟨hdL, hnd⟩ := List.nodup_cons.1 hnd
    obtain ⟨x, l, hx, hl, hf, he⟩ := hm d (.head _)
    have entry : t.entry d = some x := (hb.entry d (.head _)).trans hx
    have live : (t.window x.window).live = some l := (hb.live d (.head _) x hx).trans hl
    have applicable : t.Applicable d x l := ⟨entry, live, hs.up, hs.wf, hf, he⟩
    have applied := applyEntry_eq entry live hf hs.park
    have left : Beside g (· ∈ L) s (t.applyParts d x) :=
      (hb.applyParts entry (by rw [live]; nofun)).mono (fun c hc => ⟨.tail _ hc, fun hcd => hdL (hcd ▸ hc)⟩)
        fun c y hy hg =>
          have ⟨hc, hcd⟩ := (hb.applyParts entry (by rw [live]; nofun)).own c y hy hg
          (List.mem_cons.1 hc).resolve_left hcd
    have beside : Beside g (· ∈ L) s (applyEntry cascade none d t) := by
      rw [applyEntry, entry]
      have rest : SparesReleases none g (· ∈ L) s := fun c hc => .inl (hq c (.tail _ hc))
      exact retake_beside rest (cascadeDepth_beside rest _) _ left
    have onward := applyEntry_cascade_onward d t
    obtain ⟨all, group, serving⟩ := ih _ hnd beside (fun c hc => hq c (.tail _ hc))
      (hs.next (applyEntry_cascade_steady d t) onward) fun c hc => by
        obtain ⟨y, l', hy, hl', hf', he'⟩ := hm c (.tail _ hc)
        exact ⟨y, l', hy, hl', hf', he'.imp_left onward.busy⟩
    refine ⟨⟨_, x, l, entry, live, applicable.applies, ?_⟩, group, serving⟩
    rw [← applied]
    exact all

end Sys2Proof.Machine
end

section
/-!
PROOFS of O26: the last awaited release applies a standalone change, or readies a group member and applies the group.
-/

namespace Sys2Proof.Machine

variable {s t u : State} {a : AgentId} {i : Fin 64} {h : Holding} {e : Fin 16} {x : Entry} {c : Instr} {g : Fin 4}

/-! ## The end of a group -/

/-- The union of the members' lost sets. -/
theorem State.groupLost_eq (s : State) (g : Fin 4) :
    s.groupLost g = Vector.ofFn fun b => (s.group g).members.any fun d => (s.entry d).any fun y => y.lost[b] := by
  have join (l : List (Fin 16)) : ∀ (v : FinSet 8) (b : AgentId),
      (l.foldl (fun t e => match s.entry e with | some x => t.join x.lost | none => t) v)[b] =
        (v[b] || l.any fun d => (s.entry d).any fun y => y.lost[b]) := by
    induction l with
    | nil => simp
    | cons d l ih =>
      intro v b
      rw [List.foldl_cons, ih, List.any_cons]
      cases s.entry d with
      | none => simp
      | some y =>
        show ((v.join y.lost)[b] || _) = _
        rw [FinSet.get_join, Bool.or_assoc]
        rfl
  refine FinSet.eq_of_get fun b => ?_
  rw [State.groupLost]
  refine (join _ _ b).trans ?_
  simp [noneOf]

/-- The end of a RECALLING group: its commit's DONE, its commit tag free, the group FREE. -/
theorem State.closeGroup_recalling {tag : BitVec 8} (hg : (s.group g).state = .recalling tag) (hup : s.isUp .sup = true)
    (o : DoneOutcome) (lost : FinSet 8) :
    s.closeGroup g o lost =
      { s.setGroup g { state := .free, members := [] } with
        tags := natErase s.tags tag.toNat
        out := { s.out with sup := s.out.sup ++ [.done tag o none lost none none] } } := by
  unfold State.closeGroup
  rw [hg]
  dsimp only
  rw [State.finish, State.sendSup_of_up (by exact hup)]
  rfl

/-! ## What a release leaves as it was -/

/-- Groups, parked lookups, port states and the pending changes of windows. -/
structure State.SameBut (s u : State) : Prop where
  groups : u.groups = s.groups
  park : u.park = s.park
  state : ∀ b, (u.port b).state = (s.port b).state
  pending : ∀ w, (u.window w).pending = (s.window w).pending

theorem State.without_sameBut (s : State) (a : AgentId) (i : Fin 64) (h : Holding) (e : Fin 16) (x : Entry) :
    s.SameBut (s.without a i h e x) where
  groups := rfl
  park := rfl
  state _ := rfl
  pending w := by
    by_cases hw : w = h.window
    · subst hw
      show (State.window (State.setWindow _ h.window _) h.window).pending = _
      rw [State.window_setWindow, if_pos rfl]
    · rw [State.without_window hw]

theorem givesBack_sameBut (hc : s.GivesBack a i h e x c u) : s.SameBut u := by
  have without := s.without_sameBut a i h e x
  obtain ⟨tag, rfl, rfl⟩ | ⟨w, g, rfl, hw, hlt, hg, hr, once, rfl⟩ | ⟨tag, rfl, hno, rfl⟩ |
    ⟨tag, n, rfl, hb, hno, rfl⟩ | ⟨t, w, r, l, rfl, hw, hr, htag, hgr, hfull, hno, hptr, rfl⟩ := hc
  · exact ⟨rfl, rfl, without.state, without.pending⟩
  · exact ⟨rfl, rfl, without.state, without.pending⟩
  · exact ⟨rfl, rfl, without.state, without.pending⟩
  · refine ⟨rfl, rfl, fun b => ?_, without.pending⟩
    show ((State.setPort _ a _).port b).state = _
    rw [State.port_setPort]
    split
    · subst_vars
      rfl
    · rfl
  · refine ⟨rfl, rfl, without.state, fun v => ?_⟩
    show ((State.setWindow _ w.toNat _).window v).pending = _
    rw [State.window_setWindow]
    split
    · subst_vars
      rfl
    · exact without.pending v

theorem State.SameBut.group (h : s.SameBut u) (c : Fin 4) : u.group c = s.group c := by
  unfold State.group
  rw [h.groups]

theorem State.SameBut.parkSound (h : s.SameBut u) (hs : s.parkSound) : u.parkSound := fun p hp => by
  rw [h.state]
  exact hs p (h.park ▸ hp)

/-! ## The last release -/

/-- The one entry that has ceased to await, every other as it was. -/
theorem emptied_single (hs : s.awaits e = true) (hu : u.awaits e = false) (h : ∀ d, d ≠ e → u.entry d = s.entry d) :
    emptied s u = [e] := by
  have only : ∀ d, (s.awaits d && !u.awaits d) = decide (d = e) := fun d => by
    by_cases hd : d = e
    · subst hd
      simp [hs, hu]
    · rw [State.awaits_of_entry_eq (s := s) (t := u) (h d hd)]
      simp [hd]
  have single : ∀ d : Fin 16, (List.finRange 16).filter (fun d' => decide (d' = d)) = [d] := by decide
  unfold emptied
  rw [List.filter_congr fun d _ => only d, single]

/-- The one entry that awaited a, and a alone, is the one that ends its waiting. -/
theorem emptied_givesBack (hx : s.entry e = some x) (hx1 : ∀ b, x.awaited[b] = decide (b = a))
    (hc : s.GivesBack a i h e x c u) : u.awaits e = false ∧ emptied s u = [e] := by
  have entry := givesBack_entry hc
  have ended : u.awaits e = false := by
    rw [Bool.eq_false_iff]
    intro ha
    obtain ⟨y, hy, b, hb⟩ := State.awaits_iff.1 ha
    rw [entry, if_pos rfl] at hy
    cases hy
    rw [Entry.released, vector_get_set] at hb
    split at hb
    · cases hb
    · rename_i hba
      rw [hx1, decide_eq_true_iff] at hb
      exact hba hb
  exact ⟨ended, emptied_single (State.awaits_iff.2 ⟨x, hx, a, by rw [hx1]; simp⟩) ended fun d hd => by
    rw [entry, if_neg hd]⟩

/-- The end of the waiting of a standalone entry that awaits nobody. -/
theorem cascade_standalone {l : LiveFields} (he : s.awaits e = false) (ha : s.Applicable e x l) (hg : x.group = none)
    (hs : s.parkSound) : cascade e s = (s.applyParts e x).retaken x.window := by
  show endWaiting (cascadeDepth none 15) none e s = _
  unfold endWaiting
  rw [ha.entry]
  dsimp only
  rw [hg]
  dsimp only
  rw [applyEntry_agree (cascadeDepth_agree none 1 15) (Nat.le_of_lt_succ (State.waiting_lt_of he)) e]
  exact applyEntry_eq ha.entry ha.live ha.fits hs

/-- The application of a group whose members await nobody, with its members' re-takes. -/
theorem applyGroup_members (hb : Beside g (· ∈ (s.group g).members) s s) (hnd : (s.group g).members.Nodup)
    (hq : ∀ d ∈ (s.group g).members, s.awaits d = false) (hs : s.Serving)
    (hm : ∀ d ∈ (s.group g).members, ∃ x l, s.Member s d x l) {tag : BitVec 8}
    (hg : (s.group g).state = .recalling tag) :
    ∃ v : State, State.AppliesAll (s.group g).members s v ∧
      applyGroup cascade none g s =
        { v.setGroup g { state := .free, members := [] } with
          tags := natErase v.tags tag.toNat
          out := { v.out with sup := v.out.sup ++ [.done tag .applied none (s.groupLost g) none none] } } := by
  obtain ⟨all, group, serving⟩ := foldl_applyEntry (s := s) _ s hnd hb hq hs hm
  exact ⟨_, all, State.closeGroup_recalling (by rw [group]; exact hg) serving.up _ _⟩

/-- The last awaited member of a group that becomes READY. -/
theorem cascade_member (he : s.awaits e = false) (hx : s.entry e = some x) (hg : x.group = some g) :
    cascade e s =
      if (s.setEntry e (some { x with state := .ready })).allReady g then
        applyGroup cascade none g (s.setEntry e (some { x with state := .ready }))
      else s.setEntry e (some { x with state := .ready }) := by
  have ready : s.OnlyEnds (s.setEntry e (some { x with state := .ready })) :=
    (onlyEnds_keeps s none).ready e x s hx (.refl s)
  have few : (s.setEntry e (some { x with state := .ready })).waiting ≤ 15 :=
    ready.waiting.trans (Nat.le_of_lt_succ (State.waiting_lt_of he))
  show endWaiting (cascadeDepth none 15) none e s = _
  unfold endWaiting
  rw [hx]
  dsimp only
  split
  · rename_i hnone
    rw [hg] at hnone
    cases hnone
  · rename_i c hc
    obtain rfl : c = g := Option.some.inj (hc.symm.trans hg)
    rw [applyGroup_agree (cascadeDepth_agree none 1 15) few]
    rfl

theorem State.allReady_eq_true :
    s.allReady g = true ↔ ∀ d ∈ (s.group g).members, ∃ y, s.entry d = some y ∧ y.state = .ready := by
  unfold State.allReady
  rw [List.all_eq_true]
  refine forall₂_congr fun d _ => ?_
  cases s.entry d <;> simp

/-- Settles O26. -/
theorem theLastReleaseApplies : Obligations.TheLastReleaseApplies := by
  unfold Obligations.TheLastReleaseApplies
  intro a i h e x c s u hs hpark hh hp hx hxw hst hx1 hother hc
  obtain ⟨ended, only⟩ := emptied_givesBack hx hx1 hc
  have entry := givesBack_entry hc
  have same := givesBack_sameBut hc
  have run : exec c s = .next (cascade e u) := by
    rw [exec_givesBack hs hh hp hx (by rw [hst]; nofun) (by rw [hx1]; simp) hc, endWaits, only]
    rfl
  have mine : u.entry e = some (x.released a false) := (entry e).trans (if_pos rfl)
  refine ⟨fun hg l ha => ⟨_, ?_, ha.applies⟩, fun g hg hmem => ⟨fun hnot => ?_, fun t ht hgl hpl hnd hall => ?_⟩⟩
  · rw [run, cascade_standalone ended ha hg (same.parkSound hpark)]
    rfl
  · rw [run, cascade_member ended mine hg, if_neg]
    obtain ⟨d, hd, hde, hy⟩ := hnot
    rw [State.allReady_eq_true]
    intro hready
    obtain ⟨y, hy', hr⟩ := hready d ((same.group g).symm ▸ hd)
    rw [State.entry_setEntry, if_neg hde, entry, if_neg hde] at hy'
    exact hy y hy' hr
  · set s1 := u.setEntry e (some { x.released a false with state := .ready }) with hs1
    have group (c : Fin 4) : s1.group c = s.group c := same.group c
    have entry1 (d : Fin 16) : s1.entry d =
        if d = e then some { x.released a false with state := .ready } else s.entry d := by
      rw [hs1, State.entry_setEntry]
      split
      · rfl
      · rw [entry, if_neg ‹_›]
    have of_group {d : Fin 16} {y : Entry} {c : Fin 4} (hy : s1.entry d = some y) (hc : y.group = some c) :
        d ∈ (s.group c).members := by
      rw [entry1] at hy
      split at hy
      · rename_i hde
        cases hy
        rw [hde, Option.some.inj (hc.symm.trans hg)]
        exact hmem
      · exact (hgl.member d c).2 ⟨y, hy, hc⟩
    have pending : PendingLaw s1 := hpl.of_same same.pending fun d => by
      simp only [State.changed, entry1]
      split
      · rename_i hde
        rw [hde, hx]
        rfl
      · rfl
    have beside : Beside g (· ∈ (s1.group g).members) s1 s1 :=
      { entry := fun _ _ => rfl, live := fun _ _ _ _ => rfl, group := rfl, pending := pending
        own := fun d y hy hyg => by
          rw [group]
          exact of_group hy hyg
        alone := fun b d hd hb => by
          rw [group] at hd hb
          obtain ⟨y, hy, hyg⟩ := (hgl.member d g).1 hd
          obtain ⟨z, hz, hzb⟩ := (hgl.member d b).1 hb
          cases hy.symm.trans hz
          exact Option.some.inj (hzb.symm.trans hyg) }
    have standing (d : Fin 16) (hd : d ∈ (s1.group g).members) : ∃ y l, s1.Member s1 d y l ∧ y.state = .ready ∧
        ∀ b : AgentId, y.awaited[b] = false := by
      obtain ⟨y, hy, hyd, l, ha⟩ := hall d (group g ▸ hd)
      by_cases hde : d = e
      · rw [if_pos hde] at ha
        refine ⟨_, l, ⟨(entry1 d).trans (if_pos hde), ha.live, ha.fits, ha.engine⟩, rfl, fun b => ?_⟩
        show (x.released a false).awaited[b] = false
        rw [Entry.released, vector_get_set, hx1]
        by_cases hba : b = a <;> simp [hba]
      · rw [if_neg hde] at ha
        obtain ⟨hr, hn⟩ := hyd.resolve_left hde
        refine ⟨y, l, ⟨(entry1 d).trans ((if_neg hde).trans hy), ha.live, ha.fits, ha.engine⟩, hr, fun b => ?_⟩
        rw [hn]
        simp [noneOf]
    have quiet (d : Fin 16) (hd : d ∈ (s1.group g).members) : s1.awaits d = false := by
      obtain ⟨y, l, ⟨hy, -⟩, -, hn⟩ := standing d hd
      rw [Bool.eq_false_iff]
      intro ha
      obtain ⟨z, hz, b, hb⟩ := State.awaits_iff.1 ha
      cases hy.symm.trans hz
      rw [hn] at hb
      cases hb
    have serving : s1.Serving := by
      obtain ⟨y, hy, hyd, l, ha⟩ := hall e hmem
      exact ⟨ha.up, ha.wf, same.parkSound hpark⟩
    have ready : s1.allReady g = true := State.allReady_eq_true.2 fun d hd => by
      obtain ⟨y, l, ⟨hy, -⟩, hr, -⟩ := standing d hd
      exact ⟨y, hy, hr⟩
    have lost : s1.groupLost g =
        Vector.ofFn fun b => (s.group g).members.any fun d => (s.entry d).any fun y => y.lost[b] := by
      rw [State.groupLost_eq, group]
      congr 1
      funext b
      congr 1
      funext d
      rw [entry1]
      split
      · rename_i hde
        rw [hde, hx]
        rfl
      · rfl
    obtain ⟨v, hv, happly⟩ := applyGroup_members beside (group g ▸ hnd) quiet serving
      (fun d hd => have ⟨y, l, hm, _⟩ := standing d hd; ⟨y, l, hm⟩) (by rw [group]; exact ht)
    refine ⟨v, group g ▸ hv, ?_⟩
    rw [run, cascade_member ended mine hg, if_pos ready, happly, lost]

end Sys2Proof.Machine
end

section
/-!
PROOFS of O35 and O39: ABANDON and GROUP_ABANDON.
-/

namespace Sys2Proof.Machine

variable {s t u : State} {e : Fin 16} {x : Entry} {g : Fin 4}

/-! ## The parts of an abandonment -/

theorem State.abandonParts_eq (hup : s.isUp .sup = true) :
    s.abandonParts e x =
      { (s.setWindow x.window { s.window x.window with pending := none }).setEntry e none with
        frames := settleReserved x.window .free s.frames
        scrub :=
          match x.scrubSlot with
          | some i => { s.scrub with slots := s.scrub.slots.set i .free }
          | none => s.scrub
        tags := natErase s.tags x.tag.toNat
        out :=
          { s.out with
            sup := s.out.sup ++
              [.done x.tag .abandoned (some (s.window x.window).generation) x.lost none none] } } := by
  unfold State.abandonParts
  cases x.scrubSlot with
  | none =>
    dsimp only
    rw [State.finish, State.sendSup_of_up (by exact hup)]
    rfl
  | some i =>
    dsimp only
    rw [State.finish, State.sendSup_of_up (by exact hup)]
    rfl

theorem State.abandonParts_abandons (hup : s.isUp .sup = true) (hm : SparseWf .free s.frames) :
    s.Abandons (s.abandonParts e x) e x := by
  have eq := State.abandonParts_eq (e := e) (x := x) hup
  have frames : (s.abandonParts e x).frames = settleReserved x.window .free s.frames := congrArg State.frames eq
  refine ⟨?_, fun f => ?_⟩
  · rw [frames]
    refine eq.trans ?_
    cases x.scrubSlot <;> rfl
  · unfold State.frame
    rw [frames]
    exact settleReserved_get hm ..

theorem State.abandonParts_wf (hup : s.isUp .sup = true) (hm : SparseWf .free s.frames) :
    SparseWf .free (s.abandonParts e x).frames := by
  have frames : (s.abandonParts e x).frames = settleReserved x.window .free s.frames :=
    congrArg State.frames (State.abandonParts_eq hup)
  rw [frames]
  exact sparseWf_map hm _

theorem State.Abandons.park (h : s.Abandons t e x) : t.park = s.park := (congrArg State.park h.rest).trans rfl
theorem State.Abandons.ports (h : s.Abandons t e x) : t.ports = s.ports := (congrArg State.ports h.rest).trans rfl
theorem State.Abandons.links (h : s.Abandons t e x) : t.links = s.links := (congrArg State.links h.rest).trans rfl

theorem State.Abandons.window (h : s.Abandons t e x) (w : Nat) :
    t.window w = if w = x.window then { s.window x.window with pending := none } else s.window w := by
  rw [h.rest]
  exact sparseGet_set ..

theorem State.Abandons.entry (h : s.Abandons t e x) (d : Fin 16) :
    t.entry d = if d = e then none else s.entry d := by
  rw [h.rest]
  exact State.entry_setEntry ..

theorem State.Abandons.slot (h : s.Abandons t e x) (i : Fin 16) :
    t.slot i = if x.scrubSlot = some i then .free else s.slot i := by
  rw [h.rest]
  cases hx : x.scrubSlot with
  | none => simp [State.slot]
  | some j =>
    refine (s.slot_setSlot j i .free).trans (if_congr ?_ rfl rfl)
    rw [Option.some.injEq, eq_comm]

/-- An abandonment leaves every other part of the state. -/
theorem State.Abandons.over (h : s.Abandons t e x) (a : Sparse Window) (b : Vector (Option Entry) 16)
    (m : Sparse FrameState) (y : Scrub) (n : NatSet) (o : Outputs) :
    { t with windows := a, entries := b, frames := m, scrub := y, tags := n, out := o } =
      { s with windows := a, entries := b, frames := m, scrub := y, tags := n, out := o } :=
  congrArg (fun u : State => { u with windows := a, entries := b, frames := m, scrub := y, tags := n, out := o }) h.rest

/-- The DONEs of abandoned members, in member order. -/
def State.abandonDones (s : State) (L : List (Fin 16)) : List SupMsg :=
  L.filterMap fun d => (s.entry d).map fun x =>
    .done x.tag .abandoned (some (s.window x.window).generation) x.lost none none

/-- Members abandoned one after another with no lookup parked: what the members' abandonments leave. -/
structure State.Abandoned (s t : State) (L : List (Fin 16)) : Prop where
  rest : t =
    { s with
      windows := t.windows
      entries := t.entries
      frames := t.frames
      scrub := { s.scrub with slots := t.scrub.slots }
      tags := t.tags
      out := { s.out with sup := s.out.sup ++ s.abandonDones L } }
  entry : ∀ d, t.entry d = if d ∈ L then none else s.entry d
  slot : ∀ i, t.slot i = if ∃ d ∈ L, ∃ x ∈ s.entry d, x.scrubSlot = some i then .free else s.slot i
  window : ∀ w, t.window w =
    if ∃ d ∈ L, ∃ x ∈ s.entry d, x.window = w then { s.window w with pending := none } else s.window w
  frame : ∀ f, t.frame f = if ∃ d ∈ L, ∃ x ∈ s.entry d, s.frame f = .reserved x.window then .free else s.frame f
  wf : SparseWf .free t.frames
  tags : ∀ n, n ∈ t.tags ↔ n ∈ s.tags ∧ ∀ d ∈ L, ∀ x ∈ s.entry d, n ≠ x.tag.toNat

theorem retake_unparked (hp : s.park = []) (k : EndWait) (ab : Option (Fin 4)) (w : Nat) : retake k ab w s = s := by
  unfold retake
  rw [hp]
  show State.setPark s [] = s
  rw [← hp]
  rfl

theorem abandonMember_unparked (hp : s.park = []) (hx : s.entry e = some x) (hup : s.isUp .sup = true) :
    abandonMember g e s = s.abandonParts e x := by
  unfold abandonMember
  rw [hx]
  refine retake_unparked ?_ ..
  rw [State.abandonParts_eq hup]
  exact hp

theorem State.Abandoned.nil (hm : SparseWf .free s.frames) : s.Abandoned s [] where
  rest := by
    simp [State.abandonDones]
  entry := by simp
  slot := by simp
  window := by simp
  frame := by simp
  wf := hm
  tags := by simp

theorem ite_or_else {α : Type} {A B : Prop} [Decidable A] [Decidable B] {y z : α} :
    (if B then y else if A then y else z) = if A ∨ B then y else z := by
  by_cases hB : B <;> simp [hB]

/-- One more member abandoned before the others. -/
theorem State.Abandoned.cons {L : List (Fin 16)} {v : State} (hv : s.Abandons v e x) (hx : s.entry e = some x)
    (heL : e ∉ L) (h : v.Abandoned t L) : s.Abandoned t (e :: L) := by
  have entry (d : Fin 16) (hd : d ∈ L) : v.entry d = s.entry d := by
    have hne : d ≠ e := fun hde => heL (hde ▸ hd)
    rw [hv.entry, if_neg hne]
  have exists_cons (p : Entry → Prop) : (∃ d ∈ e :: L, ∃ y ∈ s.entry d, p y) ↔ p x ∨ ∃ d ∈ L, ∃ y ∈ v.entry d, p y := by
    rw [List.exists_mem_cons_iff]
    refine or_congr (by simp [hx]) ?_
    exact exists_congr fun d => and_congr_right fun hd => by rw [entry d hd]
  have generation (w : Nat) : (v.window w).generation = (s.window w).generation := by
    rw [hv.window]
    split
    · subst_vars
      rfl
    · rfl
  have done : v.abandonDones L = s.abandonDones L :=
    List.filterMap_congr fun d hd => by simp only [entry d hd, generation]
  refine
    { rest := ?_
      entry := fun d => ?_
      slot := fun i => ?_
      window := fun w => ?_
      frame := fun f => ?_
      wf := h.wf
      tags := fun n => ?_ }
  · have out : v.out.sup = s.out.sup ++
        [.done x.tag .abandoned (some (s.window x.window).generation) x.lost none none] :=
      congrArg (fun u : State => u.out.sup) hv.rest
    have scrub : { v.scrub with slots := t.scrub.slots } = { s.scrub with slots := t.scrub.slots } := by
      rw [congrArg State.scrub hv.rest]
      cases x.scrubSlot <;> rfl
    have sup : v.out.sup ++ v.abandonDones L = s.out.sup ++ s.abandonDones (e :: L) := by
      rw [out, done, State.abandonDones, State.abandonDones, List.filterMap_cons, hx]
      simp
    have outs : { v.out with sup := v.out.sup ++ v.abandonDones L } =
        { s.out with sup := s.out.sup ++ s.abandonDones (e :: L) } := by
      rw [sup, congrArg State.out hv.rest]
    rw [← outs, ← hv.over, ← scrub]
    exact h.rest
  · rw [h.entry, hv.entry]
    by_cases hd : d ∈ L <;> simp [hd]
  · rw [h.slot, hv.slot, ite_or_else, if_congr (exists_cons _) rfl rfl]
  · rw [h.window, hv.window, if_congr (exists_cons _) rfl rfl]
    by_cases hw : w = x.window
    · subst hw
      simp
    · simp [hw, Ne.symm hw]
  · rw [h.frame, hv.frames, if_congr (exists_cons fun y => s.frame f = .reserved y.window) rfl rfl]
    by_cases hf : s.frame f = .reserved x.window
    · simp [hf]
    · simp [hf]
  · rw [h.tags, congrArg State.tags hv.rest]
    dsimp only
    rw [mem_natErase, List.forall_mem_cons, hx]
    refine ⟨fun ⟨⟨hne, hn⟩, hL⟩ => ⟨hn, fun y hy => ?_, fun d hd => ?_⟩, fun ⟨hn, hne, hL⟩ => ⟨⟨hne x rfl, hn⟩, fun d hd => ?_⟩⟩
    · cases hy
      exact hne
    · rw [← entry d hd]
      exact hL d hd
    · rw [entry d hd]
      exact hL d hd

/-- Members abandoned one after another while no lookup is parked. -/
theorem foldl_abandonMember_unparked (L : List (Fin 16)) : ∀ s : State, s.park = [] → s.isUp .sup = true →
    SparseWf .free s.frames → L.Nodup → (∀ d ∈ L, s.entry d ≠ none) →
      s.Abandoned (L.foldl (fun s e => abandonMember g e s) s) L := by
  induction L with
  | nil => exact fun s _ _ hm _ _ => .nil hm
  | cons e L ih =>
    intro s hp hup hm hnd hin
    obtain ⟨heL, hnd⟩ := List.nodup_cons.1 hnd
    obtain ⟨x, hx⟩ := Option.ne_none_iff_exists'.1 (hin e (.head _))
    have abandons := State.abandonParts_abandons (e := e) (x := x) hup hm
    rw [List.foldl_cons, abandonMember_unparked hp hx hup]
    refine .cons abandons hx heL (ih _ (abandons.park.trans hp) ((State.isUp_eq abandons.links _).trans hup)
      (State.abandonParts_wf hup hm) hnd fun d hd => ?_)
    have hne : d ≠ e := fun hde => heL (hde ▸ hd)
    rw [abandons.entry, if_neg hne]
    exact hin d (.tail _ hd)

/-! ## GROUP_ABANDON -/

/-- The DONE of a group's commit. -/
def GroupState.commitDone (lost : FinSet 8) : GroupState → List SupMsg
  | .recalling c => [.done c .abandoned none lost none none]
  | _ => []

/-- The tags in use without a group's commit tag. -/
def GroupState.freed (tags : NatSet) : GroupState → NatSet
  | .recalling c => natErase tags c.toNat
  | _ => tags

/-- The end of a group abandoned, and the GROUP_ABANDON's own DONE. -/
theorem State.closeGroup_abandoned (hup : s.isUp .sup = true) (lost : FinSet 8) (tag : BitVec 8) :
    (s.closeGroup g .abandoned lost).sendPlainDone tag =
      { s.setGroup g { state := .free, members := [] } with
        tags := (s.group g).state.freed s.tags
        out :=
          { s.out with sup := s.out.sup ++ (s.group g).state.commitDone lost ++ [.plainDone tag] } } := by
  cases hg : (s.group g).state with
  | recalling c =>
    rw [State.closeGroup_recalling hg hup, State.sendPlainDone, State.sendSup_of_up (by exact hup)]
    rfl
  | free | opened =>
    unfold State.closeGroup
    rw [hg]
    dsimp only
    rw [State.sendPlainDone, State.sendSup_of_up (by exact hup)]
    simp [GroupState.freed, GroupState.commitDone]
    rfl

theorem exec_groupAbandon {tag : BitVec 8} (h : s.serves tag) (n : BitVec 9) :
    exec (.groupAbandon tag n) s = .next
      (withGroup 0x28 tag n (takeGroupAbandon tag) (s.setOut (.onSup []))) := by
  rw [exec_sup rfl h.1]
  exact congrArg Host.Outcome.next (request_served h ..)

/-- A member abandoned whole, its re-take beside the group. -/
theorem abandonMember_eq (hx : s.entry e = some x) (hs : s.Serving)
    (hm : ∀ c, c ≠ g → ∀ d ∈ ((s.abandonParts e x).group c).members, ∀ y ∈ (s.abandonParts e x).entry d,
      y.group ≠ some g) :
    abandonMember g e s = (s.abandonParts e x).retakenBeside g x.window := by
  have abandons := State.abandonParts_abandons (e := e) (x := x) hs.up hs.wf
  have pending : ((s.abandonParts e x).window x.window).pending = none := by
    rw [abandons.window, if_pos rfl]
  rw [State.retakenBeside_eq (State.parkSound_congr abandons.park abandons.ports hs.park) pending hm, abandonMember, hx]

/-- A group's members, as the laws of groups and pending changes have them. -/
theorem Beside.of_laws (hg : GroupLaw s) (hp : PendingLaw s) : Beside g (· ∈ (s.group g).members) s s where
  entry := fun _ _ => rfl
  live := fun _ _ _ _ => rfl
  own := fun e y hy hyg => (hg.member e g).2 ⟨y, hy, hyg⟩
  alone := fun c d hd hc => by
    obtain ⟨y, hy, hyg⟩ := (hg.member d g).1 hd
    obtain ⟨z, hz, hzc⟩ := (hg.member d c).1 hc
    cases hy.symm.trans hz
    exact Option.some.inj (hzc.symm.trans hyg)
  group := rfl
  pending := hp

theorem Beside.abandonParts {D : Fin 16 → Prop} (h : Beside g D s t) (hx : t.entry e = some x) :
    Beside g (fun d => D d ∧ d ≠ e) s (t.abandonParts e x) := by
  refine (h.clear hx (r := { t.window x.window with pending := none }) rfl).of_eq ?_
  unfold State.abandonParts
  cases x.scrubSlot <;> simp [State.setEntry]

theorem abandonMember_serving (hs : s.Serving) (hx : s.entry e = some x) : (abandonMember g e s).Serving := by
  have abandons := State.abandonParts_abandons (e := e) (x := x) hs.up hs.wf
  have serving : (s.abandonParts e x).Serving :=
    ⟨(State.isUp_eq abandons.links _).trans hs.up, State.abandonParts_wf hs.up hs.wf,
      State.parkSound_congr abandons.park abandons.ports hs.park⟩
  rw [abandonMember, hx]
  exact serving.next
    (retake_steady (fun d t ht => ht.trans (cascadeDepth_steady (some g) _ d t)) _ _ _ (.refl _))
    (retake_onward (fun d t ht => ht.trans (cascadeDepth_onward (some g) _ d t)) _ (.refl _))

/-- Members of a group abandoned one after another, each whole with its re-take. -/
theorem foldl_abandonMember : ∀ (L : List (Fin 16)) (t : State), L.Nodup → Beside g (· ∈ L) s t →
    (∀ d ∈ L, ∃ x, s.entry d = some x ∧ x.group = some g) → t.Serving →
      State.AbandonsAll g L t (L.foldl (fun s e => abandonMember g e s) t) ∧
        (L.foldl (fun s e => abandonMember g e s) t).group g = s.group g ∧
        (L.foldl (fun s e => abandonMember g e s) t).Serving := by
  intro L
  induction L with
  | nil => exact fun t _ hb _ hs => ⟨rfl, hb.group, hs⟩
  | cons e L ih =>
    intro t hnd hb hin hs
    obtain ⟨heL, hnd⟩ := List.nodup_cons.1 hnd
    obtain ⟨x, hx, -⟩ := hin e (.head _)
    have entry : t.entry e = some x := (hb.entry e (.head _)).trans hx
    have left : Beside g (· ∈ L) s (t.abandonParts e x) :=
      (hb.abandonParts entry).mono (fun c hc => ⟨.tail _ hc, fun hce => heL (hce ▸ hc)⟩) fun c y hy hg =>
        have ⟨hc, hce⟩ := (hb.abandonParts entry).own c y hy hg
        (List.mem_cons.1 hc).resolve_left hce
    have spared : SparesReleases (some g) g (· ∈ L) s := fun c hc => .inr ⟨rfl, fun y hy => by
      obtain ⟨z, hz, hg⟩ := hin c (.tail _ hc)
      cases hz.symm.trans hy
      exact hg⟩
    have beside : Beside g (· ∈ L) s (abandonMember g e t) := by
      rw [abandonMember, entry]
      exact retake_beside spared (cascadeDepth_beside spared _) _ left
    obtain ⟨all, group, serving⟩ := ih _ hnd beside (fun c hc => hin c (.tail _ hc)) (abandonMember_serving hs entry)
    refine ⟨⟨_, x, entry, State.abandonParts_abandons hs.up hs.wf, ?_⟩, group, serving⟩
    rw [← abandonMember_eq entry hs fun c hc d hd y hy hg => hc (left.alone c d (left.own d y hy hg) hd)]
    exact all

/-- Settles O39. -/
theorem groupAbandons : Obligations.GroupAbandons := by
  unfold Obligations.GroupAbandons
  intro tag g s h
  have hup : s.isUp .sup = true := h.1.1
  refine ⟨fun n hn => ?_, fun hf => ?_, fun hf hp hm hnd hin => ?_, fun hf hgl hpl hp hm => ?_⟩
  · rw [exec_groupAbandon h, withGroup_over hn]
    exact congrArg Host.Outcome.next (refuseSup_eq hup ..)
  all_goals rw [exec_groupAbandon h, withGroup_ofNat, takeGroupAbandon]
  · rw [if_pos (by exact hf)]
    exact congrArg Host.Outcome.next (refuseSup_eq hup ..)
  · rw [if_neg (by exact hf)]
    have all := foldl_abandonMember_unparked (g := g) (s.group g).members (s.setOut (.onSup [])) hp hup hm hnd hin
    set r := (s.group g).members.foldl (fun s e => abandonMember g e s) (s.setOut (.onSup [])) with hr
    have group : r.group g = s.group g := (congrArg (fun u : State => u.group g) all.rest).trans rfl
    have up : r.isUp .sup = true := (State.isUp_eq ((congrArg State.links all.rest).trans rfl : r.links = s.links) _).trans hup
    have out : r.out = .onSup (s.abandonDones (s.group g).members) := (congrArg State.out all.rest).trans rfl
    refine ⟨_, congrArg Host.Outcome.next (State.closeGroup_abandoned up _ tag), ?_, all.entry, all.slot, all.window,
      all.frame, fun n => ?_⟩
    · rw [group, out, ← State.groupLost_eq]
      exact congrArg (fun u : State => { u.setGroup g { state := .free, members := [] } with
        tags := (s.group g).state.freed r.tags
        out := .onSup
          (s.abandonDones (s.group g).members ++ (s.group g).state.commitDone (s.groupLost g) ++ [SupMsg.plainDone tag]) })
        all.rest
    · show n ∈ (r.group g).state.freed r.tags ↔ _
      rw [group]
      have tags := all.tags n
      cases hg : (s.group g).state with
      | recalling c =>
        rw [GroupState.freed, mem_natErase, tags]
        exact ⟨fun ⟨hne, hn, hL⟩ => ⟨hn, fun d hd => GroupState.recalling.inj hd ▸ hne, hL⟩,
          fun ⟨hn, hne, hL⟩ => ⟨hne c rfl, hn, hL⟩⟩
      | free | opened =>
        exact tags.trans ⟨fun ⟨hn, hL⟩ => ⟨hn, nofun, hL⟩, fun ⟨hn, _, hL⟩ => ⟨hn, hL⟩⟩
  · rw [if_neg (by exact hf)]
    have beside : Beside g (· ∈ (s.group g).members) s (s.setOut (.onSup [])) := by
      refine (Beside.of_laws hgl hpl).of_eq ?_
      simp
    obtain ⟨all, group, serving⟩ := foldl_abandonMember (s.group g).members _ (hgl.limit g).2 beside
      (fun d hd => (hgl.member d g).1 hd) ⟨hup, hm, hp⟩
    refine ⟨_, all, ?_⟩
    refine (congrArg Host.Outcome.next (State.closeGroup_abandoned serving.up _ tag)).trans ?_
    rw [group, ← State.groupLost_eq]
    dsimp only [State.setOut_group]
    cases (s.group g).state <;> rfl

/-! ## ABANDON -/

/-- The answer to a parked lookup that the record does not allow. -/
def Parked.denied (p : Parked) : AgentMsg :=
  .refuse 0x01 (BitVec.ofNat 8 p.tag) .denied (BitVec.ofNat 16 p.window)

/-- Some parked lookups answered DENIED, their tags free. -/
def State.answerDenied (s : State) (L : List Parked) : State :=
  { s with
    ports := Vector.ofFn fun a =>
      { s.port a with
        tags := Vector.ofFn fun n => (s.port a).tags[n] && !L.any fun p => decide (p.agent = a ∧ p.tag = n) }
    out :=
      { s.out with
        agents := Vector.ofFn fun a => s.out.agents[a] ++ (L.filter fun p => decide (p.agent = a)).map Parked.denied } }

/-- The record of window w does not allow the parked lookup, and its agent's link is UP. -/
def State.Denies (s : State) (w : Nat) (l : LiveFields) (p : Parked) : Prop :=
  p.window = w ∧ s.isUp (.agent p.agent) = true ∧
    (l.cls.allows p.agent (s.port p.agent).context = false ∨ p.rights.exceeds l.rights[p.agent] = true)

theorem retakeOne_denied {k : EndWait} {ab : Option (Fin 4)} {w : Nat} {l : LiveFields} {p : Parked}
    (hl : (s.window w).live = some l) (h : s.Denies w l p) :
    retakeOne k ab p s =
      { s.setLookupTag p.agent p.tag false with
        out := { s.out with agents := s.out.agents.set p.agent (s.out.agents[p.agent] ++ [p.denied]) } } := by
  obtain ⟨rfl, hup, hd⟩ := h
  have denied : (!l.cls.allows p.agent ((s.setLookupTag p.agent p.tag false).port p.agent).context ||
      p.rights.exceeds l.rights[p.agent]) = true := by
    rw [State.setLookupTag, State.port_setPort_self]
    rw [Bool.or_eq_true, Bool.not_eq_true']
    exact hd
  unfold retakeOne answerLookup
  rw [State.setLookupTag_window, hl]
  dsimp only
  rw [if_pos denied, State.refuseLookup, State.sendAgent_of_up (by exact hup)]
  rfl

theorem vector_eq_of_get {α : Type} {n : Nat} {u v : Vector α n} (h : ∀ i : Fin n, u[i] = v[i]) : u = v :=
  Vector.ext fun i hi => h ⟨i, hi⟩

theorem vector_ofFn_get {α : Type} {n : Nat} (f : Fin n → α) (i : Fin n) : (Vector.ofFn f)[i] = f i :=
  Vector.getElem_ofFn i.isLt

theorem State.answerDenied_port (s : State) (L : List Parked) (a : AgentId) :
    (s.answerDenied L).port a =
      { s.port a with
        tags := Vector.ofFn fun n => (s.port a).tags[n] && !L.any fun p => decide (p.agent = a ∧ p.tag = n) } :=
  vector_ofFn_get ..

theorem State.answerDenied_agents (s : State) (L : List Parked) (a : AgentId) :
    (s.answerDenied L).out.agents[a] = s.out.agents[a] ++ (L.filter fun p => decide (p.agent = a)).map Parked.denied :=
  vector_ofFn_get ..

/-- What some lookups answered DENIED leave, by the ports and the messages of each agent. -/
theorem State.answerDenied_eq {L : List Parked} (hp : ∀ a, t.port a = (s.answerDenied L).port a)
    (ha : ∀ a : AgentId, t.out.agents[a] = (s.answerDenied L).out.agents[a])
    (ht : t = { s with ports := t.ports, out := { s.out with agents := t.out.agents } }) : t = s.answerDenied L := by
  rw [ht, vector_eq_of_get hp, vector_eq_of_get ha]
  rfl

theorem State.answerDenied_nil (s : State) : s = s.answerDenied [] := by
  refine State.answerDenied_eq (fun a => ?_) (fun a => ?_) rfl
  · rw [State.answerDenied_port]
    have tags : (Vector.ofFn fun n => (s.port a).tags[n] && !([] : List Parked).any fun p => decide (p.agent = a ∧ p.tag = n)) =
        (s.port a).tags := vector_eq_of_get fun n => by
      rw [vector_ofFn_get]
      simp
    rw [tags]
  · rw [State.answerDenied_agents]
    simp

theorem State.answerDenied_cons (s : State) (p : Parked) (L : List Parked) :
    State.answerDenied
      { s.setLookupTag p.agent p.tag false with
        out := { s.out with agents := s.out.agents.set p.agent (s.out.agents[p.agent] ++ [p.denied]) } } L =
      s.answerDenied (p :: L) := by
  refine State.answerDenied_eq (fun a => ?_) (fun a => ?_) rfl
  · rw [State.answerDenied_port, State.answerDenied_port]
    have port (u : State) (o : Outputs) : State.port { u with out := o } a = u.port a := rfl
    rw [port, State.setLookupTag, State.port_setPort]
    by_cases hpa : a = p.agent
    · subst hpa
      rw [if_pos rfl]
      refine congrArg (fun v => { s.port p.agent with tags := Vector.ofFn v }) (funext fun n => ?_)
      dsimp only
      rw [vector_get_set]
      by_cases hn : n = p.tag
      · simp [hn]
      · simp [hn, Ne.symm hn]
    · rw [if_neg hpa]
      simp [Ne.symm hpa]
  · rw [State.answerDenied_agents, State.answerDenied_agents]
    dsimp only
    rw [vector_get_set]
    by_cases hpa : a = p.agent
    · subst hpa
      simp
    · simp [hpa, Ne.symm hpa]

theorem foldl_retakeOne_denied {k : EndWait} {ab : Option (Fin 4)} {w : Nat} {l : LiveFields} :
    ∀ (L : List Parked) (s : State), (s.window w).live = some l → (∀ p ∈ L, s.Denies w l p) →
      L.foldl (fun s p => retakeOne k ab p s) s = s.answerDenied L := by
  intro L
  induction L with
  | nil => exact fun s _ _ => s.answerDenied_nil
  | cons p L ih =>
    intro s hl hd
    obtain ⟨hp, hd⟩ := List.forall_mem_cons.1 hd
    rw [List.foldl_cons, retakeOne_denied hl hp, ← State.answerDenied_cons]
    refine ih _ hl fun q hq => ?_
    obtain ⟨hw, hup, hr⟩ := hd q hq
    refine ⟨hw, hup, ?_⟩
    have context : ((s.setLookupTag p.agent p.tag false).port q.agent).context = (s.port q.agent).context := by
      rw [State.setLookupTag, State.port_setPort]
      split
      · rename_i he
        rw [he]
      · rfl
    exact context ▸ hr

/-- The re-take of a window whose record allows none of its parked lookups. -/
theorem retake_denied {k : EndWait} {ab : Option (Fin 4)} {w : Nat} {l : LiveFields}
    (hl : (t.window w).live = some l)
    (hd : ∀ p ∈ t.park, p.window = w → t.isUp (.agent p.agent) = true ∧
      (l.cls.allows p.agent (t.port p.agent).context = false ∨ p.rights.exceeds l.rights[p.agent] = true)) :
    retake k ab w t =
      { t with
        park := t.park.filter fun p => decide (p.window ≠ w)
        ports := Vector.ofFn fun a =>
          { t.port a with
            tags := Vector.ofFn fun n => (t.port a).tags[n] && !t.park.any fun p : Parked =>
              decide (p.window = w ∧ p.agent = a ∧ p.tag = n) }
        out :=
          { t.out with
            agents := Vector.ofFn fun a => t.out.agents[a] ++
              (t.park.filter fun p : Parked => decide (p.window = w ∧ p.agent = a)).map fun p =>
                .refuse 0x01 (BitVec.ofNat 8 p.tag) .denied (BitVec.ofNat 16 w) } } := by
  have denies (p : Parked) (hp : p ∈ t.park.filter fun p => p.window == w) :
      (t.setPark (t.park.filter fun p => p.window != w)).Denies w l p := by
    rw [List.mem_filter, beq_iff_eq] at hp
    obtain ⟨up, no⟩ := hd p hp.1 hp.2
    exact ⟨hp.2, up, no⟩
  have left : (t.park.filter fun p => p.window != w) = t.park.filter fun p => decide (p.window ≠ w) :=
    List.filter_congr fun p _ => by
      rw [Bool.eq_iff_iff]
      simp
  rw [retake, foldl_retakeOne_denied _ _ (by exact hl) denies]
  refine (State.answerDenied_eq (fun a => ?_) (fun a => ?_) ?_).symm
  · rw [State.answerDenied_port]
    refine (vector_ofFn_get ..).trans ?_
    refine congrArg (fun v => { t.port a with tags := Vector.ofFn v }) (funext fun n => ?_)
    rw [List.any_filter]
    refine congrArg (fun f => (t.port a).tags[n] && !t.park.any f) (funext fun p => ?_)
    rw [Bool.eq_iff_iff]
    simp
  · rw [State.answerDenied_agents, List.filter_filter]
    refine (vector_ofFn_get ..).trans ?_
    have both : (fun p : Parked => decide (p.agent = a) && p.window == w) =
        fun p => decide (p.window = w ∧ p.agent = a) := funext fun p => by
      rw [Bool.eq_iff_iff]
      simp [and_comm]
    rw [both]
    refine congrArg (t.out.agents[a] ++ ·) (List.map_congr_left fun p hp => ?_)
    have named := (of_decide_eq_true (List.mem_filter.1 hp).2).1
    rw [Parked.denied, named]
  · rw [left]
    rfl

theorem exec_abandon {tag : BitVec 8} (h : s.serves tag) (target : BitVec 8) :
    exec (.abandon tag target) s = .next (takeAbandon tag target (s.setOut (.onSup []))) := by
  rw [exec_sup rfl h.1]
  exact congrArg Host.Outcome.next (request_served h ..)

theorem State.entryWithTag_eq_some {n : BitVec 8} (hx : s.entry e = some x) (ht : x.tag = n)
    (hone : ∀ d, ∀ y ∈ s.entry d, y.tag = n → d = e) : s.entryWithTag n = some e := by
  unfold State.entryWithTag
  cases hf : (List.finRange 16).find? _ with
  | none =>
    have no := List.find?_eq_none.1 hf e (List.mem_finRange e)
    rw [hx] at no
    simp [ht] at no
  | some d =>
    have named := List.find?_some hf
    cases hd : s.entry d with
    | none => simp [hd] at named
    | some y =>
      have hy : y.tag = n := by simpa [hd] using named
      rw [hone d y hd hy]

theorem State.entryWithTag_eq_none {n : BitVec 8} (h : ∀ d, ∀ y ∈ s.entry d, y.tag ≠ n) : s.entryWithTag n = none := by
  refine List.find?_eq_none.2 fun d _ => ?_
  cases hd : s.entry d with
  | none => simp
  | some y => simp [h d y hd]

theorem State.isCommitTag_eq_true {n : BitVec 8} : s.isCommitTag n = true ↔ ∃ g, (s.group g).state = .recalling n := by
  simp [State.isCommitTag]

theorem takeAbandon_none {tag target : BitVec 8} (h : ∀ d, ∀ y ∈ s.entry d, y.tag ≠ target) :
    takeAbandon tag target s = s.refuseSup 0x25 tag (if s.isCommitTag target then .groupMember else .noChange) := by
  rw [takeAbandon, State.entryWithTag_eq_none h]

theorem takeAbandon_some {tag target : BitVec 8} (hx : s.entry e = some x) (ht : x.tag = target)
    (hone : ∀ d, ∀ y ∈ s.entry d, y.tag = target → d = e) :
    takeAbandon tag target s =
      if x.group.isSome then s.refuseSup 0x25 tag .groupMember
      else
        retake cascade none x.window ((s.abandonParts e x).sendSup
          (.done tag .applied (some ((s.abandonParts e x).window x.window).generation) (noneOf 8) none none)) := by
  rw [takeAbandon, State.entryWithTag_eq_some hx ht hone]
  dsimp only
  rw [hx]

/-- What ABANDON leaves before the re-take: the abandoned change, and its own DONE after the target's. -/
def State.abandonedParts (s : State) (tag : BitVec 8) (e : Fin 16) (x : Entry) : State :=
  (s.abandonParts e x).sendSup
    (.done tag .applied (some ((s.abandonParts e x).window x.window).generation) (noneOf 8) none none)

theorem State.abandonedParts_eq (hup : s.isUp .sup = true) (hm : SparseWf .free s.frames) (tag : BitVec 8) :
    s.abandonedParts tag e x =
      { s.abandonParts e x with
        out :=
          { s.out with
            sup := s.out.sup ++
              [.done x.tag .abandoned (some (s.window x.window).generation) x.lost none none,
                .done tag .applied (some (s.window x.window).generation) (noneOf 8) none none] } } := by
  have abandons := State.abandonParts_abandons (e := e) (x := x) hup hm
  have out : (s.abandonParts e x).out = _ := (congrArg State.out abandons.rest).trans rfl
  have window : (s.abandonParts e x).window x.window = { s.window x.window with pending := none } := by
    rw [abandons.window, if_pos rfl]
  rw [State.abandonedParts, State.sendSup_of_up ((State.isUp_eq abandons.links _).trans hup), window, out]
  rw [State.setOut]
  dsimp only
  rw [List.append_assoc]
  rfl

/-- Settles O35. -/
theorem abandonDropsTheChange : Obligations.AbandonDropsTheChange := by
  unfold Obligations.AbandonDropsTheChange
  intro tag target s h
  have hup : s.isUp .sup = true := h.1.1
  refine ⟨fun e x hx htag hone => ⟨fun hg hp hm => ?_, fun hg => ?_⟩, fun hno => ⟨fun hc => ?_, fun hc => ?_⟩⟩
  · subst htag
    rw [exec_abandon h, takeAbandon_some (s := s.setOut (.onSup [])) hx rfl hone, hg]
    have abandons := State.abandonParts_abandons (s := s.setOut (.onSup [])) (e := e) (x := x) hup hm
    have parts := State.abandonedParts_eq (s := s.setOut (.onSup [])) (e := e) (x := x) hup hm tag
    obtain ⟨t, ht⟩ : ∃ t, t = (s.setOut (.onSup [])).abandonedParts tag e x := ⟨_, rfl⟩
    rw [← ht] at parts
    have park : t.park = s.park := (congrArg State.park parts).trans abandons.park
    have ports : t.ports = s.ports := (congrArg State.ports parts).trans abandons.ports
    have frames : t.frames = ((s.setOut (.onSup [])).abandonParts e x).frames := (congrArg State.frames parts).trans rfl
    have window : t.window x.window = { s.window x.window with pending := none } :=
      (congrArg (fun u : State => u.window x.window) parts).trans ((abandons.window _).trans (if_pos rfl))
    have retaken : t.retaken x.window = retake cascade none x.window t :=
      State.retaken_eq (State.parkSound_congr park ports hp) (by rw [window])
    refine ⟨t, congrArg Host.Outcome.next (Eq.trans (by rw [ht]; rfl) retaken.symm), ?_, fun f => ?_, fun l hl hd => ?_⟩
    · rw [frames]
      exact parts.trans (congrArg (fun u : State =>
        { u with
          out := .onSup
            [.done x.tag .abandoned (some (s.window x.window).generation) x.lost none none,
              .done tag .applied (some (s.window x.window).generation) (noneOf 8) none none] }) abandons.rest)
    · exact (congrArg (fun u : State => u.frame f) parts).trans (abandons.frames f)
    · have agents : t.out.agents = (Outputs.onSup []).agents := (congrArg (fun u : State => u.out.agents) parts).trans rfl
      have links : t.links = s.links := (congrArg State.links parts).trans abandons.links
      have port (a : AgentId) : t.port a = s.port a := congrArg (fun v : Vector Port 8 => v[a]) ports
      have silent (a : AgentId) : t.out.agents[a] = [] := by
        rw [agents]
        simp [Outputs.onSup, Outputs.nothing]
      have live : (t.window x.window).live = some l := (congrArg Window.live window).trans hl
      have denied (p : Parked) (hp : p ∈ t.park) (hw : p.window = x.window) : t.isUp (.agent p.agent) = true ∧
          (l.cls.allows p.agent (t.port p.agent).context = false ∨ p.rights.exceeds l.rights[p.agent] = true) := by
        obtain ⟨up, no⟩ := hd p (park ▸ hp) hw
        exact ⟨(State.isUp_eq links _).trans up, (port p.agent).symm ▸ no⟩
      rw [retaken, retake_denied live denied]
      simp only [port, park, silent, List.nil_append]
  · rw [exec_abandon h, takeAbandon_some (s := s.setOut (.onSup [])) hx htag hone, if_pos (Option.isSome_iff_ne_none.2 hg)]
    exact congrArg Host.Outcome.next (refuseSup_eq hup ..)
  · rw [exec_abandon h, takeAbandon_none (s := s.setOut (.onSup [])) hno, if_pos (State.isCommitTag_eq_true (s := s.setOut (.onSup [])).2 hc)]
    exact congrArg Host.Outcome.next (refuseSup_eq hup ..)
  · rw [exec_abandon h, takeAbandon_none (s := s.setOut (.onSup [])) hno,
      if_neg fun ht => (State.isCommitTag_eq_true (s := s.setOut (.onSup [])).1 ht).elim hc]
    exact congrArg Host.Outcome.next (refuseSup_eq hup ..)

end Sys2Proof.Machine
end

section
/-!
PROOFS of O38: GROUP_COMMIT.
-/

namespace Sys2Proof.Machine

variable {s t v : State} {e : Fin 16} {x : Entry} {g : Fin 4} {slot : AgentId → Nat → Fin 64}

/-! ## The start of the members' recalls -/

/-- An entry whose recall has started. -/
def State.underway (s : State) (x : Entry) : Entry :=
  { x with
    awaited := s.affectedAgents x.kind x.window
    state := if (s.affectedAgents x.kind x.window).empty then .ready else .recalling
    deadline := .running }

/-- The agents of entry d's recall can be told of it: their links are UP, and their tables list the window in its slot. -/
def State.Tells (s : State) (slot : AgentId → Nat → Fin 64) (x : Entry) : Prop :=
  ∀ a : AgentId, (s.affectedAgents x.kind x.window)[a] = true →
    s.isUp (.agent a) = true ∧ (s.table a).naming x.window = some (slot a x.window)

theorem State.startRecall_eq (h : s.Tells slot x) :
    s.startRecall e x =
      (s.setEntry e (some (s.underway x))).recallTo x.window (fun a => slot a x.window) fun a =>
        (s.affectedAgents x.kind x.window)[a] := by
  have chosen : (fun a => decide (a ∈ (s.affectedAgents x.kind x.window).elems)) =
      fun a : AgentId => (s.affectedAgents x.kind x.window)[a] := by
    funext a
    rw [Bool.eq_iff_iff, decide_eq_true_iff, FinSet.mem_elems]
  rw [State.startRecall, ← chosen]
  exact foldl_sendRecall _ (s.setEntry e (some (s.underway x))) ((List.nodup_finRange 8).filter _) fun a ha =>
    h a ((FinSet.mem_elems _ _).1 ha)

/-- The RECALL of entry d to agent a. -/
def State.recallOf (s : State) (slot : AgentId → Nat → Fin 64) (a : AgentId) (d : Fin 16) : Option AgentMsg :=
  (s.entry d).bind fun x =>
    if (s.affectedAgents x.kind x.window)[a] then
      some (.recall (slot a x.window) x.window (s.window x.window).generation)
    else none

/-- Window w is recalled from agent a by an entry of L. -/
def State.Recalls (s : State) (L : List (Fin 16)) (a : AgentId) (w : Nat) : Prop :=
  ∃ d ∈ L, ∃ x ∈ s.entry d, x.window = w ∧ (s.affectedAgents x.kind x.window)[a] = true

/-- The recalls of the entries of L started, in list order. -/
structure State.Starts (s t : State) (slot : AgentId → Nat → Fin 64) (L : List (Fin 16)) : Prop where
  rest : t = { s with entries := t.entries, tables := t.tables, out := { s.out with agents := t.out.agents } }
  agents : ∀ a : AgentId, t.out.agents[a] = s.out.agents[a] ++ L.filterMap (s.recallOf slot a)
  table : ∀ a, t.table a = { s.table a with recalled := (t.table a).recalled, regranted := (t.table a).regranted }
  recalled : ∀ a w, w ∈ (t.table a).recalled ↔ w ∈ (s.table a).recalled ∨ s.Recalls L a w
  regranted : ∀ a w, w ∈ (t.table a).regranted ↔ w ∈ (s.table a).regranted ∧ ¬s.Recalls L a w
  entry : ∀ d, t.entry d = if d ∈ L then (s.entry d).map s.underway else s.entry d

theorem State.Starts.nil : s.Starts s slot [] where
  rest := rfl
  agents := by simp
  table := fun _ => rfl
  recalled := by simp [State.Recalls]
  regranted := by simp [State.Recalls]
  entry := by simp

/-- One entry's recall started leaves who is affected. -/
structure State.StartsOne (s v : State) (slot : AgentId → Nat → Fin 64) (e : Fin 16) (x : Entry) : Prop where
  rest : v = { s with entries := v.entries, tables := v.tables, out := { s.out with agents := v.out.agents } }
  agents : ∀ a : AgentId, v.out.agents[a] = s.out.agents[a] ++ (s.recallOf slot a e).toList
  table : ∀ a, v.table a = { s.table a with recalled := (v.table a).recalled, regranted := (v.table a).regranted }
  recalled : ∀ a w, w ∈ (v.table a).recalled ↔
    w ∈ (s.table a).recalled ∨ x.window = w ∧ (s.affectedAgents x.kind x.window)[a] = true
  regranted : ∀ a w, w ∈ (v.table a).regranted ↔
    w ∈ (s.table a).regranted ∧ ¬(x.window = w ∧ (s.affectedAgents x.kind x.window)[a] = true)
  entry : ∀ d, v.entry d = if d = e then some (s.underway x) else s.entry d

theorem State.startsOne_startRecall (hx : s.entry e = some x) (h : s.Tells slot x) :
    s.StartsOne (s.startRecall e x) slot e x := by
  rw [State.startRecall_eq h]
  have table (a : AgentId) : ((s.setEntry e (some (s.underway x))).recallTo x.window (fun a => slot a x.window) fun a =>
      (s.affectedAgents x.kind x.window)[a]).table a = _ := State.recallTo_table a
  refine
    { rest := rfl
      agents := fun a => ?_
      table := fun a => ?_
      recalled := fun a w => ?_
      regranted := fun a w => ?_
      entry := fun d => State.entry_setEntry .. }
  · rw [State.recallTo_agents, State.recallOf, hx]
    dsimp only [Option.bind_some]
    split <;> simp
  · rw [table]
    split <;> rfl
  · rw [table]
    cases (s.affectedAgents x.kind x.window)[a] with
    | false => simp
    | true =>
      rw [if_pos rfl]
      dsimp only
      rw [mem_natInsert]
      simp [or_comm, eq_comm]
  · rw [table]
    cases (s.affectedAgents x.kind x.window)[a] with
    | false => simp
    | true =>
      rw [if_pos rfl]
      dsimp only
      rw [mem_natErase]
      simp [and_comm, eq_comm]

section
variable (h : s.StartsOne v slot e x)
include h

theorem State.StartsOne.window (w : Nat) : v.window w = s.window w := 
  (congrArg (fun u : State => u.window w) h.rest).trans rfl

theorem State.StartsOne.links : v.links = s.links := (congrArg State.links h.rest).trans rfl

theorem State.StartsOne.naming (a : AgentId) (w : Nat) : (v.table a).naming w = (s.table a).naming w := by
  rw [h.table]
  rfl

theorem State.StartsOne.affected (k : ChangeKind) (w : Nat) : v.affectedAgents k w = s.affectedAgents k w := by
  have holding (a : AgentId) : (v.table a).holding w = (s.table a).holding w := by
    rw [h.table]
    rfl
  simp only [State.affectedAgents, h.window, holding]

theorem State.StartsOne.underway (y : Entry) : v.underway y = s.underway y := by
  rw [State.underway, h.affected]
  rfl

/-- Each entry has its kind and its window still. -/
theorem State.StartsOne.keeps (hx : s.entry e = some x) (d : Fin 16) :
    v.entry d = s.entry d ∨ ∃ y, s.entry d = some y ∧ v.entry d = some (s.underway y) := by
  rw [h.entry]
  split
  · rename_i hde
    exact .inr ⟨x, hde ▸ hx, rfl⟩
  · exact .inl rfl

theorem State.StartsOne.recallOf (hx : s.entry e = some x) (a : AgentId) : v.recallOf slot a = s.recallOf slot a := by
  funext d
  rw [State.recallOf, State.recallOf]
  simp only [h.affected, h.window]
  obtain he | ⟨y, hy, he⟩ := h.keeps hx d
  · rw [he]
  · rw [he, hy]
    rfl

theorem State.StartsOne.exists_entry (hx : s.entry e = some x) (d : Fin 16) (p : ChangeKind → Nat → Prop) :
    (∃ y ∈ v.entry d, p y.kind y.window) ↔ ∃ y ∈ s.entry d, p y.kind y.window := by
  obtain he | ⟨y, hy, he⟩ := h.keeps hx d
  · rw [he]
  · simp [he, hy, State.underway]

theorem State.StartsOne.recalls (hx : s.entry e = some x) (L : List (Fin 16)) (a : AgentId) (w : Nat) :
    v.Recalls L a w ↔ s.Recalls L a w := by
  unfold State.Recalls
  refine exists_congr fun d => and_congr_right fun _ => ?_
  rw [← h.exists_entry hx d fun k u => u = w ∧ (s.affectedAgents k u)[a] = true]
  simp only [h.affected]

theorem State.StartsOne.tells {y : Entry} (hy : s.Tells slot y) : v.Tells slot y := fun a ha => by
  obtain ⟨up, named⟩ := hy a (h.affected .. ▸ ha)
  exact ⟨(State.isUp_eq h.links _).trans up, (h.naming ..).trans named⟩

/-- One recall before the others. -/
theorem State.StartsOne.cons {L : List (Fin 16)} (hx : s.entry e = some x) (ht : v.Starts t slot L) :
    s.Starts t slot (e :: L) := by
  have recalls (a : AgentId) (w : Nat) : s.Recalls (e :: L) a w ↔
      (x.window = w ∧ (s.affectedAgents x.kind x.window)[a] = true) ∨ s.Recalls L a w := by
    rw [State.Recalls, List.exists_mem_cons_iff, hx]
    simp [State.Recalls]
  refine
    { rest := ?_
      agents := fun a => ?_
      table := fun a => ?_
      recalled := fun a w => ?_
      regranted := fun a w => ?_
      entry := fun d => ?_ }
  · exact ht.rest.trans (congrArg (fun u : State =>
      { u with entries := t.entries, tables := t.tables, out := { u.out with agents := t.out.agents } }) h.rest)
  · rw [ht.agents, h.agents, h.recallOf hx, List.filterMap_cons, List.append_assoc]
    cases s.recallOf slot a e <;> rfl
  · rw [ht.table, h.table]
  · rw [ht.recalled, h.recalled, h.recalls hx, recalls, or_assoc]
  · rw [ht.regranted, h.regranted, h.recalls hx, recalls, not_or, and_assoc]
  · rw [ht.entry, h.entry]
    have twice : v.underway = s.underway := funext h.underway
    rw [twice]
    by_cases hde : d = e
    · subst hde
      by_cases hd : d ∈ L
      · simp [hd, hx, State.underway]
      · simp [hd, hx]
    · simp [hde]

end

/-- The recalls of some entries started one after another. -/
theorem foldl_startMember (L : List (Fin 16)) : ∀ s : State, (∀ d ∈ L, ∃ x, s.entry d = some x ∧ s.Tells slot x) →
    s.Starts (L.foldl (fun s e => startMember e s) s) slot L := by
  induction L with
  | nil => exact fun s _ => .nil
  | cons e L ih =>
    intro s hin
    obtain ⟨⟨x, hx, hs⟩, hin⟩ := List.forall_mem_cons.1 hin
    have one := State.startsOne_startRecall hx hs
    rw [List.foldl_cons, startMember, hx]
    refine one.cons hx (ih _ fun d hd => ?_)
    obtain ⟨y, hy, hs⟩ := hin d hd
    obtain he | ⟨z, hz, he⟩ := one.keeps hx d
    · exact ⟨y, he.trans hy, one.tells hs⟩
    · exact ⟨s.underway z, he, one.tells (show s.Tells slot z from (Option.some.inj (hz.symm.trans hy)) ▸ hs)⟩

/-- An entry whose recall has started with nobody to recall from. -/
def Entry.quiet (x : Entry) : Entry := { x with awaited := noneOf 8, state := .ready, deadline := .running }

theorem startMember_quiet (hx : s.entry e = some x) (hn : (s.affectedAgents x.kind x.window).empty = true) :
    startMember e s = s.setEntry e (some x.quiet) := by
  have nobody : s.affectedAgents x.kind x.window = noneOf 8 :=
    FinSet.eq_of_get fun a => ((FinSet.empty_iff _).1 hn a).trans (Vector.getElem_replicate ..).symm
  rw [startMember, hx]
  dsimp only
  rw [State.startRecall, hn, nobody]
  rfl

/-- The recalls of entries that affect no holding, started one after another. -/
theorem foldl_startMember_quiet (L : List (Fin 16)) : ∀ s : State, L.Nodup →
    (∀ d ∈ L, ∃ x, s.entry d = some x ∧ (s.affectedAgents x.kind x.window).empty = true) →
      L.foldl (fun s e => startMember e s) s =
        { s with
          entries := Vector.ofFn fun d => if d ∈ L then (s.entry d).map Entry.quiet else s.entry d } := by
  induction L with
  | nil =>
    intro s _ _
    have entries : (Vector.ofFn fun d => if d ∈ ([] : List (Fin 16)) then (s.entry d).map Entry.quiet else s.entry d) =
        s.entries := vector_eq_of_get fun d => (vector_ofFn_get ..).trans (if_neg List.not_mem_nil)
    rw [List.foldl_nil, entries]
  | cons e L ih =>
    intro s hnd hin
    obtain ⟨heL, hnd⟩ := List.nodup_cons.1 hnd
    obtain ⟨⟨x, hx, hn⟩, hin⟩ := List.forall_mem_cons.1 hin
    have entry (d : Fin 16) (hd : d ∈ L) : (s.setEntry e (some x.quiet)).entry d = s.entry d := by
      have hne : d ≠ e := fun hde => heL (hde ▸ hd)
      rw [State.entry_setEntry, if_neg hne]
    rw [List.foldl_cons, startMember_quiet hx hn, ih _ hnd fun d hd => by rw [entry d hd]; exact hin d hd]
    have all : (fun d => if d ∈ L then ((s.setEntry e (some x.quiet)).entry d).map Entry.quiet
          else (s.setEntry e (some x.quiet)).entry d) =
        fun d => if d ∈ e :: L then (s.entry d).map Entry.quiet else s.entry d := funext fun d => by
      rw [State.entry_setEntry]
      by_cases hde : d = e
      · subst hde
        simp [heL, hx]
      · simp [hde]
    rw [all]
    rfl

/-- A group's members, their windows and their groups as the laws of groups and pending changes have them. -/
theorem Beside.of_members {u : State} (hg : GroupLaw s) (hp : PendingLaw s) (hw : u.windows = s.windows)
    (hm : ∀ c, (u.group c).members = (s.group c).members)
    (he : ∀ d, (u.entry d).map (fun y => (y.window, y.group)) = (s.entry d).map fun y => (y.window, y.group)) :
    Beside g (· ∈ (u.group g).members) u u := by
  have member (d : Fin 16) (c : Fin 4) : d ∈ (u.group c).members ↔ ∃ y ∈ u.entry d, y.group = some c := by
    have groups : (u.entry d).map Entry.group = (s.entry d).map Entry.group := by
      simpa [Function.comp_def] using congrArg (Option.map Prod.snd) (he d)
    rw [hm, hg.member]
    cases hu : u.entry d <;> cases hs : s.entry d <;> simp [hu, hs] at groups ⊢
    rw [groups]
  have pending : PendingLaw u := hp.of_same (fun w => congrArg (fun m => (sparseGet Window.initial m w).pending) hw) fun d => by
    simpa [State.changed, Function.comp_def] using congrArg (Option.map Prod.fst) (he d)
  exact
    { entry := fun _ _ => rfl, live := fun _ _ _ _ => rfl, group := rfl, pending := pending
      own := fun d y hy hyg => (member d g).2 ⟨y, hy, hyg⟩
      alone := fun b d hd hb => by
        obtain ⟨y, hy, hyg⟩ := (member d g).1 hd
        obtain ⟨z, hz, hzb⟩ := (member d b).1 hb
        cases hy.symm.trans hz
        exact Option.some.inj (hzb.symm.trans hyg) }

/-- Where every holding stands in the slot of its window, the window of an affected holding is named in its slot. -/
theorem State.naming_of_affected {a : AgentId} {k : ChangeKind} {w : Nat} (h : ∀ i, ∀ y ∈ s.held a i, slot a y.window = i)
    (ha : (s.affectedAgents k w)[a] = true) : (s.table a).naming w = some (slot a w) := by
  cases hl : (s.window w).live with
  | none =>
    rw [State.affectedAgents, hl] at ha
    simp [noneOf] at ha
  | some l =>
    rw [State.affectedAgents_get hl, SlotTable.holding] at ha
    cases hn : (s.table a).naming w with
    | none => simp [hn] at ha
    | some i =>
      obtain ⟨y, hy, hw⟩ := SlotTable.naming_some hn
      rw [← hw, h i y hy]

theorem exec_groupCommit {tag : BitVec 8} (h : s.serves tag) (n : BitVec 9) :
    exec (.groupCommit tag n) s = .next (withGroup 0x27 tag n (takeGroupCommit tag) (s.setOut (.onSup []))) := by
  rw [exec_sup rfl h.1]
  exact congrArg Host.Outcome.next (request_served h ..)

theorem exec_groupCommit_members {tag : BitVec 8} (h : s.serves tag) (ho : (s.group g).state = .opened)
    (hm : (s.group g).members ≠ []) :
    exec (.groupCommit tag (BitVec.ofNat 9 g)) s = .next (commitGroup tag g (s.setOut (.onSup []))) := by
  rw [exec_groupCommit h, withGroup_ofNat, takeGroupCommit, if_neg (by exact fun h => h ho), if_neg (by exact hm)]

/-- A group as its commit leaves it while it waits. -/
abbrev State.committing (s : State) (g : Fin 4) (tag : BitVec 8) (members : List (Fin 16)) : State :=
  s.setGroup g { state := .recalling tag, members := members }

theorem commitGroup_eq {tag : BitVec 8} {r : State} (hr : (s.group g).members.foldl (fun s e => startMember e s) s = r) :
    commitGroup tag g s =
      if (r.committing g tag (s.group g).members).allReady g then
        applyGroup cascade none g (r.committing g tag (s.group g).members)
      else (r.committing g tag (s.group g).members).accept tag := by
  subst hr
  rfl

theorem State.accept_eq (hup : s.isUp .sup = true) (tag : BitVec 8) :
    s.accept tag =
      { s with tags := natInsert s.tags tag.toNat, out := { s.out with sup := s.out.sup ++ [.accepted tag] } } := by
  rw [State.accept, State.sendSup_of_up (by exact hup)]
  rfl

theorem State.underway_waits {a : AgentId} (ha : (s.affectedAgents x.kind x.window)[a] = true) :
    (s.underway x).state = .recalling := by
  refine if_neg fun hn => ?_
  rw [(FinSet.empty_iff _).1 hn a] at ha
  cases ha

/-- The members of group g, their recalls started with nobody to recall from. -/
def State.quietened (s : State) (g : Fin 4) : State :=
  { s with
    entries := Vector.ofFn fun d => if d ∈ (s.group g).members then (s.entry d).map Entry.quiet else s.entry d }

theorem State.quietened_entry (d : Fin 16) :
    (s.quietened g).entry d = if d ∈ (s.group g).members then (s.entry d).map Entry.quiet else s.entry d :=
  vector_ofFn_get ..

/-- Group g committed with nobody to recall from. -/
def State.committedQuiet (s : State) (g : Fin 4) (tag : BitVec 8) : State :=
  (s.quietened g).committing g tag (s.group g).members

section
variable {tag : BitVec 8}

/-- A commit with nobody to recall from leaves all but the Change Table and the groups. -/
theorem State.committedQuiet_parts :
    (s.committedQuiet g tag).windows = s.windows ∧ (s.committedQuiet g tag).frames = s.frames ∧
      (s.committedQuiet g tag).scrub = s.scrub ∧ (s.committedQuiet g tag).links = s.links ∧
      (s.committedQuiet g tag).park = s.park ∧ (s.committedQuiet g tag).ports = s.ports := by
  simp only [State.committedQuiet, State.quietened, State.setGroup, and_self]

theorem State.committedQuiet_members (c : Fin 4) : ((s.committedQuiet g tag).group c).members = (s.group c).members := by
  rw [State.committedQuiet, State.group_setGroup]
  split
  · subst_vars
    rfl
  · rfl

theorem State.committedQuiet_entry (d : Fin 16) : (s.committedQuiet g tag).entry d =
    if d ∈ (s.group g).members then (s.entry d).map Entry.quiet else s.entry d :=
  (State.setGroup_entry ..).trans (State.quietened_entry d)

theorem State.committedQuiet_beside (hgl : GroupLaw s) (hpl : PendingLaw s) :
    Beside g (· ∈ ((s.committedQuiet g tag).group g).members) (s.committedQuiet g tag) (s.committedQuiet g tag) := by
  obtain ⟨windows, -⟩ := State.committedQuiet_parts (s := s) (g := g) (tag := tag)
  refine .of_members hgl hpl windows State.committedQuiet_members fun d => ?_
  rw [State.committedQuiet_entry]
  split <;> simp [Entry.quiet, Function.comp_def]

theorem State.committedQuiet_serving (h : s.Serving) : (s.committedQuiet g tag).Serving := by
  obtain ⟨-, frames, -, links, park, ports⟩ := State.committedQuiet_parts (s := s) (g := g) (tag := tag)
  exact ⟨(State.isUp_eq links _).trans h.up, by rw [frames]; exact h.wf, State.parkSound_congr park ports h.park⟩

theorem State.committedQuiet_lost : (s.committedQuiet g tag).groupLost g = s.groupLost g := by
  rw [State.groupLost_eq, State.groupLost_eq, State.committedQuiet_members]
  refine congrArg Vector.ofFn (funext fun b => congrArg (List.any _) (funext fun d => ?_))
  rw [State.committedQuiet_entry]
  split
  · rw [Option.any_map]
    rfl
  · rfl

/-- The commit of a group whose members affect no holding. -/
theorem commitGroup_applies (hgl : GroupLaw s) (hpl : PendingLaw s) (hs : s.Serving)
    (hm : ∀ d ∈ (s.group g).members, ∃ x l, s.Applicable d x l ∧
      ∀ a i, ∀ h ∈ s.held a i, h.window = x.window → ¬x.kind.hits l a h.rights) :
    ∃ v : State, State.AppliesAll (s.group g).members (s.committedQuiet g tag) v ∧
      commitGroup tag g s =
        { v.setGroup g { state := .free, members := [] } with
          tags := natErase v.tags tag.toNat
          out := { v.out with sup := v.out.sup ++ [.done tag .applied none (s.groupLost g) none none] } } := by
  have folded : (s.group g).members.foldl (fun s e => startMember e s) s = s.quietened g :=
    foldl_startMember_quiet _ s (hgl.limit g).2 fun d hd => by
      obtain ⟨y, l, ha, hn⟩ := hm d hd
      exact ⟨y, ha.entry, State.affectedAgents_empty ha.live hn⟩
  have standing (d : Fin 16) (hd : d ∈ (s.group g).members) :
      ∃ y l, s.Applicable d y l ∧ (s.committedQuiet g tag).entry d = some y.quiet := by
    obtain ⟨y, l, ha, -⟩ := hm d hd
    exact ⟨y, l, ha, by rw [State.committedQuiet_entry, if_pos hd, ha.entry]; rfl⟩
  have quiets (d : Fin 16) (hd : d ∈ (s.group g).members) : (s.committedQuiet g tag).awaits d = false := by
    obtain ⟨y, l, -, hy⟩ := standing d hd
    rw [Bool.eq_false_iff]
    intro ha
    obtain ⟨z, hz, b, hb⟩ := State.awaits_iff.1 ha
    cases hy.symm.trans hz
    simp [Entry.quiet, noneOf] at hb
  have ready : (s.committedQuiet g tag).allReady g = true := State.allReady_eq_true.2 fun d hd => by
    rw [State.committedQuiet_members] at hd
    obtain ⟨y, l, -, hy⟩ := standing d hd
    exact ⟨_, hy, rfl⟩
  have applicable (d : Fin 16) (hd : d ∈ (s.group g).members) :
      ∃ x l, (s.committedQuiet g tag).Member (s.committedQuiet g tag) d x l := by
    obtain ⟨windows, -, scrub, -⟩ := State.committedQuiet_parts (s := s) (g := g) (tag := tag)
    obtain ⟨y, l, ha, hy⟩ := standing d hd
    exact ⟨y.quiet, l, hy, (congrArg (fun m => (sparseGet Window.initial m y.window).live) windows).trans ha.live, ha.fits,
      by rw [scrub]; exact ha.engine⟩
  have group : ((s.committedQuiet g tag).group g).state = .recalling tag := by
    rw [State.committedQuiet, State.group_setGroup_self]
  rw [← State.committedQuiet_members (tag := tag)] at quiets applicable
  obtain ⟨v, hv, happly⟩ := applyGroup_members (State.committedQuiet_beside hgl hpl)
    (by rw [State.committedQuiet_members]; exact (hgl.limit g).2) quiets (State.committedQuiet_serving hs) applicable group
  rw [State.committedQuiet_members] at hv
  refine ⟨v, hv, (commitGroup_eq folded).trans ((if_pos ready).trans ?_)⟩
  rw [← State.committedQuiet_lost (tag := tag)]
  exact happly

end

/-- Settles O38. -/
theorem groupCommits : Obligations.GroupCommits := by
  unfold Obligations.GroupCommits
  intro tag g s h
  have hup : s.isUp .sup = true := h.1.1
  refine ⟨fun n hn => ?_, fun hf => ?_, fun ho hm => ?_, fun ho hin hsome slot hslot hups => ?_,
    fun ho hne hnd hgl hpl hp hm => ?_⟩
  · rw [exec_groupCommit h, withGroup_over hn]
    exact congrArg Host.Outcome.next (refuseSup_eq hup ..)
  · rw [exec_groupCommit h, withGroup_ofNat, takeGroupCommit, if_pos (by exact hf)]
    exact congrArg Host.Outcome.next (refuseSup_eq hup ..)
  · rw [exec_groupCommit h, withGroup_ofNat, takeGroupCommit, if_neg (by exact fun h => h ho), if_pos (by exact hm)]
    exact congrArg Host.Outcome.next (sendPlainDone_eq (s := s.setGroup g .initial) (by exact hup) ..)
  · obtain ⟨d, hd, x, hx, a, ha⟩ := hsome
    have starts : (s.setOut (.onSup [])).Starts _ slot _ := foldl_startMember (s.group g).members _ fun d hd => by
      obtain ⟨y, hy⟩ := Option.ne_none_iff_exists'.1 (hin d hd)
      exact ⟨y, hy, fun a ha => ⟨hups d hd y hy a ha, State.naming_of_affected (hslot a) ha⟩⟩
    obtain ⟨r, hr⟩ : ∃ r, (s.group g).members.foldl (fun s e => startMember e s) (s.setOut (.onSup [])) = r := ⟨_, rfl⟩
    rw [hr] at starts
    have entry (c : Fin 16) (hc : c ∈ (s.group g).members) (y : Entry) (hy : s.entry c = some y) :
        r.entry c = some (s.underway y) := by
      rw [starts.entry, if_pos hc]
      exact congrArg (Option.map (s.setOut (.onSup [])).underway) hy
    have waits : ¬(r.committing g tag (s.group g).members).allReady g = true := by
      intro ready
      obtain ⟨z, hz, hr⟩ := State.allReady_eq_true.1 ready d (by rw [State.group_setGroup_self]; exact hd)
      cases hz.symm.trans (entry d hd x hx)
      rw [State.underway_waits ha] at hr
      cases hr
    have up : r.isUp .sup = true := (State.isUp_eq ((congrArg State.links starts.rest).trans rfl : r.links = s.links) _).trans hup
    have tags : r.tags = s.tags := (congrArg State.tags starts.rest).trans rfl
    have out : { r.out with sup := r.out.sup ++ [.accepted tag] } =
        { Outputs.onSup [.accepted tag] with
          agents := Vector.ofFn fun a => (s.group g).members.filterMap fun d =>
            (s.setOut (.onSup [])).recallOf slot a d } := by
      have agents : r.out.agents =
          Vector.ofFn fun a => (s.group g).members.filterMap fun d => (s.setOut (.onSup [])).recallOf slot a d :=
        vector_eq_of_get fun a => by
          have none : (s.setOut (.onSup [])).out.agents[a] = [] := Vector.getElem_replicate ..
          rw [starts.agents, vector_ofFn_get, none, List.nil_append]
      rw [← agents, congrArg State.out starts.rest]
      rfl
    refine ⟨_, (exec_groupCommit_members h ho (List.ne_nil_of_mem hd)).trans
      (congrArg Host.Outcome.next ((commitGroup_eq (by exact hr)).trans
        ((if_neg waits).trans (State.accept_eq (by exact up) tag)))), ?_, starts.table, fun a w named hn => ?_, fun c hc => ?_, fun c hc y hy => ?_⟩
    · show ({ r.committing g tag (s.group g).members with
        tags := natInsert r.tags tag.toNat, out := { r.out with sup := r.out.sup ++ [.accepted tag] } } : State) = _
      rw [out, tags]
      exact congrArg (fun u : State =>
        { u.committing g tag (s.group g).members with
          tags := natInsert s.tags tag.toNat
          out :=
            { Outputs.onSup [.accepted tag] with
              agents := Vector.ofFn fun a => (s.group g).members.filterMap fun d =>
                (s.setOut (.onSup [])).recallOf slot a d } }) starts.rest
    · exact ⟨(starts.recalled a w).trans (or_congr .rfl hn.symm),
        (starts.regranted a w).trans (and_congr .rfl (not_congr hn.symm))⟩
    · exact (starts.entry c).trans (if_neg hc)
    · exact entry c hc y hy
  · obtain ⟨d, hd⟩ := List.exists_mem_of_ne_nil _ hne
    obtain ⟨y, l, ha, -⟩ := hm d hd
    have hgl' : GroupLaw (s.setOut (.onSup [])) := ⟨hgl.live, hgl.alone, hgl.member, hgl.limit, hgl.free, hgl.opened, hgl.recalling⟩
    obtain ⟨v, hv, run⟩ := commitGroup_applies (s := s.setOut (.onSup [])) (tag := tag) hgl' (hpl.of_eq rfl) ⟨hup, ha.wf, hp⟩ fun d hd => by
      obtain ⟨x, l, ha, -, hn⟩ := hm d hd
      exact ⟨x, l, ⟨ha.entry, ha.live, ha.up, ha.wf, ha.fits, ha.engine⟩, hn⟩
    refine ⟨v, hv, (exec_groupCommit_members h ho hne).trans (congrArg Host.Outcome.next ?_)⟩
    rw [run, State.groupLost_eq]
    rfl

end Sys2Proof.Machine
end

section
/-!
PROOFS of O14 and O36: departures of ADMITTED agents, and the recall deadline.
-/

namespace Sys2Proof.Machine

variable {s t u o : State} {a b : AgentId} {k : EndWait} {ab : Option (Fin 4)}

/-! ## What the ends of changes leave of an agent that holds nothing -/

/-- From o, where port a is closed, to t: the port is as it was, the agent has entered no holder set, no entry of another
window has come, and the record of a window that no entry named is as it was but for its holders. -/
structure SparesPort (a : AgentId) (o t : State) : Prop where
  keeps : KeepsPort a o t
  holders : ∀ w, (o.window w).holders[a] = false → (t.window w).holders[a] = false
  named : ∀ e, ∀ x ∈ t.entry e, ∃ y ∈ o.entry e, y.window = x.window
  records : ∀ w, (∀ e, ∀ x ∈ o.entry e, x.window ≠ w) →
    (t.window w).live = (o.window w).live ∧ (t.window w).generation = (o.window w).generation ∧
      (t.window w).pending = (o.window w).pending

theorem SparesPort.refl (a : AgentId) (o : State) : SparesPort a o o :=
  ⟨.refl a o, fun _ h => h, fun _ x hx => ⟨x, hx, rfl⟩, fun _ _ => ⟨rfl, rfl, rfl⟩⟩

/-- The fields of a record but its holders. -/
def Window.fields (w : Window) : Option LiveFields × BitVec 16 × Option (Fin 16) := (w.live, w.generation, w.pending)

/-- Holders and entries written. -/
theorem SparesPort.step (h : SparesPort a o t) (k : KeepsPort a o u)
    (hw : ∀ w, (u.window w).fields = (t.window w).fields ∧ ((t.window w).holders[a] = false → (u.window w).holders[a] = false))
    (he : ∀ e, ∀ x ∈ u.entry e, ∃ y ∈ t.entry e, y.window = x.window) : SparesPort a o u where
  keeps := k
  holders w ho := (hw w).2 (h.holders w ho)
  named e x hx := by
    obtain ⟨y, hy, hyx⟩ := he e x hx
    obtain ⟨z, hz, hzy⟩ := h.named e y hy
    exact ⟨z, hz, hzy.trans hyx⟩
  records w hn := by
    obtain ⟨hl, hg, hp⟩ := h.records w hn
    have fields := (hw w).1
    simp only [Window.fields, Prod.mk.injEq] at fields
    exact ⟨fields.1.trans hl, fields.2.1.trans hg, fields.2.2.trans hp⟩

theorem SparesPort.of_eq (h : SparesPort a o t) (k : KeepsPort a o u) (hu : (u.windows, u.entries) = (t.windows, t.entries)) :
    SparesPort a o u := by
  obtain ⟨hw, he⟩ : u.windows = t.windows ∧ u.entries = t.entries := by simpa using hu
  refine h.step k (fun w => ?_) fun e x hx => ⟨x, ?_, rfl⟩
  · simp only [State.window, hw, true_and, imp_self]
  · rwa [State.entry, he] at hx

/-- The record of a window that an entry names written, or only its holders. -/
theorem SparesPort.setWindow (h : SparesPort a o t) {w : Nat} {r : Window}
    (hf : (∃ e, ∃ x ∈ t.entry e, x.window = w) ∨ r.fields = (t.window w).fields)
    (hh : (t.window w).holders[a] = false → r.holders[a] = false) : SparesPort a o (t.setWindow w r) where
  keeps := h.keeps.of_eq rfl
  holders v ho := by
    rw [State.window_setWindow]
    split
    · subst_vars
      exact hh (h.holders _ ho)
    · exact h.holders v ho
  named := h.named
  records v hn := by
    rw [State.window_setWindow]
    split
    · subst_vars
      obtain ⟨e, x, hx, hxw⟩ | hf := hf
      · obtain ⟨y, hy, hyx⟩ := h.named e x hx
        exact absurd (hyx.trans hxw) (hn e y hy)
      · simp only [Window.fields, Prod.mk.injEq] at hf
        obtain ⟨hl, hg, hp⟩ := h.records _ hn
        exact ⟨hf.1.trans hl, hf.2.1.trans hg, hf.2.2.trans hp⟩
    · exact h.records v hn

theorem SparesPort.setEntry (h : SparesPort a o t) {e : Fin 16} {y : Option Entry}
    (hy : ∀ z ∈ y, ∃ x ∈ t.entry e, x.window = z.window) : SparesPort a o (t.setEntry e y) := by
  refine h.step (h.keeps.of_eq rfl) (fun w => ⟨rfl, fun h => h⟩) fun d x hx => ?_
  rw [State.entry_setEntry] at hx
  split at hx
  · rename_i hde
    exact hde ▸ hy x hx
  · exact ⟨x, hx, rfl⟩

theorem SparesPort.report (h : SparesPort a o t) (ab : Option (Fin 4)) (b : AgentId) (w : Nat) (d : Bool) :
    SparesPort a o (t.report ab b w d) := by
  rcases t.report_cases ab b w d with hr | ⟨e, x, -, hx, -, -, hr⟩ <;> rw [hr]
  · exact h
  · refine h.setEntry ?_
    rintro z ⟨⟩
    exact ⟨x, hx, rfl⟩

theorem SparesPort.removeSlot (h : SparesPort a o t) (ab : Option (Fin 4)) (b : AgentId) (d : Bool) (i : Fin 64) :
    SparesPort a o (t.removeSlot ab b d i) := by
  cases hh : (t.table b).slots[i] with
  | none => rwa [State.removeSlot_empty hh]
  | some x =>
    rw [State.removeSlot_held hh]
    refine SparesPort.report ?_ ..
    have emptied (y : SlotTable) (hy : y = { t.table b with slots := (t.table b).slots.set i none }) :
        SparesPort a o (t.setTable b y) := by
      subst hy
      exact h.of_eq (State.setTable_held_keepsPort h.keeps hh _) rfl
    refine (emptied _ rfl).setWindow (.inr rfl) fun h => ?_
    rw [FinSet.get_del]
    exact Bool.and_eq_false_iff.2 (.inr h)

section
variable (hk : ∀ e t, SparesPort a o t → SparesPort a o (k e t))
include hk

theorem grant_sparesPort (h : SparesPort a o t) (hb : a ≠ b) (ab : Option (Fin 4)) (tag : Fin 4) (w : Nat) (r : Rights)
    (l : LiveFields) : SparesPort a o (grant k ab b tag w r l t) := by
  have sent {v : State} (hv : SparesPort a o v) (i : Fin 64) (r : Rights) (ev : Option Nat) :
      SparesPort a o (v.sendGrant b tag i w l r ev) := by
    refine hv.of_eq (State.sendGrant_keepsPort hv.keeps ..) ?_
    rw [State.sendGrant_eq]
    simp
  have table {v : State} (hv : SparesPort a o v) (x : SlotTable) : SparesPort a o (v.setTable b x) :=
    hv.of_eq (State.setTable_keepsPort hv.keeps fun _ hab => absurd hab hb) rfl
  unfold grant
  dsimp only
  split
  · exact sent (table h _) ..
  · refine endWaits_keeps hk _ _ (sent ?_ ..)
    have placed (x : SlotTable) := table (h.removeSlot ab b false (t.table b).choose) x
    refine (placed _).setWindow (.inr rfl) fun h => ?_
    rw [FinSet.get_add, h]
    simp [hb]

theorem retakeOne_sparesPort (h : SparesPort a o t) (p : Parked) (hb : a ≠ p.agent) :
    SparesPort a o (retakeOne k ab p t) := by
  have freed : SparesPort a o (t.setLookupTag p.agent p.tag false) :=
    h.of_eq (State.setLookupTag_keepsPort h.keeps p.tag fun _ _ => rfl) rfl
  have refused (r : Reason) : SparesPort a o ((t.setLookupTag p.agent p.tag false).refuseLookup p.agent
      (BitVec.ofNat 8 p.tag) (BitVec.ofNat 16 p.window) r) :=
    freed.of_eq (State.sendAgent_keepsPort freed.keeps _ _) (by simp [State.refuseLookup])
  unfold retakeOne answerLookup
  split
  · exact refused .noWindow
  · split
    · exact refused .denied
    · exact grant_sparesPort hk freed hb ..

theorem retake_sparesPort (hc : o.Closed a) (w : Nat) (h : SparesPort a o t) : SparesPort a o (retake k ab w t) :=
  List.foldlRecOn _ _ (h.of_eq (State.filterPark_keepsPort h.keeps _) rfl) fun _ hu p hp =>
    retakeOne_sparesPort hk hu p ((h.keeps.closed hc).parked p (List.mem_of_mem_filter hp)).symm

end

theorem SparesPort.applyParts (h : SparesPort a o t) {e : Fin 16} {x : Entry} (hx : t.entry e = some x) :
    SparesPort a o (t.applyParts e x) := by
  have keeps := State.applyParts_keepsPort h.keeps e x
  unfold State.applyParts at keeps ⊢
  split at keeps
  · exact h
  · rename_i l _
    have written := h.setWindow (r := x.kind.applied (t.window x.window) l) (.inl ⟨e, x, hx, rfl⟩) id
    obtain ⟨m, hm⟩ := (t.setWindow x.window (x.kind.applied (t.window x.window) l)).moveFrames_engineOnly x l
    refine (written.setEntry (e := e) (y := none) (by simp)).of_eq keeps ?_
    simp [State.finish, State.setEntry, hm.windows, hm.entries]

theorem sparesPort_keeps (hc : o.Closed a) (ab : Option (Fin 4)) : CascadeKeeps (SparesPort a o) ab where
  retake _ hk w _ h := retake_sparesPort hk hc w h
  apply _ _ _ hx h := h.applyParts hx
  ready e x _ hx h := h.setEntry (by
    rintro z ⟨⟩
    exact ⟨x, hx, rfl⟩)
  close g d l s h := by
    refine h.of_eq (State.closeGroup_keepsPort h.keeps g d l) ?_
    unfold State.closeGroup
    dsimp only
    split
    · simp [State.finish, State.setGroup]
    · rfl

theorem endWaits_sparesPort (hc : o.Closed a) (s : State) (h : SparesPort a o t) :
    SparesPort a o (endWaits cascade s t) :=
  endWaits_keeps (fun e u hu => cascadeDepth_keeps (sparesPort_keeps hc none) _ e u hu) _ _ h

/-! ## The parts of a departure -/

/-- What the parts of a departure of agent a leave before the ends of waiting (R142). -/
structure Left (s t : State) (a : AgentId) (st : PortState) (r : PortReason) : Prop where
  rest : t =
    { s with
      windows := t.windows
      entries := t.entries
      tables := s.tables.set a .initial
      ports := s.ports.set a { state := st, reason := r, context := (s.port a).context, tags := noneOf 4 }
      fenceN := s.fenceN.set a false
      park := s.park.filter fun p => p.agent != a
      scrub := t.scrub
      outbox := t.outbox
      credit := t.credit
      noticeN := t.noticeN
      out := t.out }
  window : ∀ w, t.window w =
    if ∃ i, ∃ h ∈ s.held a i, h.window = w then { s.window w with holders := (s.window w).holders.set a false }
    else s.window w
  entry : ∀ e, t.entry e = (s.entry e).map (s.entryWithout a true (fun _ => true) e)

/-- The port and the line written, and every holding removed. -/
def State.vacated (s : State) (a : AgentId) (st : PortState) (r : PortReason) : State :=
  ((s.setPort a { s.port a with state := st, reason := r }).setFence a false).removeWhere a true fun _ => true

/-- The table, the port, the line and the parked lookups of a departing agent. -/
def State.vacate (s : State) (a : AgentId) (st : PortState) (r : PortReason) : State :=
  let s2 := s.vacated a st r
  let s3 := s2.setTable a { s2.table a with pointer := 0, recalled := [], regranted := [] }
  let s4 := s3.setPark (s3.park.filter fun p => p.agent != a)
  s4.setPort a { s4.port a with tags := noneOf 4 }

/-- FENCED and the PORT notice of a departure, where its cause calls for them. -/
def State.announce (s : State) (a : AgentId) (r : PortReason) (fenced posted : Bool) : State :=
  let s6 := if fenced then s.sendAgent a (.fenced r) else s
  if posted then s6.postPort a else s6

theorem State.departParts_eq (st : PortState) (r : PortReason) (fenced posted : Bool) :
    s.departParts a st r fenced posted = (s.vacate a st r).announce a r fenced posted := rfl

theorem State.vacated_removed (st : PortState) (r : PortReason) :
    Removed ((s.setPort a { s.port a with state := st, reason := r }).setFence a false) (s.vacated a st r) a true
      fun i => (s.held a i).any fun _ => true := State.removeWhere_removed ..

theorem State.vacated_table (st : PortState) (r : PortReason) :
    { (s.vacated a st r).table a with pointer := 0, recalled := [], regranted := [] } = SlotTable.initial := by
  have slots : ((s.vacated a st r).table a).slots = SlotTable.initial.slots := vector_eq_of_get fun i =>
    (State.removeWhere_all_slots ..).trans (Vector.getElem_replicate ..).symm
  exact congrArg (fun v => ({ slots := v, pointer := 0, recalled := [], regranted := [] } : SlotTable)) slots

theorem State.vacated_rest (st : PortState) (r : PortReason) :
    s.vacated a st r =
      { s with
        windows := (s.vacated a st r).windows
        entries := (s.vacated a st r).entries
        tables := (s.vacated a st r).tables
        ports := s.ports.set a { s.port a with state := st, reason := r }
        fenceN := s.fenceN.set a false } := by
  have rest := (s.vacated_removed (a := a) st r).rest
  generalize s.vacated a st r = v at rest ⊢
  rw [State.setTable] at rest
  generalize Vector.set _ _ _ _ = T at rest
  have tables : v.tables = T := congrArg State.tables rest
  rw [tables]
  exact rest

theorem State.vacate_left (st : PortState) (r : PortReason) : Left s (s.vacate a st r) a st r := by
  have removed := s.vacated_removed (a := a) st r
  have empty := s.vacated_table (a := a) st r
  obtain ⟨v, hv⟩ : ∃ v, s.vacated a st r = v := ⟨_, rfl⟩
  have rest := s.vacated_rest (a := a) st r
  rw [hv] at removed empty rest
  have vacate : s.vacate a st r =
      { v with
        tables := v.tables.set a { v.table a with pointer := 0, recalled := [], regranted := [] }
        park := v.park.filter fun p => p.agent != a
        ports := v.ports.set a { v.port a with tags := noneOf 4 } } := by
    rw [State.vacate, hv]
    rfl
  have picked (p : Holding → Prop) : (∃ i, (s.held a i).any (fun _ => true) = true ∧ ∃ h ∈ s.held a i, p h) ↔
      ∃ i, ∃ h ∈ s.held a i, p h :=
    exists_congr fun i => ⟨fun ⟨_, h⟩ => h, fun ⟨h, hh, hp⟩ => ⟨by rw [Option.mem_def.1 hh]; rfl, h, hh, hp⟩⟩
  have tables : v.tables.set a { v.table a with pointer := 0, recalled := [], regranted := [] } =
      s.tables.set a .initial := by
    rw [empty, congrArg State.tables removed.rest]
    exact Vector.set_set ..
  have ports : v.ports.set a { v.port a with tags := noneOf 4 } =
      s.ports.set a { state := st, reason := r, context := (s.port a).context, tags := noneOf 4 } := by
    have port : v.port a = { s.port a with state := st, reason := r } :=
      (removed.port a).trans (State.port_setPort_self ..)
    rw [port, congrArg State.ports rest]
    exact Vector.set_set ..
  rw [vacate, tables, ports, show v.park = s.park from (congrArg State.park rest).trans rfl]
  refine ⟨?_, fun w => ?_, fun e => ?_⟩
  · exact congrArg (fun u : State =>
      { u with
        tables := s.tables.set a .initial
        park := s.park.filter fun p => p.agent != a
        ports := s.ports.set a { state := st, reason := r, context := (s.port a).context, tags := noneOf 4 }
        scrub := v.scrub
        outbox := v.outbox
        credit := v.credit
        noticeN := v.noticeN
        out := v.out }) rest
  · exact (removed.window w).trans (if_congr (picked fun h => h.window = w) rfl rfl)
  · refine (removed.entry e).trans (congrArg (Option.map · (s.entry e)) (funext fun x => Entry.reported_congr ?_))
    refine (picked fun h => (s.window h.window).pending = some e).trans ?_
    simp

/-- What is announced writes the outbox, its credit and its line, the slots of its SCRUB notices, and the messages. -/
theorem State.announce_rest (r : PortReason) (fenced posted : Bool) :
    ∃ x ob c n m, s.announce a r fenced posted =
      { s with scrub := x, outbox := ob, credit := c, noticeN := n, out := m } := by
  have sent : ∃ m, (if fenced then s.sendAgent a (.fenced r) else s) = { s with out := m } := by
    unfold State.sendAgent
    split
    · split
      · exact ⟨_, rfl⟩
      · exact ⟨_, rfl⟩
    · exact ⟨_, rfl⟩
  unfold State.announce
  obtain ⟨m, hm⟩ := sent
  rw [hm]
  dsimp only
  split
  · unfold State.postPort
    obtain ⟨x, ob, c, n, m', hd⟩ := deliver_eq
      (({ s with out := m } : State).setOutbox (portPosting s.outbox a (s.port a).state (s.port a).reason))
      (portPosting s.outbox a (s.port a).state (s.port a).reason)
    exact ⟨x, ob, c, n, m', hd⟩
  · exact ⟨_, _, _, _, m, rfl⟩

theorem Left.announce {st : PortState} {r : PortReason} (h : Left s t a st r) (fenced posted : Bool) :
    Left s (t.announce a r fenced posted) a st r := by
  obtain ⟨x, ob, c, n, m, he⟩ := t.announce_rest (a := a) r fenced posted
  rw [he]
  exact ⟨congrArg (fun u : State => { u with scrub := x, outbox := ob, credit := c, noticeN := n, out := m }) h.rest,
    h.window, h.entry⟩

theorem State.departParts_left (st : PortState) (r : PortReason) (fenced posted : Bool) :
    Left s (s.departParts a st r fenced posted) a st r :=
  (State.vacate_left st r).announce fenced posted

section
variable {st : PortState} {r : PortReason}

theorem Left.port (h : Left s t a st r) (b : AgentId) : t.port b =
    if b = a then { state := st, reason := r, context := (s.port a).context, tags := noneOf 4 } else s.port b := by
  rw [h.rest]
  exact vector_get_set ..

theorem Left.table (h : Left s t a st r) (b : AgentId) : t.table b = if b = a then .initial else s.table b := by
  rw [h.rest]
  exact vector_get_set ..

theorem Left.fence (h : Left s t a st r) (b : AgentId) : t.fenceN[b] = if b = a then false else s.fenceN[b] := by
  rw [h.rest]
  exact vector_get_set ..

theorem Left.park (h : Left s t a st r) : t.park = s.park.filter fun p => p.agent != a :=
  (congrArg State.park h.rest).trans rfl

theorem Left.closed (h : Left s t a st r) (hst : st ≠ .admitted) : t.Closed a where
  state := by
    rw [h.port, if_pos rfl]
    exact hst
  table := by rw [h.table, if_pos rfl]
  parked p hp := by
    rw [h.park, List.mem_filter] at hp
    exact bne_iff_ne.1 hp.2
  tags := by rw [h.port, if_pos rfl]

theorem Left.fields (h : Left s t a st r) (w : Nat) : (t.window w).fields = (s.window w).fields := by
  rw [h.window]
  split <;> rfl

/-- The departure of an agent, with the ends of waiting that it brings about. -/
theorem Left.departed (h : Left s t a st r) (hst : st ≠ .admitted) (o : State) :
    Departed s (endWaits cascade o t) a st r := by
  have closed := h.closed hst
  have spares := endWaits_sparesPort closed o (.refl a t)
  have steady := endWaits_cascade_steady o t
  obtain ⟨-, table, parked, tags⟩ := spares.keeps.closed closed
  have state := steady.state a
  have reason := steady.reason a
  have context := steady.context a
  rw [h.port, if_pos rfl] at state reason context
  refine ⟨⟨?_, table, ?_, parked, fun i y hy => ?_⟩, fun b hb => ⟨?_, ?_, ?_, ?_⟩, ⟨?_, ?_, ?_, fun w hn => ?_⟩⟩
  · generalize State.port _ a = p at state reason context tags
    obtain ⟨_, _, _, _⟩ := p
    simp_all
  · rw [steady.fenceN, h.fence, if_pos rfl]
  · refine spares.holders _ ?_
    rw [h.window, if_pos ⟨i, y, hy, rfl⟩, vector_get_set, if_pos rfl]
  · rw [steady.state, h.port, if_neg hb]
  · rw [steady.reason, h.port, if_neg hb]
  · rw [steady.context, h.port, if_neg hb]
  · rw [steady.fenceN, h.fence, if_neg hb]
  · exact steady.device.trans ((congrArg State.device h.rest).trans rfl)
  · exact steady.resetN.trans ((congrArg State.resetN h.rest).trans rfl)
  · exact steady.carrier.trans ((congrArg State.carrier h.rest).trans rfl)
  · obtain ⟨hl, hg, hp⟩ := spares.records w fun e x hx => by
      rw [h.entry, Option.mem_def, Option.map_eq_some_iff] at hx
      obtain ⟨y, hy, rfl⟩ := hx
      have window : (s.entryWithout a true (fun _ => true) e y).window = y.window := by
        unfold State.entryWithout Entry.reported
        split <;> rfl
      exact window ▸ hn e y hy
    have fields := h.fields w
    simp only [Window.fields, Prod.mk.injEq] at fields
    exact ⟨hl.trans fields.1, hg.trans fields.2.1, hp.trans fields.2.2⟩

theorem option_any_of_mem {α : Type} {y : α} {o : Option α} (h : y ∈ o) : (o.any fun _ => true) = true := by
  rw [Option.mem_def.1 h]
  rfl

/-- While every change that awaits the agent awaits another one too, no waiting ends, and these changes release it. -/
theorem Left.releasesOnly (h : Left s t a st r) (ho : s.outwaited a) :
    endWaits cascade s t = t ∧ s.ReleasesOnly t a true fun _ => True := by
  have removed := State.removeWhere_removed s a true fun _ => true
  have entry (e : Fin 16) : t.entry e = (s.removeWhere a true fun _ => true).entry e := by
    rw [h.entry, removed.entry]
    refine congrArg (Option.map · (s.entry e)) (funext fun x => Entry.reported_congr ?_)
    refine exists_congr fun i => ⟨fun ⟨_, y, hy, hp⟩ => ⟨?_, y, hy, hp⟩, fun ⟨_, hy⟩ => ⟨rfl, hy⟩⟩
    exact option_any_of_mem hy
  refine ⟨endWaits_of_awaits (fun e he => ?_) _, fun e x hx => ?_⟩
  · rw [State.awaits_of_entry_eq (entry e)]
    exact removed.awaits ho e he
  · rw [entry e]
    refine removed.releasesOnly (removed := fun _ => True) (fun i y hy => iff_of_true (option_any_of_mem hy) trivial) e x hx

end

/-- What a departure is told by. -/
structure SameDepartures (s t : State) : Prop where
  windows : t.windows = s.windows
  tables : t.tables = s.tables
  ports : t.ports = s.ports
  fenceN : t.fenceN = s.fenceN
  park : t.park = s.park
  entries : t.entries = s.entries
  device : t.device = s.device
  resetN : t.resetN = s.resetN
  carrier : t.carrier = s.carrier

theorem Departed.congr {st : PortState} {r : PortReason} {v : State} (h : Departed t u a st r) (hs : SameDepartures s t)
    (hv : SameDepartures u v) : Departed s v a st r := by
  have port (b : AgentId) : t.port b = s.port b := congrArg (fun v : Vector Port 8 => v[b]) hs.ports
  have port' (b : AgentId) : v.port b = u.port b := congrArg (fun v : Vector Port 8 => v[b]) hv.ports
  have window (w : Nat) : t.window w = s.window w := congrArg (sparseGet Window.initial · w) hs.windows
  have window' (w : Nat) : v.window w = u.window w := congrArg (sparseGet Window.initial · w) hv.windows
  have held (i : Fin 64) : t.held a i = s.held a i := congrArg (fun v : Vector SlotTable 8 => v[a].slots[i]) hs.tables
  have entry (e : Fin 16) : t.entry e = s.entry e := congrArg (fun v : Vector (Option Entry) 16 => v[e]) hs.entries
  obtain ⟨gone, others, rest⟩ := h
  refine ⟨⟨?_, ?_, ?_, ?_, fun i y hy => ?_⟩, fun b hb => ?_, ⟨?_, ?_, ?_, fun w hn => ?_⟩⟩
  · rw [port', gone.port, port]
  · exact (congrArg (fun v : Vector SlotTable 8 => v[a]) hv.tables).trans gone.table
  · rw [hv.fenceN]
    exact gone.fence
  · rw [hv.park]
    exact gone.park
  · rw [window']
    exact gone.holders i y (held i ▸ hy)
  · obtain ⟨state, reason, context, fence⟩ := others b hb
    rw [← port', port] at state reason context
    exact ⟨state, reason, context, by rw [hv.fenceN, fence, hs.fenceN]⟩
  · rw [hv.device, rest.device, hs.device]
  · rw [hv.resetN, rest.resetN, hs.resetN]
  · rw [hv.carrier, rest.carrier, hs.carrier]
  · have records := rest.records w fun e x hx => hn e x (entry e ▸ hx)
    rwa [← window', window] at records

theorem SameDepartures.releasesOnly {v : State} (hs : SameDepartures s t) (hv : SameDepartures u v) {d : Bool}
    {removed : Holding → Prop} (h : t.ReleasesOnly u a d removed) : s.ReleasesOnly v a d removed := by
  have window (w : Nat) : t.window w = s.window w := congrArg (sparseGet Window.initial · w) hs.windows
  have held (i : Fin 64) : t.held a i = s.held a i := congrArg (fun v : Vector SlotTable 8 => v[a].slots[i]) hs.tables
  have entry (e : Fin 16) : t.entry e = s.entry e := congrArg (fun v : Vector (Option Entry) 16 => v[e]) hs.entries
  have entry' (e : Fin 16) : v.entry e = u.entry e := congrArg (fun v : Vector (Option Entry) 16 => v[e]) hv.entries
  simpa only [State.ReleasesOnly, window, held, entry, ← entry'] using h

theorem SameDepartures.outwaited (hs : SameDepartures s t) (h : s.outwaited a) : t.outwaited a := fun e x hx =>
  h e x ((congrArg (fun v : Vector (Option Entry) 16 => v[e]) hs.entries).symm.trans hx)

/-- A departure, from a state that differs only by links and messages and to one that differs so too. -/
theorem State.depart_departs {st : PortState} {r : PortReason} (hst : st ≠ .admitted) {fenced posted : Bool} {v : State}
    (hs : SameDepartures s t) (hv : SameDepartures (t.depart a st r fenced posted) v) :
    Departed s v a st r ∧ (s.outwaited a → s.ReleasesOnly v a true fun _ => True) := by
  have left := t.departParts_left (a := a) st r fenced posted
  refine ⟨(left.departed hst t).congr hs hv, fun ho => hs.releasesOnly hv ?_⟩
  obtain ⟨quiet, releases⟩ := left.releasesOnly (hs.outwaited ho)
  rw [State.depart, quiet]
  exact releases

/-- Settles O14. -/
theorem departuresEmptyThePort : Obligations.DeparturesEmptyThePort := by
  unfold Obligations.DeparturesEmptyThePort
  rintro a s ha c st r (⟨rfl, h, rfl, rfl⟩ | ⟨⟨tag, rfl, h⟩, rfl, rfl⟩ | ⟨hc, hup, rfl, rfl⟩)
  · refine ⟨_, exec_agent rfl h, State.depart_departs (fenced := false) (posted := true) (by decide)
      (t := s.setOut (.onAgent a [])) ⟨rfl, rfl, rfl, rfl, rfl, rfl, rfl, rfl, rfl⟩ ?_⟩
    have run : act (.join a) (s.setOut (.onAgent a [])) = (s.setOut (.onAgent a [])).depart a .waiting .rejoin false true := by
      simp only [act, actJoin, takeJoin, State.setOut_port, ha]
    rw [run]
    exact ⟨rfl, rfl, rfl, rfl, rfl, rfl, rfl, rfl, rfl⟩
  · have run : exec (.fence tag (BitVec.ofNat 9 a)) s =
        .next (((s.setOut (.onSup [])).depart a .outside .supervisor true false).sendPlainDone tag) := by
      refine (exec_sup rfl h.1).trans (congrArg Host.Outcome.next ((request_served h ..).trans ?_))
      rw [withAgent_ofNat]
      simp only [takeFence, State.setOut_port, ha]
    refine ⟨_, run, State.depart_departs (fenced := true) (posted := false) (by decide) (t := s.setOut (.onSup []))
      ⟨rfl, rfl, rfl, rfl, rfl, rfl, rfl, rfl, rfl⟩ ?_⟩
    constructor <;> simp [State.sendPlainDone]
  · have lose {u : State} (hu : u.port a = s.port a) : u.leaveUp (.agent a) = u.depart a .down .linkLost false true := by
      simp only [State.leaveUp, State.losePort, hu, ha]
    obtain ⟨u, same, port, run⟩ : ∃ u, SameDepartures s u ∧ u.port a = s.port a ∧
        exec c s = .next (u.leaveUp (.agent a)) := by
      obtain rfl | ⟨f, rfl⟩ := hc
      · refine ⟨s.begin.setLink (.agent a) (.fresh .down), ⟨rfl, rfl, rfl, rfl, rfl, rfl, rfl, rfl, rfl⟩, rfl, ?_⟩
        simp only [exec, execCarrierLost, State.isUp_eq_true.1 hup]
        rfl
      · refine ⟨{ s.setLink (.agent a) { state := .training, credits := 8, buffer := [] } with
          out := .trains (.agent a) }, ⟨rfl, rfl, rfl, rfl, rfl, rfl, rfl, rfl, rfl⟩, rfl, ?_⟩
        simp only [exec, execLinkError, hup]
        rfl
    rw [lose port] at run
    exact ⟨_, run, State.depart_departs (fenced := false) (posted := true) (by decide) same ⟨rfl, rfl, rfl, rfl, rfl, rfl, rfl, rfl, rfl⟩⟩

end Sys2Proof.Machine
end

section
/-!
SUPPORT: what the actions send. Each adds to the messages sent before it, and only a refusal adds a REFUSED.
-/

namespace Sys2Proof.Machine

variable {s t u : State} {a : AgentId} {k : EndWait} {ab : Option (Fin 4)}

/-- Whether a message is REFUSED. -/
def SupMsg.refuses : SupMsg → Bool
  | .refused .. => true
  | _ => false

/-- From s to t nothing sent is taken back, and no REFUSED is sent. -/
structure SpeaksOn (s t : State) : Prop where
  agents : ∀ a : AgentId, ∀ m ∈ s.out.agents[a], m ∈ t.out.agents[a]
  sup : ∀ m ∈ t.out.sup, m.refuses = true → m ∈ s.out.sup

namespace SpeaksOn

theorem refl (s : State) : SpeaksOn s s := ⟨fun _ _ h => h, fun _ h _ => h⟩

theorem trans (h : SpeaksOn s t) (k : SpeaksOn t u) : SpeaksOn s u :=
  ⟨fun a m hm => k.agents a m (h.agents a m hm), fun m hm hr => h.sup m (k.sup m hm hr) hr⟩

/-- Nothing is sent to an agent or on S. -/
theorem of_out (h : SpeaksOn s t) (ha : u.out.agents = t.out.agents) (hs : u.out.sup = t.out.sup) : SpeaksOn s u := by
  refine ⟨fun a m hm => ?_, fun m hm => h.sup m (hs ▸ hm)⟩
  rw [ha]
  exact h.agents a m hm

theorem of_eq (h : SpeaksOn s t) (ho : u.out = t.out) : SpeaksOn s u := h.of_out (by rw [ho]) (by rw [ho])

theorem sendSup (h : SpeaksOn s t) {m : SupMsg} (hm : m.refuses = false) : SpeaksOn s (t.sendSup m) := by
  unfold State.sendSup
  split
  · refine ⟨h.agents, fun n hn hr => ?_⟩
    obtain hn | rfl : n ∈ t.out.sup ∨ n = m := by simpa using hn
    · exact h.sup n hn hr
    · rw [hm] at hr
      cases hr
  · exact h

theorem sendAgent (h : SpeaksOn s t) (b : AgentId) (m : AgentMsg) : SpeaksOn s (t.sendAgent b m) := by
  unfold State.sendAgent
  split
  · refine ⟨fun a n hn => ?_, h.sup⟩
    show n ∈ (t.out.agents.set b (t.out.agents[b] ++ [m]))[a]
    rw [vector_get_set]
    split
    · subst_vars
      exact List.mem_append_left _ (h.agents _ n hn)
    · exact h.agents a n hn
  · exact h

theorem finish (h : SpeaksOn s t) (tag : BitVec 8) (o : DoneOutcome) (g : Option (BitVec 16)) (l : FinSet 8)
    (i : Option (Fin 16)) : SpeaksOn s (t.finish tag o g l i) := by
  refine sendSup ?_ rfl
  exact h.of_eq rfl

theorem accept (h : SpeaksOn s t) (tag : BitVec 8) : SpeaksOn s (t.accept tag) := by
  refine sendSup ?_ rfl
  exact h.of_eq rfl

theorem sendPlainDone (h : SpeaksOn s t) (tag : BitVec 8) : SpeaksOn s (t.sendPlainDone tag) := h.sendSup rfl

theorem deliver (h : SpeaksOn s t) (l : List Notice) : SpeaksOn s (deliver l t) := by
  induction l generalizing t with
  | nil => exact h
  | cons n l ih =>
    unfold Machine.deliver
    split
    · refine ih ?_
      refine (h.sendSup (m := .notice n) rfl).of_eq ?_
      simp
    · exact h

theorem postPort (h : SpeaksOn s t) (a : AgentId) : SpeaksOn s (t.postPort a) := by
  refine deliver ?_ _
  exact h.of_eq rfl

theorem postScrub (h : SpeaksOn s t) (n : Notice) : SpeaksOn s (t.postScrub n) := by
  refine deliver ?_ _
  exact h.of_eq rfl

/-! ## The Scrub Engine -/

theorem sendOneFill (h : SpeaksOn s t) : SpeaksOn s t.sendOneFill := by
  unfold State.sendOneFill
  split
  · split
    · split
      · exact h.of_eq rfl
      · dsimp only
        unfold State.sendFill
        split
        · exact h.of_out rfl rfl
        · exact h.of_eq rfl
    · exact h
  · exact h

theorem startNext (h : SpeaksOn s t) : SpeaksOn s t.startNext := by
  unfold State.startNext
  split
  · split
    · exact h.of_eq rfl
    · dsimp only
      split <;> exact h.of_eq rfl
  · exact h

theorem endJob (h : SpeaksOn s t) (hu : t.endJob = some u) : SpeaksOn s u := by
  unfold State.endJob at hu
  split at hu
  · cases hu
  · split at hu
    · cases hu
    · cases hu
      refine startNext (postScrub ?_ _)
      exact h.of_eq rfl

theorem drive (h : SpeaksOn s t) : SpeaksOn s t.drive :=
  runEngine_keeps (P := SpeaksOn s) (fun _ h => h.sendOneFill) (fun _ _ h => h.endJob) _ _ h

theorem settleSuspend (h : SpeaksOn s t) : SpeaksOn s t.settleSuspend := by
  unfold State.settleSuspend
  split
  · split
    · refine finish ?_ ..
      exact h.of_eq rfl
    · exact h
  · exact h

theorem afterFill (h : SpeaksOn s t) : SpeaksOn s t.afterFill := h.drive.settleSuspend

theorem enqueue (h : SpeaksOn s t) (i : Fin 16) (j : Job) : SpeaksOn s (t.enqueue i j) := by
  unfold State.enqueue
  dsimp only
  split
  · refine drive (startNext ?_)
    exact h.of_eq rfl
  · exact h.of_eq rfl

/-! ## The Slot Mirror and the ends of changes -/

theorem report (h : SpeaksOn s t) (ab : Option (Fin 4)) (b : AgentId) (w : Nat) (d : Bool) :
    SpeaksOn s (t.report ab b w d) := by
  refine h.of_eq ?_
  rw [State.report_rest]

theorem removeSlot (h : SpeaksOn s t) (ab : Option (Fin 4)) (b : AgentId) (d : Bool) (i : Fin 64) :
    SpeaksOn s (t.removeSlot ab b d i) := by
  cases hh : (t.table b).slots[i] with
  | none => rwa [State.removeSlot_empty hh]
  | some x =>
    rw [State.removeSlot_held hh]
    refine report ?_ ..
    exact h.of_eq rfl

theorem removeWhere (h : SpeaksOn s t) (b : AgentId) (d : Bool) (pick : Holding → Bool) :
    SpeaksOn s (t.removeWhere b d pick) :=
  foldl_keeps (P := SpeaksOn s)
    (fun u i hu => by
      split
      · split
        · exact hu.removeSlot none b d i
        · exact hu
      · exact hu)
    _ _ h

theorem sendGrant (h : SpeaksOn s t) (b : AgentId) (tag : Fin 4) (i : Fin 64) (w : Nat) (l : LiveFields) (r : Rights)
    (ev : Option Nat) : SpeaksOn s (t.sendGrant b tag i w l r ev) := by
  rw [State.sendGrant_eq]
  refine sendAgent ?_ ..
  exact h.of_eq rfl

theorem sendRecall (h : SpeaksOn s t) (w : Nat) (b : AgentId) : SpeaksOn s (t.sendRecall w b) := by
  unfold State.sendRecall
  dsimp only
  split
  · exact h
  · refine sendAgent ?_ ..
    exact h.of_eq rfl

theorem moveFrames (h : SpeaksOn s t) (x : Entry) (l : LiveFields) : SpeaksOn s (t.moveFrames x l) := by
  unfold State.moveFrames
  dsimp only
  split
  · split
    · refine enqueue ?_ ..
      exact h.of_eq rfl
    · exact h.of_eq rfl
  · exact h.of_eq rfl

theorem applyParts (h : SpeaksOn s t) (e : Fin 16) (x : Entry) : SpeaksOn s (t.applyParts e x) := by
  unfold State.applyParts
  split
  · exact h
  · refine finish ?_ ..
    refine of_eq (t := State.moveFrames _ x _) (moveFrames ?_ ..) rfl
    exact h.of_eq rfl

theorem abandonParts (h : SpeaksOn s t) (e : Fin 16) (x : Entry) : SpeaksOn s (t.abandonParts e x) := by
  unfold State.abandonParts
  refine finish ?_ ..
  refine h.of_eq ?_
  cases x.scrubSlot <;> rfl

theorem closeGroup (h : SpeaksOn s t) (g : Fin 4) (o : DoneOutcome) (l : FinSet 8) :
    SpeaksOn s (t.closeGroup g o l) := by
  unfold State.closeGroup
  dsimp only
  split
  · exact of_eq (h.finish ..) rfl
  · exact h.of_eq rfl

section
variable (hk : ∀ e t, SpeaksOn s t → SpeaksOn s (k e t))
include hk

theorem grant (h : SpeaksOn s t) (b : AgentId) (tag : Fin 4) (w : Nat) (r : Rights) (l : LiveFields) :
    SpeaksOn s (grant k ab b tag w r l t) := by
  unfold Machine.grant
  dsimp only
  split
  · refine sendGrant ?_ ..
    exact h.of_eq rfl
  · refine endWaits_keeps hk _ _ (sendGrant ?_ ..)
    exact (h.removeSlot ab b false (t.table b).choose).of_eq rfl

theorem retakeOne (h : SpeaksOn s t) (p : Parked) : SpeaksOn s (retakeOne k ab p t) :=
  retakeOne_keeps (P := SpeaksOn s) (fun _ _ _ h => h.of_eq rfl) (fun _ _ _ _ _ h => h.sendAgent _ _)
    (fun b n w r l _ h => grant hk h b n w r l) p t h

theorem retake (h : SpeaksOn s t) (w : Nat) : SpeaksOn s (retake k ab w t) := by
  refine foldl_keeps (P := SpeaksOn s) (fun _ p h => retakeOne hk h p) _ _ ?_
  exact h.of_eq rfl

end

theorem cascadeKeeps (s : State) (ab : Option (Fin 4)) : CascadeKeeps (SpeaksOn s) ab where
  retake _ hk w _ h := retake hk h w
  apply e x _ _ h := h.applyParts e x
  ready _ _ _ _ h := h.of_eq rfl
  close g o l _ h := h.closeGroup g o l

theorem cascadeDepth (ab : Option (Fin 4)) (n : Nat) (e : Fin 16) (h : SpeaksOn s t) :
    SpeaksOn s (cascadeDepth ab n e t) := cascadeDepth_keeps (cascadeKeeps s ab) n e t h

theorem endWaits (o : State) (h : SpeaksOn s t) : SpeaksOn s (endWaits cascade o t) :=
  endWaits_keeps (fun e _ hu => hu.cascadeDepth none _ e) _ _ h

theorem departParts (h : SpeaksOn s t) (b : AgentId) (st : PortState) (r : PortReason) (fenced posted : Bool) :
    SpeaksOn s (t.departParts b st r fenced posted) := by
  unfold State.departParts
  extract_lets port s1 s2 table s3 s4 tags s5 s6
  have h1 : SpeaksOn s s1 := h.of_eq rfl
  have h2 : SpeaksOn s s2 := h1.removeWhere b true _
  clear_value s2
  have h5 : SpeaksOn s s5 := h2.of_eq rfl
  have h6 : SpeaksOn s s6 := by
    unfold s6
    split
    · exact h5.sendAgent b _
    · exact h5
  split
  · exact h6.postPort b
  · exact h6

end SpeaksOn

end Sys2Proof.Machine
end

section
/-!
PROOF of O36: the expiry of a recall deadline.
-/

namespace Sys2Proof.Machine

variable {s t u v o : State} {a b : AgentId} {L : List AgentId}

/-! ## The departures of several agents -/

/-- Agent a holds window w. -/
def State.holds (s : State) (a : AgentId) (w : Nat) : Bool :=
  (List.finRange 64).any fun i => (s.held a i).any fun h => h.window == w

theorem State.holds_eq_true {w : Nat} : s.holds a w = true ↔ ∃ i, ∃ h ∈ s.held a i, h.window = w := by
  simp [State.holds, Option.any_eq_true, and_comm]

/-- An entry after the departures of some agents, in list order. -/
def State.entryLeft (s : State) (L : List AgentId) (e : Fin 16) (x : Entry) : Entry :=
  L.foldl (fun y a => s.entryWithout a true (fun _ => true) e y) x

/-- What the departures of some agents, each put OUTSIDE (TIMEOUT), leave before the ends of waiting. -/
structure AllLeft (s t : State) (L : List AgentId) : Prop where
  rest : t =
    { s with
      windows := t.windows
      entries := t.entries
      tables := t.tables
      ports := t.ports
      fenceN := t.fenceN
      park := s.park.filter fun p => !decide (p.agent ∈ L)
      scrub := t.scrub
      outbox := t.outbox
      credit := t.credit
      noticeN := t.noticeN
      out := t.out }
  port : ∀ b, t.port b =
    if b ∈ L then { state := .outside, reason := .timeout, context := (s.port b).context, tags := noneOf 4 } else s.port b
  table : ∀ b, t.table b = if b ∈ L then .initial else s.table b
  fence : ∀ b : AgentId, t.fenceN[b] = if b ∈ L then false else s.fenceN[b]
  window : ∀ w, t.window w =
    { s.window w with holders := Vector.ofFn fun b => (s.window w).holders[b] && !(decide (b ∈ L) && s.holds b w) }
  entry : ∀ e, t.entry e = (s.entry e).map (s.entryLeft L e)

theorem AllLeft.nil (s : State) : AllLeft s s [] where
  rest := by
    have park : (s.park.filter fun p => !decide (p.agent ∈ ([] : List AgentId))) = s.park :=
      List.filter_eq_self.2 fun p _ => by simp
    rw [park]
  port _ := rfl
  table _ := rfl
  fence _ := rfl
  window w := by
    have holders : (Vector.ofFn fun b => (s.window w).holders[b] &&
        !(decide (b ∈ ([] : List AgentId)) && s.holds b w)) = (s.window w).holders :=
      vector_eq_of_get fun b => by
        rw [vector_ofFn_get]
        simp
    rw [holders]
  entry e := by
    have same : s.entryLeft [] e = id := rfl
    rw [same, Option.map_id, id]

section
variable {st : PortState} {r : PortReason} (h : Left s v a st r)
include h

theorem Left.links : v.links = s.links := (congrArg State.links h.rest).trans rfl

theorem Left.window_eq (w : Nat) : v.window w = { s.window w with holders := (v.window w).holders } := by
  rw [h.window]
  split <;> rfl

theorem Left.pending (w : Nat) : (v.window w).pending = (s.window w).pending :=
  (congrArg Window.pending (h.window_eq w)).trans rfl

theorem Left.holders (w : Nat) (b : AgentId) :
    (v.window w).holders[b] = ((s.window w).holders[b] && !(decide (b = a) && s.holds a w)) := by
  rw [h.window, if_congr State.holds_eq_true.symm rfl rfl]
  by_cases hw : s.holds a w = true
  · rw [if_pos hw, hw]
    dsimp only
    rw [vector_get_set]
    by_cases hb : b = a <;> simp [hb]
  · rw [if_neg hw, Bool.not_eq_true _ |>.mp hw]
    simp

theorem Left.held {b : AgentId} (hb : b ≠ a) (i : Fin 64) : v.held b i = s.held b i := by
  rw [State.held, h.table, if_neg hb]

theorem Left.holds {b : AgentId} (hb : b ≠ a) (w : Nat) : v.holds b w = s.holds b w := by
  simp only [State.holds, h.held hb]

theorem Left.entryWithout {b : AgentId} (hb : b ≠ a) (e : Fin 16) (x : Entry) :
    v.entryWithout b true (fun _ => true) e x = s.entryWithout b true (fun _ => true) e x :=
  Entry.reported_congr (by simp only [h.held hb, h.pending])

theorem Left.entryLeft (ha : a ∉ L) (e : Fin 16) : v.entryLeft L e = s.entryLeft L e := by
  funext x
  unfold State.entryLeft
  refine List.foldl_ext _ _ _ fun y b hb => h.entryWithout (fun hba => ha (hba ▸ hb)) e y

end

theorem AllLeft.cons (h : Left s v a .outside .timeout) (ha : a ∉ L) (k : AllLeft v t L) : AllLeft s t (a :: L) := by
  have ne {b : AgentId} (hb : b ∈ L) : b ≠ a := fun hba => ha (hba ▸ hb)
  refine ⟨?_, fun b => ?_, fun b => ?_, fun b => ?_, fun w => ?_, fun e => ?_⟩
  · have park : (v.park.filter fun p => !decide (p.agent ∈ L)) =
        s.park.filter fun p => !decide (p.agent ∈ a :: L) := by
      rw [h.park, List.filter_filter]
      refine List.filter_congr fun p _ => ?_
      by_cases hp : p.agent = a <;> simp [hp]
    rw [← park]
    refine k.rest.trans ?_
    exact congrArg (fun u : State =>
      { u with
        windows := t.windows
        entries := t.entries
        tables := t.tables
        ports := t.ports
        fenceN := t.fenceN
        park := v.park.filter fun p => !decide (p.agent ∈ L)
        scrub := t.scrub
        outbox := t.outbox
        credit := t.credit
        noticeN := t.noticeN
        out := t.out }) h.rest
  · rw [k.port, h.port]
    by_cases hb : b ∈ L
    · simp [hb, ne hb]
    · by_cases hba : b = a
      · simp [hba, ha]
      · simp [hb, hba]
  · rw [k.table, h.table]
    by_cases hb : b ∈ L
    · simp [hb]
    · by_cases hba : b = a <;> simp [hb, hba, ha]
  · rw [k.fence, h.fence]
    by_cases hb : b ∈ L
    · simp [hb]
    · by_cases hba : b = a <;> simp [hb, hba, ha]
  · rw [k.window, h.window_eq]
    have holders : (Vector.ofFn fun b => (v.window w).holders[b] && !(decide (b ∈ L) && v.holds b w)) =
        Vector.ofFn fun b => (s.window w).holders[b] && !(decide (b ∈ a :: L) && s.holds b w) :=
      congrArg Vector.ofFn (funext fun b => by
        rw [h.holders]
        by_cases hb : b = a
        · subst hb
          simp [ha]
        · simp [hb, h.holds hb])
    exact congrArg (fun x => { s.window w with holders := x }) holders
  · rw [k.entry, h.entry, Option.map_map, h.entryLeft ha]
    rfl

/-- The departures of some ADMITTED agents, one after another. -/
theorem foldl_putOutside (L : List AgentId) : ∀ s : State, L.Nodup → (∀ a ∈ L, (s.port a).state = .admitted) →
    AllLeft s (L.foldl State.putOutside s) L := by
  induction L with
  | nil => exact fun s _ _ => .nil s
  | cons a L ih =>
    intro s hnd had
    obtain ⟨ha, hnd⟩ := List.nodup_cons.1 hnd
    have admitted : s.isAdmitted a = true := by simpa [State.isAdmitted] using had a (.head _)
    have left := s.departParts_left (a := a) .outside .timeout true true
    rw [List.foldl_cons, State.putOutside, if_pos admitted]
    refine .cons left ha (ih _ hnd fun b hb => ?_)
    have hne : b ≠ a := fun hba => ha (hba ▸ hb)
    rw [left.port, if_neg hne]
    exact had b (.tail _ hb)

theorem Entry.reported_window (x : Entry) (d : Bool) (c : Prop) [Decidable c] : (x.reported a d c).window = x.window := by
  unfold Entry.reported
  split <;> rfl

theorem State.entryLeft_window (e : Fin 16) (x : Entry) : (s.entryLeft L e x).window = x.window := by
  unfold State.entryLeft
  exact List.foldlRecOn (motive := fun y : Entry => y.window = x.window) L _ rfl fun y hy b _ =>
    (Entry.reported_window ..).trans hy

theorem AllLeft.closed (h : AllLeft s t L) (ha : a ∈ L) : t.Closed a where
  state := by
    rw [h.port, if_pos ha]
    nofun
  table := by rw [h.table, if_pos ha]
  parked p hp hpa := by
    rw [h.rest] at hp
    simp [hpa, ha] at hp
  tags := by rw [h.port, if_pos ha]

/-- What the departures of some agents, with the ends of waiting that they bring about, leave. -/
theorem AllLeft.departs (h : AllLeft s t L) (hL : L ≠ []) (o : State) :
    Bystanders s (endWaits cascade o t) ∧
      ∀ a, (a ∈ L → Emptied s (endWaits cascade o t) a .outside .timeout) ∧
        (a ∉ L → PortKept s (endWaits cascade o t) a) := by
  have steady := endWaits_cascade_steady o t
  refine ⟨?_, fun a => ⟨fun ha => ?_, fun ha => ⟨?_, ?_, ?_, ?_⟩⟩⟩
  · obtain ⟨a, ha⟩ := List.exists_mem_of_ne_nil _ hL
    refine ⟨steady.device.trans ((congrArg State.device h.rest).trans rfl),
      steady.resetN.trans ((congrArg State.resetN h.rest).trans rfl),
      steady.carrier.trans ((congrArg State.carrier h.rest).trans rfl), fun w hn => ?_⟩
    have spares := endWaits_sparesPort (h.closed ha) o (.refl a t)
    obtain ⟨hl, hg, hp⟩ := spares.records w fun e x hx => by
      rw [h.entry, Option.mem_def, Option.map_eq_some_iff] at hx
      obtain ⟨y, hy, rfl⟩ := hx
      rw [State.entryLeft_window]
      exact hn e y hy
    rw [h.window] at hl hg hp
    exact ⟨hl, hg, hp⟩
  · have closed := h.closed ha
    have spares := endWaits_sparesPort closed o (.refl a t)
    obtain ⟨-, table, parked, tags⟩ := spares.keeps.closed closed
    have state := steady.state a
    have reason := steady.reason a
    have context := steady.context a
    rw [h.port, if_pos ha] at state reason context
    refine ⟨?_, table, ?_, parked, fun i y hy => spares.holders _ ?_⟩
    · generalize State.port _ a = p at state reason context tags
      obtain ⟨_, _, _, _⟩ := p
      simp_all
    · rw [steady.fenceN, h.fence, if_pos ha]
    · rw [h.window]
      refine (vector_ofFn_get ..).trans ?_
      rw [State.holds_eq_true.2 ⟨i, y, hy, rfl⟩]
      simp [ha]
  · rw [steady.state, h.port, if_neg ha]
  · rw [steady.reason, h.port, if_neg ha]
  · rw [steady.context, h.port, if_neg ha]
  · rw [steady.fenceN, h.fence, if_neg ha]

/-! ## FENCED -/

theorem State.mem_sendAgent (hup : s.isUp (.agent a) = true) (m : AgentMsg) : m ∈ (s.sendAgent a m).out.agents[a] := by
  rw [State.sendAgent_of_up hup]
  show m ∈ (s.out.agents.set a (s.out.agents[a] ++ [m]))[a]
  rw [vector_get_set, if_pos rfl]
  exact List.mem_append_right _ (.head _)

theorem State.departParts_fenced (hup : s.isUp (.agent a) = true) (st : PortState) (r : PortReason) (posted : Bool) :
    .fenced r ∈ (s.departParts a st r true posted).out.agents[a] := by
  have up : (s.vacate a st r).isUp (.agent a) = true := 
    (State.isUp_eq (State.vacate_left st r).links _).trans hup
  rw [State.departParts_eq]
  have sent := State.mem_sendAgent up (.fenced r)
  unfold State.announce
  simp only [if_true]
  split
  · exact ((SpeaksOn.refl _).postPort a).agents a _ sent
  · exact sent

theorem State.putOutside_speaksOn (h : SpeaksOn s t) (a : AgentId) : SpeaksOn s (t.putOutside a) := by
  unfold State.putOutside
  split
  · exact h.departParts ..
  · exact h

theorem foldl_putOutside_fenced (L : List AgentId) : ∀ s : State, L.Nodup →
    (∀ a ∈ L, (s.port a).state = .admitted ∧ s.isUp (.agent a) = true) →
      ∀ a ∈ L, .fenced .timeout ∈ (L.foldl State.putOutside s).out.agents[a] := by
  induction L with
  | nil => exact fun _ _ _ _ h => nomatch h
  | cons b L ih =>
    intro s hnd had a ha
    obtain ⟨hb, hnd⟩ := List.nodup_cons.1 hnd
    obtain ⟨hadm, hup⟩ := had b (.head _)
    have admitted : s.isAdmitted b = true := by simpa [State.isAdmitted] using hadm
    have left := s.departParts_left (a := b) .outside .timeout true true
    rw [List.foldl_cons, State.putOutside, if_pos admitted]
    obtain rfl | ha := List.mem_cons.1 ha
    · exact (foldl_keeps (P := SpeaksOn _) (fun _ b h => State.putOutside_speaksOn h b) L _ (.refl _)).agents a _
        (State.departParts_fenced hup ..)
    · refine ih _ hnd (fun c hc => ?_) a ha
      have hne : c ≠ b := fun hcb => hb (hcb ▸ hc)
      obtain ⟨hadm, hup⟩ := had c (.tail _ hc)
      rw [left.port, if_neg hne]
      exact ⟨hadm, (State.isUp_eq left.links _).trans hup⟩

/-! ## While the outbox delivers nothing -/

/-- The notices posted and the messages sent by the departures of some agents, while the outbox delivers nothing. -/
structure Posted (s t : State) (L : List AgentId) : Prop where
  outbox : t.outbox = L.foldl (fun o a => portPosting o a .outside .timeout) s.outbox
  credit : t.credit = s.credit
  scrub : t.scrub = s.scrub
  low : t.noticeN = if L = [] then s.noticeN else false
  sup : { t.out with agents := s.out.agents } = s.out
  agents : ∀ a : AgentId, t.out.agents[a] = s.out.agents[a] ++ if a ∈ L then [.fenced .timeout] else []

theorem State.departParts_posted (hm : s.mute) (hup : s.isUp (.agent a) = true) :
    Posted s (s.departParts a .outside .timeout true true) [a] := by
  have left := State.vacate_left (s := s) (a := a) .outside .timeout
  have rest := s.vacated_rest (a := a) .outside .timeout
  obtain ⟨v, hv⟩ : ∃ v, s.vacate a .outside .timeout = v := ⟨_, rfl⟩
  have outbox : v.outbox = s.outbox := by
    rw [← hv, State.vacate, State.setPort_outbox, State.setPark_outbox, State.setTable_outbox, rest]
  have credit : v.credit = s.credit := by
    rw [← hv, State.vacate, State.setPort_credit, State.setPark_credit, State.setTable_credit, rest]
  have scrub : v.scrub = s.scrub := by
    rw [← hv, State.vacate, State.setPort_scrub, State.setPark_scrub, State.setTable_scrub, rest]
  have out : v.out = s.out := by
    rw [← hv, State.vacate, State.setPort_out, State.setPark_out, State.setTable_out, rest]
  rw [hv] at left
  have up (l : LinkId) : v.isUp l = s.isUp l := State.isUp_eq left.links l
  have mute (o : Outputs) : (v.setOut o).mute := hm.imp credit.trans (up .sup).trans
  have port : v.port a = { state := .outside, reason := .timeout, context := (s.port a).context, tags := noneOf 4 } := by
    rw [left.port, if_pos rfl]
  rw [State.departParts_eq, hv]
  unfold State.announce
  simp only [if_true]
  rw [State.sendAgent_of_up ((up _).trans hup), State.postPort_of_mute (mute _), State.setOut_port, port, out]
  refine ⟨?_, credit, scrub, rfl, rfl, fun b => ?_⟩
  · exact congrArg (fun o => portPosting o a .outside .timeout) outbox
  · show (s.out.agents.set a (s.out.agents[a] ++ [AgentMsg.fenced .timeout]))[b] = _
    rw [vector_get_set]
    by_cases hb : b = a
    · subst hb
      simp
    · simp [hb]

theorem Posted.nil (s : State) : Posted s s [] := ⟨rfl, rfl, rfl, rfl, rfl, fun _ => by simp⟩

theorem Posted.cons (h : Posted s v [a]) (ha : a ∉ L) (k : Posted v t L) : Posted s t (a :: L) where
  outbox := k.outbox.trans (by rw [h.outbox]; rfl)
  credit := k.credit.trans h.credit
  scrub := k.scrub.trans h.scrub
  low := by
    rw [k.low, h.low]
    simp
  sup := (congrArg (fun o => { o with agents := s.out.agents }) k.sup).trans h.sup
  agents b := by
    rw [k.agents, h.agents, List.append_assoc]
    by_cases hb : b = a
    · subst hb
      simp [ha]
    · simp [hb]

theorem foldl_putOutside_posted (L : List AgentId) : ∀ s : State, s.mute → L.Nodup →
    (∀ a ∈ L, (s.port a).state = .admitted ∧ s.isUp (.agent a) = true) →
      Posted s (L.foldl State.putOutside s) L := by
  induction L with
  | nil => exact fun s _ _ _ => .nil s
  | cons a L ih =>
    intro s hm hnd had
    obtain ⟨ha, hnd⟩ := List.nodup_cons.1 hnd
    obtain ⟨hadm, hup⟩ := had a (.head _)
    have admitted : s.isAdmitted a = true := by simpa [State.isAdmitted] using hadm
    have left := s.departParts_left (a := a) .outside .timeout true true
    have posted := s.departParts_posted hm hup
    rw [List.foldl_cons, State.putOutside, if_pos admitted]
    have up (l : LinkId) := State.isUp_eq left.links l
    refine .cons posted ha (ih _ (hm.imp posted.credit.trans (up .sup).trans) hnd fun b hb => ?_)
    have hne : b ≠ a := fun hba => ha (hba ▸ hb)
    obtain ⟨hadm, hup⟩ := had b (.tail _ hb)
    rw [left.port, if_neg hne]
    exact ⟨hadm, (up _).trans hup⟩

/-! ## The entry whose deadline expires -/

/-- Some agents that an entry awaits depart, each with a holding of its window. -/
theorem State.entryLeft_released {e : Fin 16} (L : List AgentId) : ∀ x : Entry, x.state ≠ .held → L.Nodup →
    (∀ a ∈ L, x.awaited[a] = true ∧ ∃ i, ∃ h ∈ s.held a i, (s.window h.window).pending = some e) →
      s.entryLeft L e x =
        { x with
          awaited := Vector.ofFn fun a => x.awaited[a] && !decide (a ∈ L)
          lost := Vector.ofFn fun a => x.lost[a] || decide (a ∈ L) } := by
  induction L with
  | nil =>
    intro x _ _ _
    have awaited : (Vector.ofFn fun a => x.awaited[a] && !decide (a ∈ ([] : List AgentId))) = x.awaited :=
      vector_eq_of_get fun a => by
        rw [vector_ofFn_get]
        simp
    have lost : (Vector.ofFn fun a => x.lost[a] || decide (a ∈ ([] : List AgentId))) = x.lost :=
      vector_eq_of_get fun a => by
        rw [vector_ofFn_get]
        simp
    rw [awaited, lost]
    rfl
  | cons a L ih =>
    intro x hst hnd hL
    obtain ⟨ha, hnd⟩ := List.nodup_cons.1 hnd
    obtain ⟨⟨haw, i, y, hy, hp⟩, hL⟩ := List.forall_mem_cons.1 hL
    have released : s.entryWithout a true (fun _ => true) e x = x.released a true :=
      Entry.reported_pos haw hst ⟨i, rfl, y, hy, hp⟩
    have step : s.entryLeft (a :: L) e x = s.entryLeft L e (x.released a true) := by
      rw [← released]
      rfl
    have waits (b : AgentId) (hb : b ∈ L) : (x.released a true).awaited[b] = true := by
      have hne : b ≠ a := fun hba => ha (hba ▸ hb)
      rw [Entry.released, vector_get_set, if_neg hne]
      exact (hL b hb).1
    rw [step, ih (x.released a true) hst hnd fun b hb => ⟨waits b hb, (hL b hb).2⟩]
    · have awaited : (Vector.ofFn fun b => (x.released a true).awaited[b] && !decide (b ∈ L)) =
          Vector.ofFn fun b => x.awaited[b] && !decide (b ∈ a :: L) :=
        congrArg Vector.ofFn (funext fun b => by
          rw [Entry.released, vector_get_set]
          by_cases hb : b = a <;> simp [hb])
      have lost : (Vector.ofFn fun b => (x.released a true).lost[b] || decide (b ∈ L)) =
          Vector.ofFn fun b => x.lost[b] || decide (b ∈ a :: L) :=
        congrArg Vector.ofFn (funext fun b => by
          rw [Entry.released, if_pos rfl, vector_get_set]
          by_cases hb : b = a <;> simp [hb])
      rw [awaited, lost]
      rfl

/-- An entry that awaits none of them stays. -/
theorem State.entryLeft_unawaited {e : Fin 16} {x : Entry} (h : ∀ a ∈ L, x.awaited[a] = false) :
    s.entryLeft L e x = x := by
  unfold State.entryLeft
  exact List.foldlRecOn (motive := fun y : Entry => y = x) L _ rfl fun y hy a ha => by
    subst hy
    exact Entry.reported_neg fun hc => by
      rw [h a ha] at hc
      cases hc.1

theorem exec_expiry {e : Fin 16} {x : Entry} (hx : s.entry e = some x) (hd : x.deadline = .running) :
    exec (.recallDeadlineExpiry e) s = .next (takeExpiry e x s.begin) := by
  simp only [exec, execRecallDeadlineExpiry, hx, hd, if_true]

theorem takeExpiry_nobody {e : Fin 16} {x : Entry} (hx : s.entry e = some x) (hn : ∀ a : AgentId, x.awaited[a] = false) :
    takeExpiry e x s = s.setEntry e (some { x with deadline := .expired }) := by
  have nobody : x.awaited.elems = [] := List.eq_nil_iff_forall_not_mem.2 fun a ha => by
    rw [FinSet.mem_elems, hn] at ha
    cases ha
  rw [takeExpiry, nobody]
  refine endWaits_of_awaits (fun d hd => ?_) _
  obtain ⟨y, hy, a, ha⟩ := State.awaits_iff.1 hd
  refine State.awaits_iff.2 ?_
  by_cases hde : d = e
  · subst hde
    cases hx.symm.trans hy
    rw [hn] at ha
    cases ha
  · refine ⟨y, ?_, a, ha⟩
    rw [List.foldl_nil, State.entry_setEntry, if_neg hde]
    exact hy

section
variable {e : Fin 16} {x : Entry}

theorem FinSet.nodup_elems (f : FinSet 8) : f.elems.Nodup := (List.nodup_finRange 8).filter _

/-- The state with a deadline expired. -/
def State.expired (s : State) (e : Fin 16) (x : Entry) : State := s.setEntry e (some { x with deadline := .expired })

theorem takeExpiry_eq : takeExpiry e x s = endWaits cascade s (x.awaited.elems.foldl State.putOutside (s.expired e x)) := rfl

theorem takeExpiry_departs (hx : s.entry e = some x) (hL : x.awaited.elems ≠ [])
    (had : ∀ a : AgentId, x.awaited[a] = true → (s.port a).state = .admitted ∧ s.isUp (.agent a) = true) :
    Bystanders s (takeExpiry e x s) ∧ ∀ a : AgentId,
      (x.awaited[a] = true → Emptied s (takeExpiry e x s) a .outside .timeout ∧
        .fenced .timeout ∈ (takeExpiry e x s).out.agents[a]) ∧
      (x.awaited[a] = false → PortKept s (takeExpiry e x s) a) := by
  have admitted (a : AgentId) (ha : a ∈ x.awaited.elems) := had a ((FinSet.mem_elems _ _).1 ha)
  have left := foldl_putOutside x.awaited.elems (s.expired e x) x.awaited.nodup_elems fun a ha => (admitted a ha).1
  have fenced := foldl_putOutside_fenced x.awaited.elems (s.expired e x) x.awaited.nodup_elems admitted
  obtain ⟨stand, ports⟩ := left.departs hL s
  rw [takeExpiry_eq]
  refine ⟨⟨stand.device, stand.resetN, stand.carrier, fun w hn => stand.records w fun d y hy => ?_⟩,
    fun a => ⟨fun ha => ⟨?_, ?_⟩, fun ha => ?_⟩⟩
  · rw [State.expired, State.entry_setEntry] at hy
    split at hy
    · cases hy
      exact hn e x hx
    · exact hn d y hy
  · obtain ⟨port, table, fence, park, holders⟩ := (ports a).1 ((FinSet.mem_elems _ _).2 ha)
    exact ⟨port, table, fence, park, holders⟩
  · exact ((SpeaksOn.refl _).endWaits s).agents a _ (fenced a ((FinSet.mem_elems _ _).2 ha))
  · obtain ⟨state, reason, context, fence⟩ := (ports a).2 fun hm => by
      rw [FinSet.mem_elems, ha] at hm
      cases hm
    exact ⟨state, reason, context, fence⟩

/-- The entry whose deadline has expired, every agent it awaited lost. -/
def Entry.lapsed (x : Entry) : Entry :=
  { x with
    deadline := .expired
    awaited := noneOf 8
    lost := Vector.ofFn fun a => x.lost[a] || x.awaited[a] }

/-- A standalone entry whose awaited agents are awaited by no other one applies when its deadline expires. -/
theorem takeExpiry_applies {l : LiveFields} (ha : s.Applicable e x l) (hs : s.parkSound) (hg : x.group = none)
    (hst : x.state ≠ .held) (hp : (s.window x.window).pending = some e)
    (had : ∀ a : AgentId, x.awaited[a] = true → (s.port a).state = .admitted)
    (haw : ∀ a : AgentId, x.awaited[a] = true →
      (∃ i, ∃ h ∈ s.held a i, h.window = x.window) ∧ ∀ d, d ≠ e → ∀ y ∈ s.entry d, y.awaited[a] = false)
    (hsome : ∃ a : AgentId, x.awaited[a] = true)
    (hu : u = x.awaited.elems.foldl State.putOutside (s.expired e x)) (hsc : u.scrub = s.scrub) :
    u.entries = s.entries.set e (some x.lapsed) ∧
      takeExpiry e x s = (u.applyParts e x.lapsed).retaken x.window ∧ u.Applicable e x.lapsed l := by
  have left := foldl_putOutside x.awaited.elems (s.expired e x) x.awaited.nodup_elems
    fun a ha => had a ((FinSet.mem_elems _ _).1 ha)
  rw [← hu] at left
  have concerned (a : AgentId) (ha : a ∈ x.awaited.elems) : x.awaited[a] = true ∧
      ∃ i, ∃ h ∈ (s.expired e x).held a i, ((s.expired e x).window h.window).pending = some e := by
    have hx := (FinSet.mem_elems _ _).1 ha
    obtain ⟨⟨i, h, hh, hw⟩, -⟩ := haw a hx
    exact ⟨hx, i, h, hh, by rw [hw]; exact hp⟩
  have lapsed : (s.expired e x).entryLeft x.awaited.elems e { x with deadline := .expired } = x.lapsed := by
    rw [State.entryLeft_released _ { x with deadline := .expired } hst x.awaited.nodup_elems concerned]
    have named (a : AgentId) : decide (a ∈ x.awaited.elems) = x.awaited[a] := by
      rw [Bool.eq_iff_iff, decide_eq_true_iff, FinSet.mem_elems]
    have awaited : (Vector.ofFn fun a => x.awaited[a] && !decide (a ∈ x.awaited.elems)) = noneOf 8 :=
      vector_eq_of_get fun a => by
        rw [vector_ofFn_get, named, Bool.and_not_self]
        exact (Vector.getElem_replicate ..).symm
    have lost : (Vector.ofFn fun a => x.lost[a] || decide (a ∈ x.awaited.elems)) =
        Vector.ofFn fun a => x.lost[a] || x.awaited[a] := by simp only [named]
    dsimp only
    rw [awaited, lost]
    rfl
  have entry (d : Fin 16) : u.entry d = if d = e then some x.lapsed else s.entry d := by
    rw [left.entry, State.expired, State.entry_setEntry]
    split
    · rename_i hde
      subst hde
      exact congrArg some lapsed
    · rename_i hde
      cases hy : s.entry d with
      | none => rfl
      | some y =>
        exact congrArg some (State.entryLeft_unawaited fun a ha => (haw a ((FinSet.mem_elems _ _).1 ha)).2 d hde y hy)
  have entries : u.entries = s.entries.set e (some x.lapsed) := vector_eq_of_get fun d => by
    rw [vector_get_set]
    exact entry d
  have ended : u.awaits e = false := by
    rw [Bool.eq_false_iff]
    intro hw
    obtain ⟨y, hy, b, hb⟩ := State.awaits_iff.1 hw
    rw [entry, if_pos rfl] at hy
    cases hy
    simp [Entry.lapsed, noneOf] at hb
  have only : emptied s u = [e] := emptied_single (State.awaits_iff.2 ⟨x, ha.entry, hsome⟩) ended fun d hd => by
    rw [entry, if_neg hd]
  have links : u.links = s.links := (congrArg State.links left.rest).trans rfl
  have frames : u.frames = s.frames := (congrArg State.frames left.rest).trans rfl
  have applicable : u.Applicable e x.lapsed l :=
    { entry := (entry e).trans (if_pos rfl)
      live := by
        rw [left.window]
        exact ha.live
      up := (State.isUp_eq links _).trans ha.up
      wf := by
        rw [frames]
        exact ha.wf
      fits := ha.fits
      engine := by
        rw [hsc]
        exact ha.engine }
  have parked : u.parkSound := fun p hp => by
    rw [left.rest, List.mem_filter] at hp
    obtain ⟨hp, hpa⟩ := hp
    obtain ⟨hadm, hw, hr⟩ := hs p hp
    rw [left.port, if_neg (by simpa using hpa)]
    exact ⟨hadm, hw, hr⟩
  refine ⟨entries, ?_, applicable⟩
  rw [takeExpiry_eq, ← hu, endWaits, only]
  exact cascade_standalone ended applicable hg parked

end

theorem FinSet.decide_mem_elems (f : FinSet 8) (a : AgentId) : decide (a ∈ f.elems) = f[a] := by
  rw [Bool.eq_iff_iff, decide_eq_true_iff, FinSet.mem_elems]

/-- The stragglers put outside, field by field. -/
theorem AllLeft.eq {f : FinSet 8} (h : AllLeft s t f.elems) (k : Posted s t f.elems) (hf : f.elems ≠ []) :
    t = { s with
          windows := t.windows
          entries := t.entries
          tables := Vector.ofFn fun a => if f[a] then SlotTable.initial else s.table a
          ports := Vector.ofFn fun a =>
            if f[a] then { state := .outside, reason := .timeout, context := (s.port a).context, tags := noneOf 4 }
            else s.port a
          fenceN := Vector.ofFn fun a => s.fenceN[a] && !f[a]
          park := s.park.filter fun p => !f[p.agent]
          outbox := f.elems.foldl (fun o a => portPosting o a .outside .timeout) s.outbox
          noticeN := false
          out :=
            { s.out with
              agents := Vector.ofFn fun a => s.out.agents[a] ++ if f[a] then [.fenced .timeout] else [] } } := by
  have tables : t.tables = Vector.ofFn fun a => if f[a] then SlotTable.initial else s.table a :=
    vector_eq_of_get fun a => by
      rw [vector_ofFn_get]
      exact (h.table a).trans (if_congr (FinSet.mem_elems ..) rfl rfl)
  have ports : t.ports = Vector.ofFn fun a =>
      if f[a] then { state := .outside, reason := .timeout, context := (s.port a).context, tags := noneOf 4 }
      else s.port a := vector_eq_of_get fun a => by
    rw [vector_ofFn_get]
    exact (h.port a).trans (if_congr (FinSet.mem_elems ..) rfl rfl)
  have fenceN : t.fenceN = Vector.ofFn fun a => s.fenceN[a] && !f[a] := vector_eq_of_get fun a => by
    rw [vector_ofFn_get, h.fence, if_congr (FinSet.mem_elems ..) rfl rfl]
    cases f[a] <;> simp
  have out : t.out = { s.out with
      agents := Vector.ofFn fun a => s.out.agents[a] ++ if f[a] then [.fenced .timeout] else [] } := by
    have agents : t.out.agents = Vector.ofFn fun a => s.out.agents[a] ++ if f[a] then [.fenced .timeout] else [] :=
      vector_eq_of_get fun a => by
        rw [vector_ofFn_get, k.agents]
        exact congrArg (s.out.agents[a] ++ ·) (if_congr (FinSet.mem_elems ..) rfl rfl)
    rw [← agents]
    exact congrArg (fun o => { o with agents := t.out.agents }) k.sup
  have low : t.noticeN = false := k.low.trans (if_neg hf)
  have rest := h.rest
  simp only [FinSet.decide_mem_elems] at rest
  rw [← tables, ← ports, ← fenceN, ← out, ← low, ← k.outbox]
  rw [k.credit, k.scrub] at rest
  exact rest

/-- Settles O36. -/
theorem deadlinePutsOutside : Obligations.DeadlinePutsOutside := by
  unfold Obligations.DeadlinePutsOutside
  intro e s
  refine ⟨fun hn => ?_, fun x hx hd => ⟨fun hn => ?_, fun had => ?_⟩⟩
  · cases hx : s.entry e with
    | none =>
      simp only [exec, execRecallDeadlineExpiry, hx]
      rfl
    | some x =>
      simp only [exec, execRecallDeadlineExpiry, hx, if_neg (hn x hx)]
      rfl
  · rw [exec_expiry hx hd, takeExpiry_nobody (s := s.begin) hx hn]
    rfl
  · rw [exec_expiry hx hd]
    by_cases hL : x.awaited.elems = []
    · have hn (a : AgentId) : x.awaited[a] = false := by
        rw [Bool.eq_false_iff]
        intro ha
        exact (List.eq_nil_iff_forall_not_mem.1 hL) a ((FinSet.mem_elems _ _).2 ha)
      rw [takeExpiry_nobody (s := s.begin) hx hn]
      refine ⟨_, rfl, ⟨rfl, rfl, rfl, fun _ _ => ⟨rfl, rfl, rfl⟩⟩, fun a => ⟨fun ha => ?_, fun _ => ⟨rfl, rfl, rfl, rfl⟩⟩,
        fun _ _ _ _ _ _ _ hs _ => ?_⟩
      · rw [hn a] at ha
        cases ha
      · obtain ⟨a, ha⟩ := hs
        rw [hn a] at ha
        cases ha
    · obtain ⟨stand, ports⟩ := takeExpiry_departs (s := s.begin) hx hL had
      refine ⟨_, rfl, ⟨stand.device, stand.resetN, stand.carrier, stand.records⟩, fun a => ⟨fun ha => ?_, fun ha => ?_⟩,
        fun hm l hl hs hg hst hp _ haw => ?_⟩
      · obtain ⟨gone, fenced⟩ := (ports a).1 ha
        exact ⟨⟨gone.port, gone.table, gone.fence, gone.park, gone.holders⟩, fenced⟩
      · have kept := (ports a).2 ha
        exact ⟨kept.state, kept.reason, kept.context, kept.fence⟩
      · have up (a : AgentId) (ha : a ∈ x.awaited.elems) := had a ((FinSet.mem_elems _ _).1 ha)
        obtain ⟨u, hu⟩ : ∃ u, u = x.awaited.elems.foldl State.putOutside (s.begin.expired e x) := ⟨_, rfl⟩
        have left := foldl_putOutside x.awaited.elems (s.begin.expired e x) x.awaited.nodup_elems fun a ha => (up a ha).1
        have posted := foldl_putOutside_posted x.awaited.elems (s.begin.expired e x) hm x.awaited.nodup_elems up
        rw [← hu] at left posted
        obtain ⟨entries, run, applicable⟩ := takeExpiry_applies (s := s.begin)
          ⟨hx, hl.live, hl.up, hl.wf, hl.fits, hl.engine⟩ hs hg hst hp (fun a ha => (had a ha).1) haw ‹_› hu posted.scrub
        refine ⟨u, _, run, applicable.applies, ?_, fun w => ?_⟩
        · have fields := left.eq posted hL
          have silent (a : AgentId) : (s.begin.expired e x).out.agents[a] = [] := Vector.getElem_replicate ..
          simp only [silent, List.nil_append] at fields
          rw [entries] at fields
          exact fields
        · rw [left.window]
          simp only [FinSet.decide_mem_elems]
          rfl

end Sys2Proof.Machine
end

section
/-!
PROOF of O4: reading the frame of a well-formed message command.
-/

namespace Sys2Proof

open Sys2Proof.Machine

theorem bitsAt_eq (w : Word) (lo n : Nat) : bitsAt w lo n = w.extractLsb' lo n := rfl

section
variable (kind tag : BitVec 8) (n : BitVec 7) (subject : BitVec 9)

theorem headerWord_kind : bitsAt (headerWord kind n tag subject) 24 8 = kind := by
  unfold headerWord
  rw [bitsAt_eq, BitVec.extractLsb'_append_eq_of_le (by omega), BitVec.extractLsb'_append_eq_of_le (by omega),
    BitVec.extractLsb'_append_eq_of_le (by omega)]
  exact BitVec.extractLsb'_eq_self

theorem headerWord_length : bitsAt (headerWord kind n tag subject) 17 7 = n := by
  unfold headerWord
  rw [bitsAt_eq, BitVec.extractLsb'_append_eq_of_le (by omega), BitVec.extractLsb'_append_eq_of_le (by omega),
    BitVec.extractLsb'_append_eq_of_add_le (by omega)]
  exact BitVec.extractLsb'_eq_self

theorem headerWord_tag : bitsAt (headerWord kind n tag subject) 9 8 = tag := by
  unfold headerWord
  rw [bitsAt_eq, BitVec.extractLsb'_append_eq_of_le (by omega), BitVec.extractLsb'_append_eq_of_add_le (by omega)]
  exact BitVec.extractLsb'_eq_self

theorem headerWord_subject : bitsAt (headerWord kind n tag subject) 0 9 = subject := by
  unfold headerWord
  rw [bitsAt_eq, BitVec.extractLsb'_append_eq_of_add_le (by omega)]
  exact BitVec.extractLsb'_eq_self

end

/-- A frame with a kind that is no control code and a body of at most 64 words is read as its message. -/
theorem frameCommand_frameOf {l : LinkId} {kind tag : BitVec 8} {subject : BitVec 9} {body : List Word} (hk : kind ≠
    0)
    (hb : body.length ≤ 64) :
    frameCommand l .up 8 (frameOf kind tag subject body) = some (messageCommand l kind tag subject body) := by
  have length : (BitVec.ofNat 7 body.length).toNat = body.length := by
    rw [BitVec.toNat_ofNat]
    exact Nat.mod_eq_of_lt (by omega)
  have message : isControlWord (headerWord kind (BitVec.ofNat 7 body.length) tag subject) = false := by
    unfold isControlWord
    have := headerWord_kind kind tag (BitVec.ofNat 7 body.length) subject
    rw [bitsAt_eq] at this
    rw [this]
    simpa using hk
  unfold frameCommand frameOf
  dsimp only
  rw [List.cons_append]
  dsimp only
  rw [message]
  simp only [Bool.false_eq_true, if_false]
  unfold upMessage
  dsimp only
  rw [headerWord_length, headerWord_kind, headerWord_tag, headerWord_subject, length, List.dropLast_concat,
    List.getLast?_concat]
  rw [if_neg (by simp [Config.maxBodyWords]; omega), if_neg (by simp), if_neg (by simp), if_neg (by simp)]

/-! ## Fields of a word -/

section
variable {n m lo k : Nat} {x : BitVec n} {y : BitVec m}

/-- Bits of the upper of two parts. -/
theorem bits_high (h : m ≤ lo) : (x ++ y).extractLsb' lo k = x.extractLsb' (lo - m) k :=
  BitVec.extractLsb'_append_eq_of_le h

/-- Bits of the lower of two parts. -/
theorem bits_low (h : lo + k ≤ m) : (x ++ y).extractLsb' lo k = y.extractLsb' lo k :=
  BitVec.extractLsb'_append_eq_of_add_le h

end

theorem flagBit_eq (b : Bool) : (flagBit b == 1) = b := by cases b <;> rfl

theorem present_flag {α : Type} (o : Option α) (v : α) (h : ∀ x ∈ o, v = x) : present (flagBit o.isSome) v = o := by
  cases o with
  | none => rfl
  | some x =>
    rw [h x rfl]
    rfl

theorem present_orZero {n : Nat} (o : Option (BitVec n)) : present (flagBit o.isSome) (orZero o) = o :=
  present_flag o _ fun x hx => by
    rw [Option.mem_def.1 hx]
    rfl

/-- A flag bit in its place. -/
theorem flag_of_bits {b : Bool} {bit : BitVec 1} (h : bit = flagBit b) : (bit == 1) = b := by rw [h, flagBit_eq]

/-- An option in its place, under its presence bit. -/
theorem present_of_bits {n : Nat} (o : Option (BitVec n)) {bit : BitVec 1} {v : BitVec n} (h : bit = flagBit o.isSome)
    (hv : v = orZero o) : present bit v = o := by rw [h, hv, present_orZero]

/-! ## The commands with fields in their bodies -/

theorem messageCommand_lookup (a : AgentId) (tag : BitVec 8) (window : BitVec 16) (rights : BitVec 2) :
    messageCommand (.agent a) 0x01 tag 0 [window ++ 0#14 ++ rights] = .lookup a tag window rights := by
  show Instr.lookup a tag (bitsAt _ 16 16) (bitsAt _ 0 2) = _
  congr 1
  · exact (bits_high (by decide)).trans <| (bits_high (by decide)).trans BitVec.extractLsb'_eq_self
  · exact (bits_low (by decide)).trans BitVec.extractLsb'_eq_self

theorem messageCommand_released (a : AgentId) (window generation : BitVec 16) :
    messageCommand (.agent a) 0x02 0 0 [window ++ generation] = .released a window generation := by
  show Instr.released a (bitsAt _ 16 16) (bitsAt _ 0 16) = _
  congr 1
  · exact (bits_high (by decide)).trans BitVec.extractLsb'_eq_self
  · exact (bits_low (by decide)).trans BitVec.extractLsb'_eq_self

theorem messageCommand_configure (tag : BitVec 8) (frames recallUnits : Word) (scrub : Bool) (fill : BitVec 8)
    (pattern : Word) :
    messageCommand .sup 0x21 tag 0 [frames, recallUnits, flagBit scrub ++ 0#23 ++ fill, pattern] =
      .configure tag frames recallUnits scrub fill pattern := by
  show Instr.configure tag frames recallUnits (bitsAt _ 31 1 == 1) (bitsAt _ 0 8) pattern = _
  congr 1
  · exact flag_of_bits <| (bits_high (by decide)).trans <| (bits_high (by decide)).trans BitVec.extractLsb'_eq_self
  · exact (bits_low (by decide)).trans BitVec.extractLsb'_eq_self

theorem messageCommand_create (tag : BitVec 8) (window : BitVec 16) (cls : BitVec 8) (scrub : Bool)
    (agent context : BitVec 8) (rights : BitVec 16) (base count : Word) :
    messageCommand .sup 0x22 tag 0 [window ++ cls ++ 0#7 ++ flagBit scrub, agent ++ context ++ rights, base, count] =
      .create tag window cls scrub agent context rights base count := by
  show Instr.create tag (bitsAt _ 16 16) (bitsAt _ 8 8) (bitsAt _ 0 1 == 1) (bitsAt _ 24 8) (bitsAt _ 16 8)
    (bitsAt _ 0 16) base count = _
  congr 1
  · exact (bits_high (by decide)).trans <| (bits_high (by decide)).trans <| (bits_high (by decide)).trans
      BitVec.extractLsb'_eq_self
  · exact (bits_high (by decide)).trans <| (bits_high (by decide)).trans <| (bits_low (by decide)).trans
      BitVec.extractLsb'_eq_self
  · exact flag_of_bits <| (bits_low (by decide)).trans BitVec.extractLsb'_eq_self
  · exact (bits_high (by decide)).trans <| (bits_high (by decide)).trans BitVec.extractLsb'_eq_self
  · exact (bits_high (by decide)).trans <| (bits_low (by decide)).trans BitVec.extractLsb'_eq_self
  · exact (bits_low (by decide)).trans BitVec.extractLsb'_eq_self

theorem messageCommand_retire (tag : BitVec 8) (window : BitVec 16) (group : Option (BitVec 8)) :
    messageCommand .sup 0x24 tag 0 [window ++ orZero group ++ 0#7 ++ flagBit group.isSome] =
      .retire tag window group := by
  show Instr.retire tag (bitsAt _ 16 16) (present (bitsAt _ 0 1) (bitsAt _ 8 8)) = _
  congr 1
  · exact (bits_high (by decide)).trans <| (bits_high (by decide)).trans <| (bits_high (by decide)).trans
      BitVec.extractLsb'_eq_self
  · exact present_of_bits group ((bits_low (by decide)).trans BitVec.extractLsb'_eq_self)
      ((bits_high (by decide)).trans <| (bits_high (by decide)).trans <| (bits_low (by decide)).trans
          BitVec.extractLsb'_eq_self)

theorem messageCommand_abandon (tag target : BitVec 8) :
    messageCommand .sup 0x25 tag 0 [0#24 ++ target] = .abandon tag target :=
  congrArg (Instr.abandon tag) ((bits_low (by decide)).trans BitVec.extractLsb'_eq_self)

theorem messageCommand_queryWindow (tag : BitVec 8) (window : BitVec 16) :
    messageCommand .sup 0x2E tag 0 [0#16 ++ window] = .queryWindow tag window :=
  congrArg (Instr.queryWindow tag) ((bits_low (by decide)).trans BitVec.extractLsb'_eq_self)

theorem messageCommand_filled (status : BitVec 8) (id : BitVec 2) (seq : BitVec 16) :
    messageCommand .mem 0x52 0 0 [status ++ 0#6 ++ id ++ seq] = .filled status id seq := by
  show Instr.filled (bitsAt _ 24 8) (bitsAt _ 16 2) (bitsAt _ 0 16) = _
  congr 1
  · exact (bits_high (by decide)).trans <| (bits_high (by decide)).trans <| (bits_high (by decide)).trans
      BitVec.extractLsb'_eq_self
  · exact (bits_high (by decide)).trans <| (bits_low (by decide)).trans BitVec.extractLsb'_eq_self
  · exact (bits_low (by decide)).trans BitVec.extractLsb'_eq_self

/-- The first word of a CHANGE. -/
def changeWord (window : BitVec 16) (group : BitVec 8) (value c r q p : Bool) : Word :=
  window ++ group ++ 0#3 ++ flagBit value ++ flagBit c ++ flagBit r ++ flagBit q ++ flagBit p

section
variable (window : BitVec 16) (group : BitVec 8) (value c r q p : Bool)

theorem changeWord_fields {w : Word} (hw : w = changeWord window group value c r q p) :
    bitsAt w 16 16 = window ∧ bitsAt w 8 8 = group ∧ bitsAt w 4 1 = flagBit value ∧ bitsAt w 3 1 = flagBit c ∧
      bitsAt w 2 1 = flagBit r ∧ bitsAt w 1 1 = flagBit q ∧ bitsAt w 0 1 = flagBit p := by
  subst hw
  refine ⟨?_, ?_, ?_, ?_, ?_, ?_, ?_⟩
  · exact (bits_high (by decide)).trans <| (bits_high (by decide)).trans <| (bits_high (by decide)).trans <|
      (bits_high (by decide)).trans <| (bits_high (by decide)).trans <|
      (bits_high (by decide)).trans <| (bits_high (by decide)).trans BitVec.extractLsb'_eq_self
  · exact (bits_high (by decide)).trans <| (bits_high (by decide)).trans <| (bits_high (by decide)).trans <|
      (bits_high (by decide)).trans <| (bits_high (by decide)).trans <|
      (bits_high (by decide)).trans <| (bits_low (by decide)).trans BitVec.extractLsb'_eq_self
  · exact (bits_high (by decide)).trans <| (bits_high (by decide)).trans <| (bits_high (by decide)).trans <|
      (bits_high (by decide)).trans <| (bits_low (by decide)).trans
      BitVec.extractLsb'_eq_self
  · exact (bits_high (by decide)).trans <| (bits_high (by decide)).trans <| (bits_high (by decide)).trans <|
      (bits_low (by decide)).trans BitVec.extractLsb'_eq_self
  · exact (bits_high (by decide)).trans <| (bits_high (by decide)).trans <| (bits_low (by decide)).trans
      BitVec.extractLsb'_eq_self
  · exact (bits_high (by decide)).trans <| (bits_low (by decide)).trans BitVec.extractLsb'_eq_self
  · exact (bits_low (by decide)).trans BitVec.extractLsb'_eq_self

end

theorem messageCommand_change (tag : BitVec 8) (window : BitVec 16) (group : Option (BitVec 8))
    (rights : Option (BitVec 16)) (run : Option (Word × Word)) (scrub : Option Bool) :
    messageCommand .sup 0x23 tag 0
      [changeWord window (orZero group) (scrub.getD false) scrub.isSome run.isSome rights.isSome group.isSome,
        0#16 ++ orZero rights, (run.map Prod.fst).getD 0, (run.map Prod.snd).getD 0] =
      .change tag window group rights run scrub := by
  have entries : bitsAt (0#16 ++ orZero rights) 0 16 = orZero rights :=
    (bits_low (by decide)).trans BitVec.extractLsb'_eq_self
  have moved : present (flagBit run.isSome) ((run.map Prod.fst).getD 0, (run.map Prod.snd).getD 0) = run :=
    present_flag run _ fun x hx => by
      rw [Option.mem_def.1 hx]
      rfl
  have flag : present (flagBit scrub.isSome) (scrub.getD false) = scrub := present_flag scrub _ fun x hx => by
    rw [Option.mem_def.1 hx]
    rfl
  show Instr.change tag (bitsAt _ 16 16) (present (bitsAt _ 0 1) (bitsAt _ 8 8)) (present (bitsAt _ 1 1) (bitsAt _ 0
      16))
    (present (bitsAt _ 2 1) (_, _)) (present (bitsAt _ 3 1) (bitsAt _ 4 1 == 1)) = _
  obtain ⟨hwindow, hgroup, hvalue, hscrub, hrun, hrights, hnamed⟩ := changeWord_fields window (orZero group)
    (scrub.getD false) scrub.isSome run.isSome rights.isSome group.isSome rfl
  rw [hwindow, hgroup, hvalue, hscrub, hrun, hrights, hnamed, entries, flagBit_eq, present_orZero, present_orZero,
      moved, flag]

/-! ## Messages that are none of a known kind and length -/

section
variable {f : List Word → Option Instr} {body : List Word}

theorem none_of_length_ne_zero (h : ∀ a l, f (a :: l) = none) (hb : body.length ≠ 0) : f body = none :=
  match body with
  | [] => absurd rfl hb
  | a :: l => h a l

theorem none_of_length_ne_one (h0 : f [] = none) (h : ∀ a b l, f (a :: b :: l) = none) (hb : body.length ≠ 1) :
    f body = none :=
  match body with
  | [] => h0
  | [_] => absurd rfl hb
  | a :: b :: l => h a b l

theorem none_of_length_ne_two (h0 : f [] = none) (h1 : ∀ a, f [a] = none) (h : ∀ a b c l, f (a :: b :: c :: l) = none)
    (hb : body.length ≠ 2) : f body = none :=
  match body with
  | [] => h0
  | [a] => h1 a
  | [_, _] => absurd rfl hb
  | a :: b :: c :: l => h a b c l

theorem none_of_length_ne_four (h0 : f [] = none) (h1 : ∀ a, f [a] = none) (h2 : ∀ a b, f [a, b] = none)
    (h3 : ∀ a b c, f [a, b, c] = none) (h : ∀ a b c d e l, f (a :: b :: c :: d :: e :: l) = none)
    (hb : body.length ≠ 4) : f body = none :=
  match body with
  | [] => h0
  | [a] => h1 a
  | [a, b] => h2 a b
  | [a, b, c] => h3 a b c
  | [_, _, _, _] => absurd rfl hb
  | a :: b :: c :: d :: e :: l => h a b c d e l

end

theorem toNat_ne {kind : BitVec 8} {n : Nat} (hn : n < 256) (h : kind ≠ BitVec.ofNat 8 n) : kind.toNat ≠ n := fun hk
    =>
  h (BitVec.eq_of_toNat_eq (by rw [hk, BitVec.toNat_ofNat, Nat.mod_eq_of_lt hn]))

theorem agentCommand_eq_none {a : AgentId} {kind tag : BitVec 8} {subject : BitVec 9} {body : List Word}
    (h : bodyWords (.agent a) kind ≠ some body.length) : agentCommand a kind tag subject body = none := by
  by_cases one : kind = 0x01 ∨ kind = 0x02
  · obtain rfl | rfl := one
    all_goals
      exact none_of_length_ne_one (f := agentCommand a _ tag subject) rfl (fun _ _ _ => rfl)
        fun hl => h (by rw [hl]; rfl)
  by_cases zero : kind = 0x03 ∨ kind = 0x04 ∨ kind = 0x05 ∨ kind = 0x06
  · obtain rfl | rfl | rfl | rfl := zero
    all_goals
      exact none_of_length_ne_zero (f := agentCommand a _ tag subject) (fun _ _ => rfl)
        fun hl => h (by rw [hl]; rfl)
  simp only [not_or] at one zero
  obtain ⟨k01, k02⟩ := one
  obtain ⟨k03, k04, k05, k06⟩ := zero
  have named : ∀ n, kind.toNat = n → n ∉ [1, 2, 3, 4, 5, 6] := by
    simp only [List.mem_cons, List.not_mem_nil, or_false, not_or]
    rintro _ rfl
    exact ⟨toNat_ne (by omega) k01, toNat_ne (by omega) k02, toNat_ne (by omega) k03, toNat_ne (by omega) k04,
      toNat_ne (by omega) k05, toNat_ne (by omega) k06⟩
  unfold agentCommand
  generalize kind.toNat = n at named
  match n with
  | 0 => rfl
  | 1 | 2 | 3 | 4 | 5 | 6 => exact absurd (by simp) (named _ rfl)
  | n + 7 => rfl

theorem supCommand_eq_none {kind tag : BitVec 8} {subject : BitVec 9} {body : List Word}
    (h : bodyWords .sup kind ≠ some body.length) : supCommand kind tag subject body = none := by
  by_cases four : kind = 0x21 ∨ kind = 0x22 ∨ kind = 0x23
  · obtain rfl | rfl | rfl := four
    all_goals
      exact none_of_length_ne_four (f := supCommand _ tag subject) rfl (fun _ => rfl) (fun _ _ => rfl) (fun _ _ _ =>
          rfl) (fun _ _ _ _ _ _ => rfl)
        fun hl => h (by rw [hl]; rfl)
  by_cases one : kind = 0x24 ∨ kind = 0x25 ∨ kind = 0x2E ∨ kind = 0x32
  · obtain rfl | rfl | rfl | rfl := one
    all_goals
      exact none_of_length_ne_one (f := supCommand _ tag subject) rfl (fun _ _ _ => rfl)
        fun hl => h (by rw [hl]; rfl)
  by_cases two : kind = 0x2D ∨ kind = 0x30
  · obtain rfl | rfl := two
    all_goals
      exact none_of_length_ne_two (f := supCommand _ tag subject) rfl (fun _ => rfl) (fun _ _ _ _ => rfl)
        fun hl => h (by rw [hl]; rfl)
  by_cases zero : kind = 0x26 ∨ kind = 0x27 ∨ kind = 0x28 ∨ kind = 0x29 ∨ kind = 0x2A ∨ kind = 0x2B ∨ kind = 0x2C ∨
      kind = 0x2F ∨ kind = 0x31 ∨ kind = 0x33
  · obtain rfl | rfl | rfl | rfl | rfl | rfl | rfl | rfl | rfl | rfl := zero
    all_goals
      exact none_of_length_ne_zero (f := supCommand _ tag subject) (fun _ _ => rfl)
        fun hl => h (by rw [hl]; rfl)
  simp only [not_or] at four one two zero
  obtain ⟨k21, k22, k23⟩ := four
  obtain ⟨k24, k25, k2E, k32⟩ := one
  obtain ⟨k2D, k30⟩ := two
  obtain ⟨k26, k27, k28, k29, k2A, k2B, k2C, k2F, k31, k33⟩ := zero
  have named : ∀ n, kind.toNat = n → n ∉ [33, 34, 35, 36, 37, 38, 39, 40, 41, 42, 43, 44, 45, 46, 47, 48, 49, 50,
      51] := by
    simp only [List.mem_cons, List.not_mem_nil, or_false, not_or]
    rintro _ rfl
    exact ⟨toNat_ne (by omega) k21, toNat_ne (by omega) k22, toNat_ne (by omega) k23, toNat_ne (by omega) k24,
        toNat_ne (by omega) k25, toNat_ne (by omega) k26, toNat_ne (by omega) k27, toNat_ne (by omega) k28,
        toNat_ne (by omega) k29, toNat_ne (by omega) k2A, toNat_ne (by omega) k2B, toNat_ne (by omega) k2C,
        toNat_ne (by omega) k2D, toNat_ne (by omega) k2E, toNat_ne (by omega) k2F, toNat_ne (by omega) k30,
        toNat_ne (by omega) k31, toNat_ne (by omega) k32, toNat_ne (by omega) k33⟩
  unfold supCommand
  generalize kind.toNat = n at named
  match n with
  | 0 | 1 | 2 | 3 | 4 | 5 | 6 | 7 | 8 | 9 | 10 | 11 | 12 | 13 | 14 | 15 | 16 | 17 | 18 | 19 | 20 | 21 | 22 | 23 | 24
      | 25 | 26 | 27 | 28 | 29 | 30 | 31 | 32 => rfl
  | 33 | 34 | 35 | 36 | 37 | 38 | 39 | 40 | 41 | 42 | 43 | 44 | 45 | 46 | 47 | 48 | 49 | 50 | 51 =>
    exact absurd (by simp) (named _ rfl)
  | n + 52 => rfl

theorem memCommand_eq_none {kind : BitVec 8} {body : List Word} (h : bodyWords .mem kind ≠ some body.length) :
    memCommand kind body = none := by
  by_cases one : kind = 0x52
  · subst one
    exact none_of_length_ne_one (f := memCommand _) rfl (fun _ _ _ => rfl) fun hl => h (by rw [hl]; rfl)
  have named : kind.toNat ≠ 82 := toNat_ne (by omega) one
  unfold memCommand
  split
  · exact absurd ‹_› named
  · rfl

theorem messageCommand_unknown {l : LinkId} {kind tag : BitVec 8} {subject : BitVec 9} {body : List Word}
    (h : bodyWords l kind ≠ some body.length) :
    messageCommand l kind tag subject body = .unknownKindMessage l kind tag body := by
  unfold messageCommand
  cases l with
  | agent a => dsimp only; rw [agentCommand_eq_none h]; rfl
  | sup => dsimp only; rw [supCommand_eq_none h]; rfl
  | mem => dsimp only; rw [memCommand_eq_none h]; rfl


/-- The message of a well-formed command has a kind, a body that fits, and is read as the command. -/
theorem messageCommand_commandMessage {c : Instr} {l : LinkId} {kind tag : BitVec 8} {subject : BitVec 9} {body :
    List Word}
    (wf : c.wellFormed = true) (h : commandMessage c = some (l, kind, tag, subject, body)) :
    kind ≠ 0 ∧ body.length ≤ 64 ∧ messageCommand l kind tag subject body = c := by
  cases c with
  | unknownKindMessage l kind tag body =>
    cases h
    unfold Instr.wellFormed at wf
    simp only [Bool.and_eq_true, bne_iff_ne, decide_eq_true_eq] at wf
    obtain ⟨⟨some, fits⟩, unknown⟩ := wf
    exact ⟨some, fits, messageCommand_unknown unknown⟩
  | lookup =>
    cases h
    exact ⟨by simp, by simp, messageCommand_lookup ..⟩
  | released =>
    cases h
    exact ⟨by simp, by simp, messageCommand_released ..⟩
  | configure =>
    cases h
    exact ⟨by simp, by simp, messageCommand_configure ..⟩
  | create =>
    cases h
    exact ⟨by simp, by simp, messageCommand_create ..⟩
  | change =>
    cases h
    exact ⟨by simp, by simp, messageCommand_change ..⟩
  | retire =>
    cases h
    exact ⟨by simp, by simp, messageCommand_retire ..⟩
  | abandon =>
    cases h
    exact ⟨by simp, by simp, messageCommand_abandon ..⟩
  | queryWindow =>
    cases h
    exact ⟨by simp, by simp, messageCommand_queryWindow ..⟩
  | filled =>
    cases h
    exact ⟨by simp, by simp, messageCommand_filled ..⟩
  | returnSlot | flush | switch | join | groupOpen | groupCommit | groupAbandon | admitAgent | fence | suspendScrub |
      resumeScrub | rescrub | queryAgent | queryFrames | queryScrub | noticeCredit | restart =>
    cases h
    exact ⟨by simp, by simp, rfl⟩
  | recallDeadlineExpiry | fillDeadlineExpiry | resetN | carrierDetected | parameterWord | carrierLost | linkError |
      creditReturnWord | messageInTraining | resetNRelease | otherControlCodeWord => nomatch h

/-- Settles O4, through the header word, the fields of each body, and the kinds a link does not know. -/
theorem framesDecodeToTheirCommands : Obligations.FramesDecodeToTheirCommands := by
  unfold Obligations.FramesDecodeToTheirCommands
  intro c l ws wf framed
  unfold commandFrame at framed
  obtain ⟨⟨l, kind, tag, subject, body⟩, message, rfl, rfl⟩ := Option.map_eq_some_iff.1 framed
  obtain ⟨some, fits, read⟩ := messageCommand_commandMessage wf message
  rw [frameCommand_frameOf some fits, read]

end Sys2Proof
end

section
/-!
PROOF of O29: a REFUSED is the whole answer. Each request either sends its REFUSED and does nothing else, or acts; what
an action sends holds no REFUSED.
-/

namespace Sys2Proof.Machine

variable {s t u : State} {a : AgentId}

/-! ## What the actions send -/

namespace SpeaksOn

theorem fillEnds (h : SpeaksOn s t) (k : Fin 4) (f : Fill) (ok : Bool) : SpeaksOn s (t.fillEnds k f ok) := by
  unfold State.fillEnds
  refine afterFill ?_
  split
  · exact h.of_eq rfl
  · split
    · split
      · unfold State.countBlock
        dsimp only
        split <;> exact h.of_eq rfl
      · exact h.of_eq rfl
    · exact h.of_eq rfl

theorem loseMem (h : SpeaksOn s t) : SpeaksOn s t.loseMem := by
  unfold State.loseMem
  refine afterFill ?_
  split <;> exact h.of_eq rfl

theorem resume (h : SpeaksOn s t) : SpeaksOn s t.resume := by
  unfold State.resume
  split
  · exact h.of_eq rfl
  · refine drive (startNext ?_)
    exact h.of_eq rfl

theorem configureWith (h : SpeaksOn s t) (c : Configuration) : SpeaksOn s (t.configureWith c) := by
  unfold State.configureWith
  dsimp only
  split
  · refine enqueue ?_ ..
    exact h.of_eq rfl
  · exact h.of_eq rfl

theorem rescrubRun (h : SpeaksOn s t) (r : Run) (i : Fin 16) : SpeaksOn s (t.rescrubRun r i) := by
  refine enqueue ?_ ..
  exact h.of_eq rfl

theorem acceptParts (h : SpeaksOn s t) (tag : BitVec 8) (q : ChangeRequest) (e : Fin 16) (slot : Option (Fin 16)) :
    SpeaksOn s (t.acceptParts tag q e slot) := by
  unfold State.acceptParts
  extract_lets x s1 r s2
  have h2 : SpeaksOn s s2 := by
    unfold s2 State.reserveRun
    split <;> exact h.of_eq rfl
  split
  · exact h2
  · exact h2.of_eq rfl

theorem joinGroup (h : SpeaksOn s t) (g : Fin 4) (e : Fin 16) (tag : BitVec 8) : SpeaksOn s (t.joinGroup g e tag) := by
  refine accept ?_ _
  exact h.of_eq rfl

theorem startRecall (h : SpeaksOn s t) (e : Fin 16) (x : Entry) : SpeaksOn s (t.startRecall e x) := by
  refine foldl_keeps (P := SpeaksOn s) (fun _ b hu => hu.sendRecall x.window b) _ _ ?_
  exact h.of_eq rfl

theorem startMember (h : SpeaksOn s t) (e : Fin 16) : SpeaksOn s (startMember e t) := by
  unfold Machine.startMember
  split
  · exact h
  · exact h.startRecall ..

theorem applyEntry (h : SpeaksOn s t) (e : Fin 16) : SpeaksOn s (applyEntry cascade none e t) :=
  applyEntry_keeps (SpeaksOn.cascadeKeeps s none) (fun e _ h => h.cascadeDepth none _ e) e t h

theorem applyGroup (h : SpeaksOn s t) (g : Fin 4) : SpeaksOn s (applyGroup cascade none g t) :=
  applyGroup_keeps (SpeaksOn.cascadeKeeps s none) (fun e _ h => h.cascadeDepth none _ e) g t h

theorem startStandalone (h : SpeaksOn s t) (e : Fin 16) : SpeaksOn s (startStandalone e t) := by
  unfold Machine.startStandalone
  split
  · exact h
  · split
    · exact h.applyEntry e
    · exact (h.startRecall ..).accept _

theorem commitGroup (h : SpeaksOn s t) (tag : BitVec 8) (g : Fin 4) : SpeaksOn s (commitGroup tag g t) := by
  unfold Machine.commitGroup
  extract_lets members s1 s2
  have h1 : SpeaksOn s s1 := foldl_keeps (P := SpeaksOn s) (fun _ e hu => hu.startMember e) _ _ h
  have h2 : SpeaksOn s s2 := h1.of_eq rfl
  split
  · exact h2.applyGroup g
  · exact h2.accept tag

theorem abandonMember (h : SpeaksOn s t) (g : Fin 4) (e : Fin 16) : SpeaksOn s (abandonMember g e t) := by
  unfold Machine.abandonMember
  split
  · exact h
  · exact retake (fun e _ h => h.cascadeDepth _ _ e) (h.abandonParts ..) _

theorem depart (h : SpeaksOn s t) (b : AgentId) (st : PortState) (r : PortReason) (fenced posted : Bool) :
    SpeaksOn s (t.depart b st r fenced posted) :=
  (h.departParts ..).endWaits t

theorem losePort (h : SpeaksOn s t) (b : AgentId) : SpeaksOn s (t.losePort b) := by
  unfold State.losePort
  split
  · exact h
  · exact h.depart ..
  all_goals
    refine postPort ?_ _
    exact h.of_eq rfl

theorem comeUp (h : SpeaksOn s t) (l : LinkId) : SpeaksOn s (t.comeUp l) := by
  cases l with
  | agent b => exact h.of_eq rfl
  | sup => exact h.of_eq rfl
  | mem =>
    refine drive ?_
    exact h.of_eq rfl

theorem leaveUp (h : SpeaksOn s t) (l : LinkId) : SpeaksOn s (t.leaveUp l) := by
  cases l with
  | agent b => exact h.losePort b
  | sup => exact h.of_eq rfl
  | mem => exact h.loseMem

theorem takeLinkError (h : SpeaksOn s t) (l : LinkId) : SpeaksOn s (t.takeLinkError l) := by
  refine leaveUp ?_ l
  exact h.of_out rfl rfl

theorem takeExpiry (h : SpeaksOn s t) (e : Fin 16) (x : Entry) : SpeaksOn s (takeExpiry e x t) := by
  refine endWaits t (foldl_keeps (P := SpeaksOn s) (fun _ b hu => State.putOutside_speaksOn hu b) _ _ ?_)
  exact h.of_eq rfl

/-! ## The requests of an agent -/

theorem takeLookup (h : SpeaksOn s t) (b : AgentId) (n : Fin 4) (w : Nat) (r : Rights) :
    SpeaksOn s (takeLookup b n w r t) := by
  unfold Machine.takeLookup
  split
  · split
    · exact h.of_eq rfl
    · exact h.sendAgent ..
  · unfold answerLookup
    split
    · exact h.sendAgent ..
    · split
      · exact h.sendAgent ..
      · exact grant (fun e _ h => h.cascadeDepth none _ e) h ..

theorem takeReleased (h : SpeaksOn s t) (b : AgentId) (w g : BitVec 16) : SpeaksOn s (takeReleased b w g t) := by
  have hf : SpeaksOn s (t.forgetRecall b w.toNat) := h.of_eq rfl
  unfold Machine.takeReleased
  dsimp only
  split
  · exact hf
  · exact (hf.removeSlot ..).endWaits t

theorem takeReturn (h : SpeaksOn s t) (b : AgentId) (i : Fin 64) : SpeaksOn s (takeReturn b i t) :=
  ((h.removeSlot ..).sendAgent ..).endWaits t

theorem setPointer (h : SpeaksOn s t) (b : AgentId) (p : Fin 64) : SpeaksOn s (t.setPointer b p) := h.of_eq rfl

theorem setPort (h : SpeaksOn s t) (b : AgentId) (p : Port) : SpeaksOn s (t.setPort b p) := h.of_eq rfl

theorem takeFlush (h : SpeaksOn s t) (b : AgentId) : SpeaksOn s (takeFlush b t) := by
  refine endWaits t (sendAgent ?_ ..)
  exact setPointer (h.removeWhere ..) ..

theorem takeSwitch (h : SpeaksOn s t) (b : AgentId) (c : Fin 16) : SpeaksOn s (takeSwitch b c t) := by
  refine endWaits t (sendAgent ?_ ..)
  exact setPort (h.removeWhere ..) ..

theorem takeJoin (h : SpeaksOn s t) (b : AgentId) : SpeaksOn s (takeJoin b t) := by
  unfold Machine.takeJoin
  split
  · exact h
  · exact h
  · refine postPort ?_ _
    exact h.of_eq rfl
  · exact h.depart ..

theorem actLookup (h : SpeaksOn s t) (b : AgentId) (tag : BitVec 8) (window : BitVec 16) (rights : BitVec 2) :
    SpeaksOn s (actLookup b tag window rights t) := by
  unfold Machine.actLookup lookupChecks
  split
  · exact h.sendAgent ..
  · split
    · exact h.sendAgent ..
    · split
      · exact h.sendAgent ..
      · exact h.takeLookup ..

theorem actReleased (h : SpeaksOn s t) (b : AgentId) (w g : BitVec 16) : SpeaksOn s (actReleased b w g t) := by
  unfold Machine.actReleased
  split
  · exact h.takeReleased ..
  · exact h

theorem actReturn (h : SpeaksOn s t) (b : AgentId) (tag : BitVec 8) (slot : BitVec 9) :
    SpeaksOn s (actReturn b tag slot t) := by
  unfold Machine.actReturn
  split
  · exact h.sendAgent ..
  · split
    · exact h.sendAgent ..
    · exact h.takeReturn ..

theorem actFlush (h : SpeaksOn s t) (b : AgentId) (tag : BitVec 8) : SpeaksOn s (actFlush b tag t) := by
  unfold Machine.actFlush
  split
  · exact h.sendAgent ..
  · exact h.takeFlush b

theorem actSwitch (h : SpeaksOn s t) (b : AgentId) (tag : BitVec 8) (context : BitVec 9) :
    SpeaksOn s (actSwitch b tag context t) := by
  unfold Machine.actSwitch
  split
  · exact h.sendAgent ..
  · split
    · exact h.sendAgent ..
    · exact h.takeSwitch ..

theorem takeFilled (h : SpeaksOn s t) (status : BitVec 8) (id : BitVec 2) (seq : BitVec 16) :
    SpeaksOn s (takeFilled status id seq t) := by
  unfold Machine.takeFilled
  split
  · split
    · exact h.fillEnds ..
    · exact h
  · exact h

theorem takeRestart (h : SpeaksOn s t) (tag : BitVec 8) : SpeaksOn s (actRestart tag t) := by
  refine sendPlainDone (foldl_keeps (P := SpeaksOn s) (fun u b hu => ?_) _ _ ?_) _
  · split
    · exact hu
    · exact hu.sendAgent ..
  · exact h.of_eq rfl

end SpeaksOn

/-! ## A request is refused, or it acts -/

/-- The request of a kind and a tag is refused without effect, or it acts and sends no REFUSED. -/
def Answers (kind tag : BitVec 8) (s t : State) : Prop :=
  (∃ r, t = s.refuseSup kind tag r) ∨ SpeaksOn s t

namespace Answers

variable {kind tag : BitVec 8}

theorem refused (r : Reason) : Answers kind tag s (s.refuseSup kind tag r) := .inl ⟨r, rfl⟩

theorem acts (h : SpeaksOn s t) : Answers kind tag s t := .inr h

theorem request {exempt : Bool} {f : State → State} (h : Answers kind tag s (f s)) :
    Answers kind tag s (Machine.request kind tag exempt f s) := by
  unfold Machine.request
  split
  · exact refused _
  · split
    · exact refused _
    · exact h

theorem withAgent {n : BitVec 9} {f : AgentId → State → State} (h : ∀ a, Answers kind tag s (f a s)) :
    Answers kind tag s (Machine.withAgent kind tag n f s) := by
  unfold Machine.withAgent
  split
  · exact refused _
  · exact h _

theorem withGroup {n : BitVec 9} {f : Fin 4 → State → State} (h : ∀ g, Answers kind tag s (f g s)) :
    Answers kind tag s (Machine.withGroup kind tag n f s) := by
  unfold Machine.withGroup
  split
  · exact refused _
  · exact h _

end Answers

theorem takeConfigure_answers (tag : BitVec 8) (c : Option Configuration) (s : State) :
    Answers 0x21 tag s (takeConfigure tag c s) := by
  unfold takeConfigure
  split
  · exact .refused _
  · split
    · exact .refused _
    · exact .acts (((SpeaksOn.refl s).configureWith _).sendSup rfl)

theorem takeChange_answers (kind tag : BitVec 8) (q : Except Reason ChangeRequest) (s : State) :
    Answers kind tag s (takeChange kind tag q s) := by
  unfold takeChange
  split
  · exact .refused _
  · split
    · exact .refused _
    · dsimp only
      split
      · exact .acts (((SpeaksOn.refl s).acceptParts ..).joinGroup ..)
      · exact .acts (((SpeaksOn.refl s).acceptParts ..).startStandalone _)

theorem takeAbandon_answers (tag target : BitVec 8) (s : State) : Answers 0x25 tag s (takeAbandon tag target s) := by
  unfold takeAbandon
  split
  · exact .refused _
  · split
    · exact .acts (.refl s)
    · split
      · exact .refused _
      · exact .acts (.retake (fun e _ h => h.cascadeDepth none _ e)
          (((SpeaksOn.refl s).abandonParts ..).sendSup rfl) _)

theorem takeGroupOpen_answers (tag : BitVec 8) (g : Fin 4) (s : State) :
    Answers 0x26 tag s (takeGroupOpen tag g s) := by
  unfold takeGroupOpen
  split
  · refine .acts (.sendPlainDone ?_ _)
    exact (SpeaksOn.refl s).of_eq rfl
  · exact .refused _

theorem takeGroupCommit_answers (tag : BitVec 8) (g : Fin 4) (s : State) :
    Answers 0x27 tag s (takeGroupCommit tag g s) := by
  unfold takeGroupCommit
  split
  · exact .refused _
  · split
    · refine .acts (.sendPlainDone ?_ _)
      exact (SpeaksOn.refl s).of_eq rfl
    · exact .acts ((SpeaksOn.refl s).commitGroup ..)

theorem takeGroupAbandon_answers (tag : BitVec 8) (g : Fin 4) (s : State) :
    Answers 0x28 tag s (takeGroupAbandon tag g s) := by
  unfold takeGroupAbandon
  split
  · exact .refused _
  · exact .acts (((foldl_keeps (P := SpeaksOn s) (fun _ e h => h.abandonMember g e) _ _ (.refl s)).closeGroup
      ..).sendPlainDone _)

theorem takeAdmit_answers (tag : BitVec 8) (a : AgentId) (s : State) : Answers 0x29 tag s (takeAdmit tag a s) := by
  unfold takeAdmit
  split
  · refine .acts (.sendPlainDone (.sendAgent ?_ ..) _)
    exact (SpeaksOn.refl s).of_eq rfl
  · exact .refused _

theorem takeFence_answers (tag : BitVec 8) (a : AgentId) (s : State) : Answers 0x2A tag s (takeFence tag a s) := by
  refine .acts (.sendPlainDone ?_ _)
  split
  · exact (SpeaksOn.refl s).depart ..
  · refine .sendAgent ?_ ..
    exact (SpeaksOn.refl s).of_eq rfl
  all_goals exact .refl s

theorem takeSuspend_answers (tag : BitVec 8) (s : State) : Answers 0x2B tag s (takeSuspend tag s) := by
  have suspended : SpeaksOn s (s.setEngine .suspended) := (SpeaksOn.refl s).of_eq rfl
  unfold takeSuspend
  split
  · split
    · exact .acts (suspended.sendPlainDone _)
    · exact .acts ((SpeaksOn.refl s).of_eq rfl)
  · exact .acts (suspended.sendPlainDone _)
  · exact .refused _
  · exact .acts ((SpeaksOn.refl s).sendPlainDone _)

theorem takeResume_answers (tag : BitVec 8) (s : State) : Answers 0x2C tag s (takeResume tag s) := by
  unfold takeResume
  split
  · exact .acts ((SpeaksOn.refl s).resume.sendPlainDone _)
  · exact .acts (((SpeaksOn.refl s).finish ..).resume.sendPlainDone _)
  all_goals exact .acts ((SpeaksOn.refl s).sendPlainDone _)

theorem takeRescrub_answers (tag : BitVec 8) (base count : Word) (s : State) :
    Answers 0x2D tag s (takeRescrub tag base count s) := by
  unfold takeRescrub
  split
  · exact .refused _
  · split
    · exact .refused _
    · split
      · exact .refused _
      · exact .acts (((SpeaksOn.refl s).rescrubRun ..).sendSup rfl)

theorem takeNoticeCredit_answers (tag : BitVec 8) (n : Word) (s : State) :
    Answers 0x32 tag s (takeNoticeCredit tag n s) := by
  unfold takeNoticeCredit
  split
  · exact .refused _
  · refine .acts (.deliver (.sendSup ?_ rfl) _)
    exact (SpeaksOn.refl s).of_eq rfl

/-- A message of S is refused with its own kind and tag, or it acts; any other message sends no REFUSED. -/
theorem act_answers {m : Instr} {l : LinkId} {kind tag : BitVec 8} {subject : BitVec 9} {body : List Word}
    (hm : commandMessage m = some (l, kind, tag, subject, body)) (s : State) :
    (l = .sup ∧ Answers kind tag s (act m s)) ∨ SpeaksOn s (act m s) := by
  cases m with
  | lookup => exact .inr ((SpeaksOn.refl s).actLookup ..)
  | released => exact .inr ((SpeaksOn.refl s).actReleased ..)
  | returnSlot => exact .inr ((SpeaksOn.refl s).actReturn ..)
  | flush => exact .inr ((SpeaksOn.refl s).actFlush ..)
  | switch => exact .inr ((SpeaksOn.refl s).actSwitch ..)
  | join a => exact .inr ((SpeaksOn.refl s).takeJoin a)
  | filled status id seq => exact .inr ((SpeaksOn.refl s).takeFilled ..)
  | unknownKindMessage l kind tag body =>
    cases hm
    cases l with
    | agent a => exact .inr ((SpeaksOn.refl s).sendAgent ..)
    | sup => exact .inl ⟨rfl, .refused _⟩
    | mem => exact .inr (.refl s)
  | configure =>
    cases hm
    refine .inl ⟨rfl, ?_⟩
    unfold act actConfigure
    exact .request (takeConfigure_answers ..)
  | create =>
    cases hm
    refine .inl ⟨rfl, ?_⟩
    unfold act actCreate
    refine .request ?_
    split
    · exact .refused _
    · refine .acts (.sendSup ?_ rfl)
      exact (SpeaksOn.refl s).of_eq rfl
  | change =>
    cases hm
    exact .inl ⟨rfl, .request (takeChange_answers ..)⟩
  | retire =>
    cases hm
    exact .inl ⟨rfl, .request (takeChange_answers ..)⟩
  | abandon =>
    cases hm
    exact .inl ⟨rfl, .request (takeAbandon_answers ..)⟩
  | groupOpen =>
    cases hm
    exact .inl ⟨rfl, .request (.withGroup fun g => takeGroupOpen_answers _ g s)⟩
  | groupCommit =>
    cases hm
    exact .inl ⟨rfl, .request (.withGroup fun g => takeGroupCommit_answers _ g s)⟩
  | groupAbandon =>
    cases hm
    exact .inl ⟨rfl, .request (.withGroup fun g => takeGroupAbandon_answers _ g s)⟩
  | admitAgent =>
    cases hm
    exact .inl ⟨rfl, .request (.withAgent fun a => takeAdmit_answers _ a s)⟩
  | fence =>
    cases hm
    exact .inl ⟨rfl, .request (.withAgent fun a => takeFence_answers _ a s)⟩
  | suspendScrub =>
    cases hm
    exact .inl ⟨rfl, .request (takeSuspend_answers ..)⟩
  | resumeScrub =>
    cases hm
    exact .inl ⟨rfl, .request (takeResume_answers ..)⟩
  | rescrub =>
    cases hm
    exact .inl ⟨rfl, .request (takeRescrub_answers ..)⟩
  | queryWindow =>
    cases hm
    refine .inl ⟨rfl, ?_⟩
    unfold act actQueryWindow
    refine .request ?_
    split
    · exact .refused _
    · exact .acts ((SpeaksOn.refl s).sendSup rfl)
  | queryAgent =>
    cases hm
    refine .inl ⟨rfl, ?_⟩
    unfold act actQueryAgent
    exact .request (.withAgent fun _ => .acts ((SpeaksOn.refl s).sendSup rfl))
  | queryFrames =>
    cases hm
    refine .inl ⟨rfl, ?_⟩
    unfold act actQueryFrames
    refine .request ?_
    split
    · exact .refused _
    · exact .acts ((SpeaksOn.refl s).sendSup rfl)
  | queryScrub =>
    cases hm
    refine .inl ⟨rfl, ?_⟩
    unfold act actQueryScrub
    exact .request (.acts (((SpeaksOn.refl s).sendSup rfl).sendSup rfl))
  | noticeCredit =>
    cases hm
    refine .inl ⟨rfl, ?_⟩
    unfold act actNoticeCredit
    exact .request (takeNoticeCredit_answers ..)
  | restart => exact .inr ((SpeaksOn.refl s).takeRestart _)
  | _ => cases hm

/-- A message that is not one of S sends no REFUSED. -/
theorem act_speaksOn {m : Instr} {l : LinkId} (hm : (commandMessage m).map Prod.fst = some l) (hl : l ≠ .sup)
    (s : State) : SpeaksOn s (act m s) := by
  obtain ⟨⟨_, kind, tag, subject, body⟩, message, rfl⟩ := Option.map_eq_some_iff.1 hm
  exact (act_answers message s).resolve_left fun h => hl h.1

/-! ## Commands that are not messages of S -/

theorem takeOldest_speaksOn {l : LinkId} (own : ∀ m ∈ (s.link l).buffer, (commandMessage m).map Prod.fst = some l)
    (hl : l ≠ .sup) (h : SpeaksOn u s) : SpeaksOn u (takeOldest l s) := by
  unfold takeOldest
  split
  · exact h
  · rename_i m rest hb
    have returned : SpeaksOn u (s.returnCredit l rest) := h.of_out rfl rfl
    refine returned.trans (act_speaksOn (own m ?_) hl _)
    rw [hb]
    exact .head rest

theorem receiveMessage_speaksOn (h : PortLaw s) {l : LinkId} (hl : l ≠ .sup) {m : Instr}
    (hm : (commandMessage m).map Prod.fst = some l) : SpeaksOn s.begin (receiveMessage l m s) := by
  obtain ⟨-, hr⟩ | ⟨-, -, hr⟩ | ⟨-, -, hr | hr⟩ := receiveMessage_cases l m s <;> rw [hr]
  · exact .refl _
  · exact (SpeaksOn.refl _).takeLinkError l
  · exact (SpeaksOn.refl _).of_eq rfl
  · refine takeOldest_speaksOn (fun n hn => ?_) hl ((SpeaksOn.refl _).of_eq rfl)
    have hn : n ∈ (s.link l).buffer ∨ n = m := by simpa [State.bufferMessage] using hn
    obtain hn | rfl := hn
    · exact h.own l n hn
    · exact hm

/-- A command that is no message sends no REFUSED. -/
theorem exec_speaksOn {c : Instr} (hc : commandMessage c = none) (h : exec c s = .next t) : SpeaksOn s.begin t := by
  have idle : SpeaksOn s.begin s.begin := .refl _
  cases c with
  | recallDeadlineExpiry e =>
    cases h
    split
    · exact idle
    · split
      · exact idle.takeExpiry ..
      · exact idle
  | fillDeadlineExpiry id =>
    cases h
    split
    · exact idle.fillEnds ..
    · exact idle
  | resetN =>
    cases h
    exact idle.of_eq rfl
  | carrierDetected l =>
    cases h
    split
    · exact idle.of_out rfl rfl
    · exact idle
  | parameterWord l crcOk role linkNumber credits =>
    cases h
    split
    · exact idle
    · split
      · exact idle.comeUp l
      · exact idle.of_out rfl rfl
    · exact idle.takeLinkError l
  | carrierLost l =>
    cases h
    split
    · exact idle
    · exact idle.of_eq rfl
    · refine SpeaksOn.leaveUp ?_ l
      exact idle.of_eq rfl
  | linkError l cause =>
    cases h
    split
    · exact idle.takeLinkError l
    · exact idle
  | creditReturnWord | messageInTraining | otherControlCodeWord =>
    cases h
    exact idle
  | resetNRelease =>
    cases h
    exact idle.of_eq rfl
  | _ => cases hc

/-- Settles O29: a request on S answers by `act_answers`, and no other command sends a REFUSED. -/
theorem refusalsChangeNothing : Obligations.RefusalsChangeNothing := by
  unfold Obligations.RefusalsChangeNothing
  intro c k tag r s t hs law hst refused
  have silent (speaks : SpeaksOn s.begin t) : False := nomatch speaks.sup _ refused rfl
  cases hc : commandMessage c with
  | none => exact (silent (exec_speaksOn hc hst)).elim
  | some m =>
    obtain ⟨l, kind, tag', subject, body⟩ := m
    have hl : (commandMessage c).map Prod.fst = some l := by rw [hc]; rfl
    by_cases sup : l = .sup
    · subst sup
      rw [exec_sup hl hs] at hst
      cases hst
      have quiet (speaks : SpeaksOn (s.setOut (.onSup [])) (act c (s.setOut (.onSup [])))) : False :=
        nomatch speaks.sup _ refused rfl
      obtain ⟨e, he⟩ := (((act_answers hc _).resolve_right quiet).2).resolve_right quiet
      rw [he, refuseSup_eq hs.1] at refused ⊢
      obtain ⟨rfl, rfl, rfl⟩ : k = kind ∧ tag = tag' ∧ r = e := by
        simpa [Outputs.onSup] using refused
      exact ⟨rfl, _, _, rfl⟩
    · rw [exec_message hl] at hst
      cases hst
      have own : PortLaw s := law.resolve_right fun h => sup (Option.some.inj (hl.symm.trans h))
      exact (silent (receiveMessage_speaksOn own sup hl)).elim

end Sys2Proof.Machine
end

section
/-!
SUPPORT of O56 and O57. The laws of changes within an action: entries may have ended their waiting and be due to end, a
group may be half applied or half abandoned, an accepted entry may not have started and a group may be starting. The
cascade turns due entries into ends, one after another, and never runs out of depth: each nested end belongs to an
entry that was still waiting.
-/

namespace Sys2Proof.Machine

variable {s t u : State}

/-- What of an action is under way: groups that are being applied, the group that is being abandoned, an entry accepted
and not started, a group whose members' recalls are starting. -/
structure Phase where
  applying : Fin 4 → Prop
  abandoning : Option (Fin 4)
  fresh : Option (Fin 16)
  starting : Option (Fin 4)

/-- Nothing is under way. -/
def Phase.rest : Phase := ⟨fun _ => False, none, none, none⟩

/-- The group's member list may name entries that have ended. -/
def Phase.Busy (p : Phase) (g : Fin 4) : Prop := p.applying g ∨ p.abandoning = some g

/-- The entry is a member of the group that is being abandoned: no removal is a release for it (R97). -/
def Phase.Spared (p : Phase) (x : Entry) : Prop := ∃ g, x.group = some g ∧ p.abandoning = some g

/-- The laws of changes, groups, holdings and parked lookups within an action. -/
structure ChangeLaw (p : Phase) (s : State) : Prop where
  pending : PendingLaw s
  holders : HolderLaw s
  rights : RightsLaw s
  live : ∀ e x, s.entry e = some x → x.window < 4096 ∧ (s.window x.window).live ≠ none
  alone : ∀ e x, s.entry e = some x → p.fresh ≠ some e → x.group = none → x.state = .recalling
  member : ∀ e x g, s.entry e = some x → x.group = some g → e ∈ (s.group g).members
  listed : ∀ e x g, e ∈ (s.group g).members → s.entry e = some x → x.group = some g
  full : ∀ g, ¬p.Busy g → ∀ e ∈ (s.group g).members, s.entry e ≠ none
  limit : ∀ g, (s.group g).members.length ≤ 8 ∧ (s.group g).members.Nodup
  free : ∀ g, (s.group g).state = .free → (s.group g).members = []
  opened : ∀ g, p.starting ≠ some g → (s.group g).state = .opened →
    ∀ e x, s.entry e = some x → x.group = some g → x.state = .held
  recalling : ∀ g t, (s.group g).state = .recalling t →
    ∀ e x, s.entry e = some x → x.group = some g → x.state ≠ .held
  unready : ∀ g t, ¬p.Busy g → (s.group g).state = .recalling t →
    ∃ e ∈ (s.group g).members, ∃ x, s.entry e = some x ∧ x.state ≠ .ready
  ready : ∀ g, p.applying g → ∀ e x, s.entry e = some x → x.group = some g → x.state = .ready
  holds : ∀ e x (a : AgentId), s.entry e = some x → ¬p.Spared x → x.awaited[a] = true →
    ∃ i h, s.held a i = some h ∧ h.window = x.window
  covered : ∀ e x l (a : AgentId) i h, s.entry e = some x → x.state ≠ .held → (s.window x.window).live = some l →
    s.held a i = some h → h.window = x.window → x.kind.hits l a h.rights → x.awaited[a] = true
  waits : ∀ e x (a : AgentId), s.entry e = some x → x.awaited[a] = true → x.state = .recalling
  deadline : ∀ e x, s.entry e = some x → (x.deadline = .stopped ↔ x.state = .held)
  parked : ∀ q ∈ s.park, q.window < 4096 ∧ q.rights ≠ .none ∧ s.condition q.window = .inRecall

/-- The entry has ended its waiting and is still to end. -/
def State.Due (s : State) (e : Fin 16) : Prop :=
  ∃ x, s.entry e = some x ∧ x.state = .recalling ∧ ∀ a : AgentId, x.awaited[a] = false

/-- Nothing is due to end. -/
def State.Settled (s : State) : Prop := ∀ e, ¬s.Due e

/-- Each awaited agent and each agent with a parked lookup is ADMITTED. -/
structure AdmittedLaw (s : State) : Prop where
  awaited : ∀ e x (a : AgentId), s.entry e = some x → x.awaited[a] = true → (s.port a).state = .admitted
  parked : ∀ q ∈ s.park, (s.port q.agent).state = .admitted

/-! ## Between actions -/

theorem State.condition_eq_inRecall {w : Nat} :
    s.condition w = .inRecall ↔ ∃ e x, (s.window w).pending = some e ∧ s.entry e = some x ∧ x.state ≠ .held := by
  unfold State.condition Entry.inRound
  grind

theorem DeviceLaw.changeLaw (h : DeviceLaw s) : ChangeLaw .rest s where
  pending := h.pending
  holders := h.holders
  rights := h.rights
  live := h.groups.live
  alone e x hx _ := h.groups.alone e x hx
  member e x g hx hg := (h.groups.member e g).2 ⟨x, hx, hg⟩
  listed e x g he hx := by
    obtain ⟨y, hy, hg⟩ := (h.groups.member e g).1 he
    cases hx.symm.trans hy
    exact hg
  full g _ e he hn := by
    obtain ⟨y, hy, -⟩ := (h.groups.member e g).1 he
    cases hn.symm.trans hy
  limit := h.groups.limit
  free := h.groups.free
  opened g _ hs e x hx hg := h.groups.opened g hs e ((h.groups.member e g).2 ⟨x, hx, hg⟩) x hx
  recalling g t hs e x hx hg := (h.groups.recalling g t hs).1 e ((h.groups.member e g).2 ⟨x, hx, hg⟩) x hx
  unready g t _ hs := (h.groups.recalling g t hs).2
  ready _ hg := hg.elim
  holds e x a hx _ ha := (h.rounds.awaited e a x hx ha).2
  covered e x l a i y hx hs hl hy hw hk := h.rounds.covered e a i x hx l hl y hy hw hs hk
  waits e x a hx ha := (h.rounds.state e x hx).2 ⟨a, ha⟩
  deadline := h.rounds.deadline
  parked q hq := ⟨(h.rounds.parked.1 q hq).2.1, (h.rounds.parked.1 q hq).2.2, h.rounds.parked.2 q hq⟩

theorem DeviceLaw.settled (h : DeviceLaw s) : s.Settled := by
  rintro e ⟨x, hx, hs, ha⟩
  obtain ⟨a, haw⟩ := (h.rounds.state e x hx).1 hs
  rw [ha] at haw
  cases haw

theorem DeviceLaw.admittedLaw (h : DeviceLaw s) : AdmittedLaw s :=
  ⟨fun e x a hx ha => (h.rounds.awaited e a x hx ha).1, fun q hq => (h.rounds.parked.1 q hq).1⟩

theorem Phase.not_busy (g : Fin 4) : ¬Phase.rest.Busy g := by simp [Phase.Busy, Phase.rest]

theorem Phase.not_spared (x : Entry) : ¬Phase.rest.Spared x := by simp [Phase.Spared, Phase.rest]

theorem ChangeLaw.groupLaw (h : ChangeLaw .rest s) : GroupLaw s where
  live := h.live
  alone e x hx := h.alone e x hx nofun
  member e g := by
    refine ⟨fun he => ?_, fun ⟨x, hx, hg⟩ => h.member e x g hx hg⟩
    obtain ⟨x, hx⟩ := Option.ne_none_iff_exists'.1 (h.full g (Phase.not_busy g) e he)
    exact ⟨x, hx, h.listed e x g he hx⟩
  limit := h.limit
  free := h.free
  opened g hs e he x hx := h.opened g nofun hs e x hx (h.listed e x g he hx)
  recalling g t hs :=
    ⟨fun e he x hx => h.recalling g t hs e x hx (h.listed e x g he hx), h.unready g t (Phase.not_busy g) hs⟩

theorem ChangeLaw.roundLaw (h : ChangeLaw .rest s) (hd : s.Settled) (ha : AdmittedLaw s) : RoundLaw s where
  awaited e a x hx hax := ⟨ha.awaited e x a hx hax, h.holds e x a hx (Phase.not_spared x) hax⟩
  covered e a i x hx l hl y hy hw hs hk := h.covered e x l a i y hx hs hl hy hw hk
  state e x hx := by
    refine ⟨fun hs => ?_, fun ⟨a, hax⟩ => h.waits e x a hx hax⟩
    by_contra hc
    exact hd e ⟨x, hx, hs, by simpa using hc⟩
  deadline := h.deadline
  parked := ⟨fun q hq => ⟨ha.parked q hq, (h.parked q hq).1, (h.parked q hq).2.1⟩, fun q hq => (h.parked q hq).2.2⟩

/-! ## What leaves the laws as they are -/

/-- No record that the laws read is written, but that parked lookups may go. -/
structure SameRecords (s t : State) : Prop where
  windows : t.windows = s.windows
  entries : t.entries = s.entries
  groups : t.groups = s.groups
  held : ∀ a i, t.held a i = s.held a i
  park : ∀ q ∈ t.park, q ∈ s.park

/-- Nor is the context of an agent written. -/
structure SameChanges (s t : State) : Prop extends SameRecords s t where
  context : ∀ a, (t.port a).context = (s.port a).context

namespace SameRecords

variable (h : SameRecords s t)
include h

theorem entry (e : Fin 16) : t.entry e = s.entry e := by simp only [State.entry, h.entries]
theorem window (w : Nat) : t.window w = s.window w := by simp only [State.window, h.windows]
theorem group (g : Fin 4) : t.group g = s.group g := by simp only [State.group, h.groups]

theorem condition (w : Nat) : t.condition w = s.condition w := by
  simp only [State.condition, h.entry, h.window]

theorem law {p : Phase} (k : ChangeLaw p s) (rights : RightsLaw t) : ChangeLaw p t where
  pending := k.pending.of_eq (by rw [h.windows, h.entries])
  holders := k.holders.of_same (fun w => by rw [h.window]) fun a i => congrArg (Option.map Holding.window) (h.held a i)
  rights := rights
  live := by simpa only [h.entry, h.window] using k.live
  alone := by simpa only [h.entry] using k.alone
  member := by simpa only [h.entry, h.group] using k.member
  listed := by simpa only [h.entry, h.group] using k.listed
  full := by simpa only [h.entry, h.group] using k.full
  limit := by simpa only [h.group] using k.limit
  free := by simpa only [h.group] using k.free
  opened := by simpa only [h.entry, h.group] using k.opened
  recalling := by simpa only [h.entry, h.group] using k.recalling
  unready := by simpa only [h.entry, h.group] using k.unready
  ready := by simpa only [h.entry] using k.ready
  holds := by simpa only [h.entry, h.held] using k.holds
  covered := by simpa only [h.entry, h.window, h.held] using k.covered
  waits := by simpa only [h.entry] using k.waits
  deadline := by simpa only [h.entry] using k.deadline
  parked q hq := by simpa only [h.condition] using k.parked q (h.park q hq)

theorem due (e : Fin 16) : t.Due e ↔ s.Due e := by simp only [State.Due, h.entry]

end SameRecords

theorem SameChanges.law (h : SameChanges s t) {p : Phase} (k : ChangeLaw p s) : ChangeLaw p t :=
  h.toSameRecords.law k fun a i y hy => by
    simpa only [h.window, h.context] using k.rights a i y ((h.held a i).symm.trans hy)

/-! ## How entries shrink -/

/-- An entry goes on with its request and awaits no further agent. -/
structure Entry.Ebbs (x y : Entry) : Prop where
  window : y.window = x.window
  kind : y.kind = x.kind
  group : y.group = x.group
  deadline : y.deadline = x.deadline
  awaited : ∀ a : AgentId, y.awaited[a] = true → x.awaited[a] = true

theorem Entry.Ebbs.refl (x : Entry) : x.Ebbs x := ⟨rfl, rfl, rfl, rfl, fun _ => id⟩

theorem Entry.Ebbs.trans {x y z : Entry} (h : x.Ebbs y) (k : y.Ebbs z) : x.Ebbs z :=
  ⟨k.window.trans h.window, k.kind.trans h.kind, k.group.trans h.group, k.deadline.trans h.deadline,
    fun a ha => h.awaited a (k.awaited a ha)⟩

/-- What the ends of changes leave: entries ebb or end, parked lookups go, a group under way keeps its record. -/
structure Shrinks (p : Phase) (s t : State) : Prop where
  entries : ∀ e y, t.entry e = some y → ∃ x, s.entry e = some x ∧ x.Ebbs y
  groups : ∀ g, p.Busy g → t.group g = s.group g
  park : ∀ q ∈ t.park, q ∈ s.park

theorem Shrinks.refl (p : Phase) (s : State) : Shrinks p s s :=
    ⟨fun _ y hy => ⟨y, hy, .refl y⟩, fun _ _ => rfl, fun _ => id⟩

theorem Shrinks.trans {p : Phase} (h : Shrinks p s t) (k : Shrinks p t u) : Shrinks p s u where
  entries e z hz := by
    obtain ⟨y, hy, hyz⟩ := k.entries e z hz
    obtain ⟨x, hx, hxy⟩ := h.entries e y hy
    exact ⟨x, hx, hxy.trans hyz⟩
  groups g hg := (k.groups g hg).trans (h.groups g hg)
  park q hq := h.park q (k.park q hq)

/-- An ended entry stays FREE. -/
theorem Shrinks.ended {p : Phase} (h : Shrinks p s t) {e : Fin 16} (he : s.entry e = none) : t.entry e = none :=
  Option.eq_none_iff_forall_ne_some.2 fun y hy => by
    obtain ⟨x, hx, -⟩ := h.entries e y hy
    rw [he] at hx
    cases hx

theorem SameRecords.shrinks (h : SameRecords s t) (p : Phase) : Shrinks p s t :=
  ⟨fun e y hy => ⟨y, (h.entry e).symm.trans hy, .refl y⟩, fun g _ => h.group g, h.park⟩

theorem Shrinks.onlyEnds {p : Phase} (h : Shrinks p s t) : s.OnlyEnds t := ⟨fun e he => by
  obtain ⟨y, hy, a, ha⟩ := State.awaits_iff.1 he
  obtain ⟨x, hx, ebb⟩ := h.entries e y hy
  exact State.awaits_iff.2 ⟨x, hx, a, ebb.awaited a ha⟩⟩

/-! ## Removals -/

/-- What removals leave of entries: awaited sets shrink, but not those of the group that is being abandoned. -/
structure Releases (p : Phase) (s t : State) : Prop where
  kept : ∀ e x, s.entry e = some x → ∃ y, t.entry e = some y ∧ x.Ebbs y ∧ y.state = x.state ∧ (p.Spared x → y = x)
  only : ∀ e, s.entry e = none → t.entry e = none
  groups : t.groups = s.groups
  park : ∀ q ∈ t.park, q ∈ s.park

theorem Releases.refl (p : Phase) (s : State) : Releases p s s :=
  ⟨fun _ x hx => ⟨x, hx, .refl x, rfl, fun _ => rfl⟩, fun _ => id, rfl, fun _ => id⟩

theorem Releases.trans {p : Phase} (h : Releases p s t) (k : Releases p t u) : Releases p s u where
  kept e x hx := by
    obtain ⟨y, hy, hxy, hst, hsp⟩ := h.kept e x hx
    obtain ⟨z, hz, hyz, hst', hsp'⟩ := k.kept e y hy
    refine ⟨z, hz, hxy.trans hyz, hst'.trans hst, fun hs => ?_⟩
    obtain rfl := hsp hs
    exact hsp' hs
  only e he := k.only e (h.only e he)
  groups := k.groups.trans h.groups
  park q hq := h.park q (k.park q hq)

theorem Releases.back {p : Phase} (h : Releases p s t) {e : Fin 16} {y : Entry} (hy : t.entry e = some y) :
    ∃ x, s.entry e = some x ∧ x.Ebbs y ∧ y.state = x.state ∧ (p.Spared x → y = x) := by
  cases hx : s.entry e with
  | none => cases (h.only e hx).symm.trans hy
  | some x =>
    obtain ⟨z, hz, hk⟩ := h.kept e x hx
    cases hz.symm.trans hy
    exact ⟨x, rfl, hk⟩

theorem Releases.shrinks {p : Phase} (h : Releases p s t) : Shrinks p s t where
  entries e y hy := by
    obtain ⟨x, hx, ebb, -⟩ := h.back hy
    exact ⟨x, hx, ebb⟩
  groups g _ := by rw [State.group, h.groups]; rfl
  park := h.park

/-- The entries that removals make due. -/
theorem Releases.due {p : Phase} (h : Releases p s t) (k : ChangeLaw p s) (e : Fin 16) :
    t.Due e ↔ s.Due e ∨ e ∈ emptied s t := by
  rw [mem_emptied]
  constructor
  · rintro ⟨y, hy, hst, ha⟩
    obtain ⟨x, hx, ebb, hs, -⟩ := h.back hy
    by_cases hw : ∃ a : AgentId, x.awaited[a] = true
    · refine .inr ⟨State.awaits_iff.2 ⟨x, hx, hw⟩, Bool.eq_false_iff.2 fun hc => ?_⟩
      obtain ⟨y', hy', a, hay⟩ := State.awaits_iff.1 hc
      cases hy.symm.trans hy'
      rw [ha] at hay
      cases hay
    · exact .inl ⟨x, hx, hs ▸ hst, by simpa using hw⟩
  · rintro (⟨x, hx, hst, ha⟩ | ⟨hs, ht⟩)
    · obtain ⟨y, hy, ebb, hs, -⟩ := h.kept e x hx
      refine ⟨y, hy, hs.trans hst, fun a => Bool.eq_false_iff.2 fun hay => ?_⟩
      have := ebb.awaited a hay
      rw [ha] at this
      cases this
    · obtain ⟨x, hx, a, hax⟩ := State.awaits_iff.1 hs
      obtain ⟨y, hy, ebb, hst, -⟩ := h.kept e x hx
      refine ⟨y, hy, hst.trans (k.waits e x a hx hax), fun b => Bool.eq_false_iff.2 fun hby => ?_⟩
      exact Bool.eq_false_iff.1 ht (State.awaits_iff.2 ⟨y, hy, b, hby⟩)

/-- No entry that removals make due is of the group that is being abandoned. -/
theorem Releases.not_spared {p : Phase} (h : Releases p s t) {e : Fin 16} (he : e ∈ emptied s t) {y : Entry}
    (hy : t.entry e = some y) : ¬p.Spared y := by
  intro hs
  obtain ⟨x, hx, ebb, -, same⟩ := h.back hy
  obtain rfl := same (by obtain ⟨g, hg, hp⟩ := hs; exact ⟨g, ebb.group ▸ hg, hp⟩)
  rw [mem_emptied] at he
  have := (State.awaits_iff (s := t)).2 ⟨y, hy, by
    obtain ⟨z, hz, ha⟩ := State.awaits_iff.1 he.1
    cases hx.symm.trans hz
    exact ha⟩
  rw [he.2] at this
  cases this

end Sys2Proof.Machine
end

section
/-!
SUPPORT of O56 and O57: removals, grants and re-takes within an action. A removal takes an agent out of the awaited set
of the entry that waits for it, a grant places a holding that no recall is about, and a re-take is a run of grants.
-/

namespace Sys2Proof.Machine

variable {s t u : State} {a : AgentId} {p : Phase} {ab : Option (Fin 4)} {d : Bool} {x y : Entry}

/-! ## Reports of removals -/

/-- An entry that is told of the removal of an agent's holding of its window (R70, R97). -/
def Entry.told (x : Entry) (ab : Option (Fin 4)) (a : AgentId) (d : Bool) : Entry :=
  if x.inRound && x.awaited[a] && !(x.group.isSome && x.group == ab) then x.released a d else x

theorem Entry.told_cases (x : Entry) (ab : Option (Fin 4)) (a : AgentId) (d : Bool) :
    x.told ab a d = x ∨ x.told ab a d = x.released a d := by
  unfold Entry.told
  split
  · exact .inr rfl
  · exact .inl rfl

theorem Entry.released_ebbs (x : Entry) (a : AgentId) (d : Bool) : x.Ebbs (x.released a d) :=
  ⟨rfl, rfl, rfl, rfl, fun b hb => by
    have hb : (x.awaited.del a)[b] = true := hb
    rw [FinSet.get_del, Bool.and_eq_true] at hb
    exact hb.2⟩

theorem Entry.told_ebbs : x.Ebbs (x.told ab a d) := by
  obtain h | h := x.told_cases ab a d <;> rw [h]
  · exact .refl x
  · exact x.released_ebbs a d

@[simp] theorem Entry.told_state : (x.told ab a d).state = x.state := by
  obtain h | h := x.told_cases ab a d <;> rw [h]
  rfl

theorem Phase.spared_iff : p.Spared x ↔ (x.group.isSome && x.group == p.abandoning) = true := by
  unfold Phase.Spared
  rw [Bool.and_eq_true, beq_iff_eq, Option.isSome_iff_exists]
  exact ⟨fun ⟨g, hx, hp⟩ => ⟨⟨g, hx⟩, hx.trans hp.symm⟩, fun ⟨⟨g, hx⟩, he⟩ => ⟨g, hx, he.symm.trans hx⟩⟩

theorem Entry.told_spared (h : p.Spared x) : x.told p.abandoning a d = x := by
  unfold Entry.told
  rw [Phase.spared_iff.1 h]
  simp

theorem Entry.told_awaited (hs : x.state ≠ .held) (h : ¬p.Spared x) : (x.told p.abandoning a d).awaited[a] = false := by
  rw [Phase.spared_iff, Bool.not_eq_true] at h
  unfold Entry.told
  rw [h]
  have round : x.inRound = true := by simpa [Entry.inRound] using hs
  rw [round]
  cases ha : x.awaited[a] with
  | false => simpa using ha
  | true =>
    show (x.awaited.set a false)[a] = false
    simp

theorem Entry.told_awaited_other {b : AgentId} (hb : b ≠ a) : (x.told ab a d).awaited[b] = x.awaited[b] := by
  obtain h | h := x.told_cases ab a d <;> rw [h]
  show (x.awaited.set a false)[b] = _
  rw [vector_get_set, if_neg hb]

/-- The report of a removal, entry by entry. -/
theorem State.entry_report (s : State) (ab : Option (Fin 4)) (a : AgentId) (w : Nat) (d : Bool) (e : Fin 16) :
    (s.report ab a w d).entry e =
      if (s.window w).pending = some e then (s.entry e).map fun x => x.told ab a d else s.entry e := by
  unfold State.report
  split
  · rename_i hp
    rw [if_neg (by simp [hp])]
  · rename_i c hp
    by_cases hce : c = e
    · subst hce
      rw [if_pos hp]
      split
      · rename_i hx
        rw [hx]
        rfl
      · rename_i x hx
        rw [hx]
        unfold Entry.told
        by_cases hc : (x.inRound && x.awaited[a] && !(x.group.isSome && x.group == ab)) = true
        · rw [if_pos hc, State.entry_setEntry, if_pos rfl, Option.map_some, if_pos hc]
          rfl
        · rw [if_neg hc, hx, Option.map_some, if_neg hc]
    · rw [if_neg (by simp [hp, hce])]
      split
      · rfl
      · split
        · rw [State.entry_setEntry, if_neg (Ne.symm hce)]
        · rfl

/-! ## Removals -/

/-- The removal of the holding in slot i of agent a. -/
structure Unheld (ab : Option (Fin 4)) (a : AgentId) (d : Bool) (i : Fin 64) (h : Holding) (s t : State) : Prop where
  entry : ∀ e, t.entry e =
    if (s.window h.window).pending = some e then (s.entry e).map fun x => x.told ab a d else s.entry e
  held : ∀ b j, t.held b j = if b = a ∧ j = i then none else s.held b j
  live : ∀ w, (t.window w).live = (s.window w).live
  pending : ∀ w, (t.window w).pending = (s.window w).pending
  groups : t.groups = s.groups
  park : t.park = s.park
  port : ∀ b, t.port b = s.port b

theorem State.removeSlot_unheld {i : Fin 64} {h : Holding} (hh : s.held a i = some h) :
    Unheld ab a d i h s (s.removeSlot ab a d i) := by
  rw [State.removeSlot_held hh]
  generalize hr : (s.setTable a { s.table a with slots := (s.table a).slots.set i none }).setWindow h.window
    { s.window h.window with holders := (s.window h.window).holders.del a } = r
  have window (w : Nat) : (r.window w).live = (s.window w).live ∧ (r.window w).pending = (s.window w).pending := by
    rw [← hr, State.window_setWindow]
    split
    · subst_vars
      exact ⟨rfl, rfl⟩
    · exact ⟨rfl, rfl⟩
  have entry (e : Fin 16) : r.entry e = s.entry e := by rw [← hr]; rfl
  have slots (b : AgentId) (j : Fin 64) : r.held b j = if b = a ∧ j = i then none else s.held b j := by
    rw [← hr]
    show ((s.setTable a _).table b).slots[j] = _
    rw [State.table_setTable]
    by_cases hb : b = a
    · subst hb
      rw [if_pos rfl, vector_get_set]
      simp [State.held]
    · simp [hb, State.held]
  have rest := State.report_rest r ab a h.window d
  refine ⟨fun e => ?_, fun b j => ?_, fun w => ?_, fun w => ?_, ?_, ?_, fun b => ?_⟩
  · rw [State.entry_report, (window _).2, entry]
  · rw [rest]
    exact slots b j
  · rw [rest]
    exact (window w).1
  · rw [rest]
    exact (window w).2
  · rw [rest, ← hr]
    rfl
  · rw [rest, ← hr]
    rfl
  · rw [rest, ← hr]
    rfl

theorem Unheld.releases {i : Fin 64} {h : Holding} (k : Unheld p.abandoning a d i h s t) : Releases p s t where
  kept e x hx := by
    rw [k.entry, hx]
    split
    · exact ⟨_, rfl, Entry.told_ebbs, Entry.told_state, Entry.told_spared⟩
    · exact ⟨x, rfl, .refl x, rfl, fun _ => rfl⟩
  only e he := by
    rw [k.entry, he]
    split <;> rfl
  groups := k.groups
  park q hq := k.park ▸ hq

/-! ## The laws after removals and new holdings -/

theorem Releases.condition (r : Releases p s t) (pending : ∀ w, (t.window w).pending = (s.window w).pending) {w : Nat}
    (h : s.condition w = .inRecall) : t.condition w = .inRecall := by
  obtain ⟨e, x, hp, hx, hs⟩ := State.condition_eq_inRecall.1 h
  obtain ⟨y, hy, -, hst, -⟩ := r.kept e x hx
  exact State.condition_eq_inRecall.2 ⟨e, y, (pending w).trans hp, hy, hst ▸ hs⟩

theorem Phase.Spared.ebbs (h : x.Ebbs y) : p.Spared y ↔ p.Spared x := by rw [Phase.Spared, Phase.Spared, h.group]

theorem Releases.group (r : Releases p s t) (g : Fin 4) : t.group g = s.group g := by rw [State.group, r.groups]; rfl

/-- Removals and new holdings keep the laws where they keep what the laws say of holdings. -/
theorem Releases.law (r : Releases p s t) (k : ChangeLaw p s) (holders : HolderLaw t) (rights : RightsLaw t)
    (live : ∀ w, (t.window w).live = (s.window w).live)
    (pending : ∀ w, (t.window w).pending = (s.window w).pending)
    (holds : ∀ e y (a : AgentId), t.entry e = some y → ¬p.Spared y → y.awaited[a] = true →
      ∃ i h, t.held a i = some h ∧ h.window = y.window)
    (covered : ∀ e y l (a : AgentId) i h, t.entry e = some y → y.state ≠ .held → (s.window y.window).live = some l →
      t.held a i = some h → h.window = y.window → y.kind.hits l a h.rights → y.awaited[a] = true) :
    ChangeLaw p t where
  pending := k.pending.of_same pending fun e => by
    unfold State.changed
    cases hx : s.entry e with
    | none => rw [r.only e hx]
    | some x =>
      obtain ⟨y, hy, ebb, -⟩ := r.kept e x hx
      rw [hy, Option.map_some, Option.map_some, ebb.window]
  holders := holders
  rights := rights
  live e y hy := by
    obtain ⟨x, hx, ebb, -⟩ := r.back hy
    rw [ebb.window, live]
    exact k.live e x hx
  alone e y hy hf hg := by
    obtain ⟨x, hx, ebb, hs, -⟩ := r.back hy
    exact hs.trans (k.alone e x hx hf (ebb.group ▸ hg))
  member e y g hy hg := by
    obtain ⟨x, hx, ebb, -⟩ := r.back hy
    rw [r.group]
    exact k.member e x g hx (ebb.group ▸ hg)
  listed e y g he hy := by
    obtain ⟨x, hx, ebb, -⟩ := r.back hy
    rw [r.group] at he
    exact ebb.group.trans (k.listed e x g he hx)
  full g hg e he hn := by
    rw [r.group] at he
    obtain ⟨x, hx⟩ := Option.ne_none_iff_exists'.1 (k.full g hg e he)
    obtain ⟨y, hy, -⟩ := r.kept e x hx
    cases hn.symm.trans hy
  limit g := by
    rw [r.group]
    exact k.limit g
  free g := by
    rw [r.group]
    exact k.free g
  opened g hs ho e y hy hg := by
    obtain ⟨x, hx, ebb, hst, -⟩ := r.back hy
    rw [r.group] at ho
    exact hst.trans (k.opened g hs ho e x hx (ebb.group ▸ hg))
  recalling g c hr e y hy hg := by
    obtain ⟨x, hx, ebb, hst, -⟩ := r.back hy
    rw [r.group] at hr
    rw [hst]
    exact k.recalling g c hr e x hx (ebb.group ▸ hg)
  unready g c hb hr := by
    rw [r.group] at hr ⊢
    obtain ⟨e, he, x, hx, hst⟩ := k.unready g c hb hr
    obtain ⟨y, hy, -, hs, -⟩ := r.kept e x hx
    exact ⟨e, he, y, hy, hs ▸ hst⟩
  ready g hp e y hy hg := by
    obtain ⟨x, hx, ebb, hst, -⟩ := r.back hy
    exact hst.trans (k.ready g hp e x hx (ebb.group ▸ hg))
  holds := holds
  covered e y l a i h hy hs hl hh hw hk := covered e y l a i h hy hs (live _ ▸ hl) hh hw hk
  waits e y a hy ha := by
    obtain ⟨x, hx, ebb, hst, -⟩ := r.back hy
    exact hst.trans (k.waits e x a hx (ebb.awaited a ha))
  deadline e y hy := by
    obtain ⟨x, hx, ebb, hst, -⟩ := r.back hy
    rw [ebb.deadline, hst]
    exact k.deadline e x hx
  parked q hq := by
    obtain ⟨hw, hr, hc⟩ := k.parked q (r.park q hq)
    exact ⟨hw, hr, r.condition pending hc⟩

/-- One holding gone. -/
theorem Unheld.law {i : Fin 64} {h : Holding} (u : Unheld p.abandoning a d i h s t) (k : ChangeLaw p s)
    (hh : s.held a i = some h) (holders : HolderLaw t) : ChangeLaw p t := by
  have still {b : AgentId} {j : Fin 64} {z : Holding} (hz : t.held b j = some z) :
      ¬(b = a ∧ j = i) ∧ s.held b j = some z := by
    rw [u.held] at hz
    split at hz
    · cases hz
    · exact ⟨‹_›, hz⟩
  refine u.releases.law k holders (fun b j z hz => ?_) u.live u.pending (fun e y b hy hs ha => ?_)
    fun e y l b j z hy hst hl hz hw hk => ?_
  · have ⟨_, hz⟩ := still hz
    rw [u.live, u.port]
    exact k.rights b j z hz
  · obtain ⟨x, hx, ebb, hst, -⟩ := u.releases.back hy
    have hsx : ¬p.Spared x := fun hp => hs ((Phase.Spared.ebbs ebb).2 hp)
    have hax := ebb.awaited b ha
    obtain ⟨j, z, hz, hw⟩ := k.holds e x b hx hsx hax
    refine ⟨j, z, ?_, hw.trans ebb.window.symm⟩
    rw [u.held, if_neg ?_]
    · exact hz
    rintro ⟨rfl, rfl⟩
    cases hz.symm.trans hh
    have told : t.entry e = some (x.told p.abandoning b d) := by
      rw [u.entry, if_pos (hw ▸ k.pending.named e x hx), hx]
      rfl
    cases hy.symm.trans told
    rw [Entry.told_awaited (by simp [k.waits e x b hx hax]) hsx] at ha
    cases ha
  · obtain ⟨hne, hz⟩ := still hz
    obtain ⟨x, hx, ebb, hs, -⟩ := u.releases.back hy
    have hax : x.awaited[b] = true :=
      k.covered e x l b j z hx (hs ▸ hst) (ebb.window ▸ hl) hz (hw.trans ebb.window) (ebb.kind ▸ hk)
    have hy' := u.entry e
    rw [hy, hx] at hy'
    split at hy'
    · rename_i hp
      cases hy'
      obtain ⟨x', hx', hwx⟩ := k.pending.inUse _ _ hp
      cases hx.symm.trans hx'
      have hb : b ≠ a := fun hb => hne ⟨hb, by
        subst hb
        exact k.holders.once b j i z h hz hh ((hw.trans ebb.window).trans hwx)⟩
      rw [Entry.told_awaited_other hb]
      exact hax
    · cases hy'
      exact hax

theorem ChangeLaw.removeSlot (k : ChangeLaw p s) (a : AgentId) (d : Bool) (i : Fin 64) :
    ChangeLaw p (s.removeSlot p.abandoning a d i) ∧ Releases p s (s.removeSlot p.abandoning a d i) := by
  cases hh : s.held a i with
  | none =>
    rw [State.removeSlot_empty hh]
    exact ⟨k, .refl p s⟩
  | some h =>
    have u : Unheld p.abandoning a d i h s (s.removeSlot p.abandoning a d i) := State.removeSlot_unheld hh
    exact ⟨u.law k hh (State.removeSlot_holderLaw k.holders ..), u.releases⟩

theorem ChangeLaw.removeWhere (hp : p.abandoning = none) (k : ChangeLaw p s) (a : AgentId) (d : Bool)
    (pick : Holding → Bool) : ChangeLaw p (s.removeWhere a d pick) ∧ Releases p s (s.removeWhere a d pick) :=
  foldl_keeps (P := fun u => ChangeLaw p u ∧ Releases p s u)
    (fun u i ⟨hu, hr⟩ => by
      have removed := hu.removeSlot a d i
      rw [hp] at removed
      split
      · split
        · exact ⟨removed.1, hr.trans removed.2⟩
        · exact ⟨hu, hr⟩
      · exact ⟨hu, hr⟩)
    _ _ ⟨k, .refl p s⟩

/-! ## What an end of waiting brings about -/

/-- From s to t the laws are kept, entries only ebb or end, and of the entries due to end those of L are due no
longer. -/
structure Settles (p : Phase) (s t : State) (L : List (Fin 16)) : Prop where
  law : ChangeLaw p t
  shrinks : Shrinks p s t
  due : ∀ e, t.Due e ↔ s.Due e ∧ e ∉ L

theorem Settles.refl (k : ChangeLaw p s) : Settles p s s [] := ⟨k, .refl p s, by simp⟩

theorem Settles.trans {L M : List (Fin 16)} (h : Settles p s t L) (k : Settles p t u M) : Settles p s u (L ++ M) :=
  ⟨k.law, h.shrinks.trans k.shrinks, fun e => by rw [k.due, h.due, List.mem_append, not_or, and_assoc]⟩

theorem Settles.congr {L M : List (Fin 16)} (h : Settles p s t L) (hLM : ∀ e, s.Due e → (e ∈ L ↔ e ∈ M)) :
    Settles p s t M :=
  ⟨h.law, h.shrinks, fun e => by
    rw [h.due]
    exact and_congr_right fun hd => not_congr (hLM e hd)⟩

theorem SameChanges.settles (h : SameChanges s t) (k : ChangeLaw p s) : Settles p s t [] :=
  ⟨h.law k, h.shrinks p, fun e => by simp [h.due]⟩

/-- Ends of waiting keep the laws, from a due entry that no group abandonment spares, while fewer than n entries
await. -/
def EndsWell (ab : Option (Fin 4)) (k : EndWait) (n : Nat) : Prop :=
  ∀ p e t, p.abandoning = ab → ChangeLaw p t → t.Due e → (∀ x, t.entry e = some x → ¬p.Spared x) → t.waiting < n →
    Settles p t (k e t) [e]

section
variable {k : EndWait} {n : Nat} (hk : EndsWell p.abandoning k n)
include hk

/-- The due entries of a list end one after another. -/
theorem foldl_endsWell : ∀ (L : List (Fin 16)) {t : State}, L.Nodup → ChangeLaw p t → t.waiting < n →
    (∀ e ∈ L, t.Due e ∧ ∀ x, t.entry e = some x → ¬p.Spared x) → Settles p t (L.foldl (fun s e => k e s) t) L
  | [], _, _, h, _, _ => .refl h
  | e :: L, t, nodup, h, hn, due => by
    obtain ⟨he, nodup⟩ := List.nodup_cons.1 nodup
    have first : Settles p t (k e t) [e] := hk p e t rfl h (due e (.head L)).1 (due e (.head L)).2 hn
    refine first.trans (foldl_endsWell L nodup first.law (first.shrinks.onlyEnds.waiting.trans_lt hn) fun c hc => ?_)
    obtain ⟨dc, sc⟩ := due c (.tail e hc)
    refine ⟨(first.due c).2 ⟨dc, by
      rw [List.mem_singleton]
      rintro rfl
      exact he hc⟩, fun y hy => ?_⟩
    obtain ⟨x, hx, ebb⟩ := first.shrinks.entries c y hy
    exact fun hs => sc x hx ((Phase.Spared.ebbs ebb).1 hs)

/-- The entries that removals make due end in the same action. -/
theorem endWaits_ends (h : ChangeLaw p s) (r : Releases p s t) (ht : ChangeLaw p t) (hn : s.waiting ≤ n) :
    Settles p t (endWaits k s t) (emptied s t) := by
  by_cases hL : emptied s t = []
  · unfold endWaits
    rw [hL]
    exact .refl ht
  · obtain ⟨c, hc⟩ := List.exists_mem_of_ne_nil _ hL
    exact foldl_endsWell hk (emptied s t) ((List.nodup_finRange 16).filter _) ht
      ((r.shrinks.onlyEnds.waiting_lt hc).trans_le hn)
      fun e he => ⟨(r.due h e).2 (.inr he), fun y hy => r.not_spared he hy⟩

theorem endWaits_settles (h : ChangeLaw p s) (r : Releases p s t) (ht : ChangeLaw p t) (hn : s.waiting ≤ n) :
    Settles p s (endWaits k s t) [] := by
  have ended := endWaits_ends hk h r ht hn
  refine ⟨ended.law, r.shrinks.trans ended.shrinks, fun e => ?_⟩
  rw [ended.due, r.due h]
  have waits : e ∈ emptied s t → ¬s.Due e := by
    rintro he ⟨x, hx, -, ha⟩
    obtain ⟨y, hy, b, hb⟩ := State.awaits_iff.1 (mem_emptied.1 he).1
    cases hx.symm.trans hy
    rw [ha] at hb
    cases hb
  simp only [List.not_mem_nil]
  tauto

end

/-! ## Grants -/

/-- What the checks of a lookup leave: a LIVE window in no recall, and rights that the record allows the agent. -/
structure Grantable (s : State) (a : AgentId) (w : Nat) (r : Rights) (l : LiveFields) : Prop where
  window : w < 4096
  live : (s.window w).live = some l
  rights : r ≠ .none
  allowed : l.cls.allows a (s.port a).context = true
  within : r.exceeds l.rights[a] = false
  unrecalled : ∀ e x, s.entry e = some x → x.window = w → x.state = .held

/-- New holdings of window w, in no recall, with the entries as they were. -/
structure Places (a : AgentId) (w : Nat) (l : LiveFields) (i : Fin 64) (s t : State) : Prop where
  entries : t.entries = s.entries
  groups : t.groups = s.groups
  park : t.park = s.park
  port : ∀ b, t.port b = s.port b
  live : ∀ v, (t.window v).live = (s.window v).live
  pending : ∀ v, (t.window v).pending = (s.window v).pending
  others : ∀ b j, ¬(b = a ∧ j = i) → t.held b j = s.held b j
  slot : ∀ h, s.held a i = some h → h.window = w
  placed : ∃ h, t.held a i = some h ∧ h.window = w ∧ h.cls = l.cls.name ∧ h.rights ≠ .none ∧
    h.rights.exceeds l.rights[a] = false

theorem Places.entry {w : Nat} {l : LiveFields} {i : Fin 64} (h : Places a w l i s t) (e : Fin 16) :
    t.entry e = s.entry e := by simp only [State.entry, h.entries]

theorem Places.releases {w : Nat} {l : LiveFields} {i : Fin 64} (h : Places a w l i s t) : Releases p s t :=
  ⟨fun e x hx => ⟨x, (h.entry e).trans hx, .refl x, rfl, fun _ => rfl⟩, fun e he => (h.entry e).trans he, h.groups,
    fun _ hq => h.park ▸ hq⟩

theorem Places.law {w : Nat} {l : LiveFields} {i : Fin 64} {r : Rights} (h : Places a w l i s t) (k : ChangeLaw p s)
    (g : Grantable s a w r l) (holders : HolderLaw t) : ChangeLaw p t := by
  obtain ⟨y, hy, hw, hcls, hr, hin⟩ := h.placed
  refine h.releases.law k holders (fun b j z hz => ?_) h.live h.pending (fun e x b hx hs ha => ?_)
    fun e x l' b j z hx hst hl hz hzw hk => ?_
  · rw [h.live, h.port]
    by_cases hbj : b = a ∧ j = i
    · obtain ⟨rfl, rfl⟩ := hbj
      cases hy.symm.trans hz
      rw [hw]
      exact ⟨g.window, hr, l, g.live, hin, hcls, g.allowed⟩
    · rw [h.others b j hbj] at hz
      exact k.rights b j z hz
  · obtain ⟨j, z, hz, hzw⟩ := k.holds e x b ((h.entry e).symm.trans hx) hs ha
    by_cases hbj : b = a ∧ j = i
    · obtain ⟨rfl, rfl⟩ := hbj
      exact ⟨j, y, hy, hw.trans ((h.slot z hz).symm.trans hzw)⟩
    · exact ⟨j, z, (h.others b j hbj).trans hz, hzw⟩
  · rw [h.entry] at hx
    by_cases hbj : b = a ∧ j = i
    · obtain ⟨rfl, rfl⟩ := hbj
      cases hy.symm.trans hz
      exact absurd (g.unrecalled e x hx (hzw.symm.trans hw)) hst
    · rw [h.others b j hbj] at hz
      exact k.covered e x l' b j z hx hst hl hz hzw hk

theorem SameRecords.refl (s : State) : SameRecords s s := ⟨rfl, rfl, rfl, fun _ _ => rfl, fun _ => id⟩

theorem SameRecords.trans (h : SameRecords s t) (k : SameRecords t u) : SameRecords s u :=
  ⟨k.windows.trans h.windows, k.entries.trans h.entries, k.groups.trans h.groups, fun a i =>
    (k.held a i).trans (h.held a i),
    fun q hq => h.park q (k.park q hq)⟩

theorem SameChanges.refl (s : State) : SameChanges s s := ⟨.refl s, fun _ => rfl⟩

theorem SameChanges.trans (h : SameChanges s t) (k : SameChanges t u) : SameChanges s u :=
  ⟨h.toSameRecords.trans k.toSameRecords, fun a => (k.context a).trans (h.context a)⟩

theorem SameChanges.sendAgent (s : State) (a : AgentId) (m : AgentMsg) : SameChanges s (s.sendAgent a m) := by
  unfold State.sendAgent
  split <;> exact ⟨⟨rfl, rfl, rfl, fun _ _ => rfl, fun _ => id⟩, fun _ => rfl⟩

theorem SameChanges.sendSup (s : State) (m : SupMsg) : SameChanges s (s.sendSup m) := by
  unfold State.sendSup
  split <;> exact ⟨⟨rfl, rfl, rfl, fun _ _ => rfl, fun _ => id⟩, fun _ => rfl⟩

/-- A table is written with its slots as they were. -/
theorem SameChanges.setTable (s : State) {a : AgentId} {x : SlotTable} (hx : x.slots = (s.table a).slots) :
    SameChanges s (s.setTable a x) := by
  refine ⟨⟨rfl, rfl, rfl, fun b i => ?_, fun _ => id⟩, fun _ => rfl⟩
  unfold State.held
  rw [State.table_setTable]
  split
  · subst_vars
    exact congrArg (fun v => v[i]) hx
  · rfl

/-- A port is written with its context as it was. -/
theorem SameChanges.setPort (s : State) {a : AgentId} {x : Port} (hx : x.context = (s.port a).context) :
    SameChanges s (s.setPort a x) := by
  refine ⟨⟨rfl, rfl, rfl, fun _ _ => rfl, fun _ => id⟩, fun b => ?_⟩
  rw [State.port_setPort]
  split
  · subst_vars
    exact hx
  · rfl

theorem SameChanges.sendGrant (s : State) (a : AgentId) (tag : Fin 4) (i : Fin 64) (w : Nat) (l : LiveFields)
    (r : Rights) (ev : Option Nat) : SameChanges s (s.sendGrant a tag i w l r ev) := by
  rw [State.sendGrant_eq]
  exact (SameChanges.setTable (a := a) s (by rfl)).trans (.sendAgent ..)

theorem SameRecords.releases (h : SameRecords s t) : Releases p s t :=
  ⟨fun e x hx => ⟨x, (h.entry e).trans hx, .refl x, rfl, fun _ => rfl⟩, fun e he => (h.entry e).trans he, h.groups,
    h.park⟩

theorem Releases.entry_held (r : Releases p s t) {w : Nat}
    (h : ∀ e x, s.entry e = some x → x.window = w → x.state = .held)
    {e : Fin 16} {y : Entry} (hy : t.entry e = some y) (hw : y.window = w) : y.state = .held := by
  obtain ⟨x, hx, ebb, hst, -⟩ := r.back hy
  exact hst.trans (h e x hx (ebb.window.symm.trans hw))

/-- A refreshed or upgraded holding. -/
theorem Places.refresh {w : Nat} {l : LiveFields} {r : Rights} {i : Fin 64} {h : Holding} {pointer : Fin 64}
    (k : RightsLaw s) (g : Grantable s a w r l) (hh : s.held a i = some h) (hw : h.window = w) :
    Places a w l i s (s.setTable a { s.table a with
      slots := (s.table a).slots.set i (some { h with rights := if r.exceeds h.rights then r else h.rights })
      pointer := pointer }) where
  entries := rfl
  groups := rfl
  park := rfl
  port _ := rfl
  live _ := rfl
  pending _ := rfl
  others b j hbj := by
    unfold State.held
    rw [State.table_setTable]
    split
    · subst_vars
      rw [vector_get_set, if_neg fun hj => hbj ⟨rfl, hj⟩]
    · rfl
  slot z hz := by
    cases hh.symm.trans hz
    exact hw
  placed := by
    refine ⟨{ h with rights := if r.exceeds h.rights then r else h.rights }, ?_, hw, ?_⟩
    · unfold State.held
      rw [State.table_setTable, if_pos rfl, vector_get_set, if_pos rfl]
    · obtain ⟨-, hr, l', hl, hin, hcls, -⟩ := k a i h hh
      cases (hw ▸ hl : (s.window w).live = some l').symm.trans g.live
      refine ⟨hcls, ?_, ?_⟩ <;> dsimp only <;> split
      exacts [g.rights, hr, g.within, hin]

/-- A new holding in a slot that is EMPTY. -/
theorem Places.install {w : Nat} {l : LiveFields} {r : Rights} {i : Fin 64} {pointer : Fin 64} (g : Grantable s a w r l)
    (hh : s.held a i = none) :
    Places a w l i s ((s.setTable a { s.table a with
      slots := (s.table a).slots.set i (some { window := w, rights := r, cls := l.cls.name })
      pointer := pointer }).setWindow w { s.window w with holders := (s.window w).holders.add a }) where
  entries := rfl
  groups := rfl
  park := rfl
  port _ := rfl
  live v := by
    rw [State.window_setWindow]
    split
    · subst_vars
      rfl
    · rfl
  pending v := by
    rw [State.window_setWindow]
    split
    · subst_vars
      rfl
    · rfl
  others b j hbj := by
    show ((s.setTable a _).table b).slots[j] = _
    rw [State.table_setTable]
    split
    · subst_vars
      rw [vector_get_set, if_neg fun hj => hbj ⟨rfl, hj⟩]
    · rfl
  slot z hz := by cases hh.symm.trans hz
  placed := by
    refine ⟨{ window := w, rights := r, cls := l.cls.name }, ?_, rfl, rfl, g.rights, g.within⟩
    show ((s.setTable a _).table a).slots[i] = _
    rw [State.table_setTable, if_pos rfl, vector_get_set, if_pos rfl]

theorem State.removeSlot_live (s : State) (ab : Option (Fin 4)) (a : AgentId) (d : Bool) (i : Fin 64) :
    (∀ w, ((s.removeSlot ab a d i).window w).live = (s.window w).live) ∧
      ∀ b, (s.removeSlot ab a d i).port b = s.port b := by
  cases hh : s.held a i with
  | none =>
    rw [State.removeSlot_empty hh]
    exact ⟨fun _ => rfl, fun _ => rfl⟩
  | some h =>
    have u : Unheld ab a d i h s (s.removeSlot ab a d i) := State.removeSlot_unheld hh
    exact ⟨u.live, u.port⟩

theorem State.removeSlot_held_self (s : State) (ab : Option (Fin 4)) (a : AgentId) (d : Bool) (i : Fin 64) :
    (s.removeSlot ab a d i).held a i = none := by
  cases hh : s.held a i with
  | none => rwa [State.removeSlot_empty hh]
  | some h =>
    have u : Unheld ab a d i h s (s.removeSlot ab a d i) := State.removeSlot_unheld hh
    rw [u.held, if_pos ⟨rfl, rfl⟩]

theorem State.removeSlot_held_none {ab : Option (Fin 4)} {d : Bool} {i : Fin 64} {b : AgentId} {w : Nat}
    (hw : ∀ j, ∀ y ∈ s.held b j, y.window ≠ w) : ∀ j, ∀ y ∈ (s.removeSlot ab a d i).held b j, y.window ≠ w := by
  cases hh : s.held a i with
  | none => rwa [State.removeSlot_empty hh]
  | some h =>
    have u : Unheld ab a d i h s (s.removeSlot ab a d i) := State.removeSlot_unheld hh
    intro j y hy
    rw [u.held] at hy
    split at hy
    · cases hy
    · exact hw j y hy

theorem HolderLaw.install (h : HolderLaw s) {i : Fin 64} {y : Holding} {pointer : Fin 64} (hi : s.held a i = none)
    (hw : ∀ j, ∀ z ∈ s.held a j, z.window ≠ y.window) :
    HolderLaw ((s.setTable a { s.table a with
      slots := (s.table a).slots.set i (some y)
      pointer := pointer }).setWindow y.window
        { s.window y.window with holders := (s.window y.window).holders.add a }) :=
  h.hold (by simp [State.names, hi])
    (fun j hj => by
      obtain ⟨z, hz, hzw⟩ := State.names_eq_some.1 hj
      exact hw j z hz hzw)
    rfl rfl

section
variable {k : EndWait} {n : Nat} (hk : EndsWell p.abandoning k n)
include hk

theorem grant_settles (h : ChangeLaw p s) (hn : s.waiting ≤ n) (tag : Fin 4) {w : Nat} {r : Rights} {l : LiveFields}
    (g : Grantable s a w r l) : Settles p s (grant k p.abandoning a tag w r l s) [] := by
  unfold grant
  dsimp only
  split
  · rename_i i hi
    obtain ⟨x, hx, hw⟩ := SlotTable.naming_some hi
    rw [hx]
    have placed := Places.refresh (pointer := (s.table a).pointerPast i) h.rights g hx hw
    have law := placed.law h g (State.setTable_holderLaw h.holders fun j => by
      simp only [vector_get_set]
      split
      · subst_vars
        simp [State.names, State.held, hx]
      · rfl)
    exact .trans (L := []) ⟨law, placed.releases.shrinks, fun e => by simp [State.Due, placed.entry]⟩
      ((SameChanges.sendGrant _ a tag i w l _ none).settles law)
  · rename_i hnone
    obtain ⟨k1, r1⟩ := h.removeSlot a false (s.table a).choose
    have live := s.removeSlot_live p.abandoning a false (s.table a).choose
    have empty := s.removeSlot_held_self p.abandoning a false (s.table a).choose
    have unnamed := State.removeSlot_held_none (ab := p.abandoning) (d := false) (i := (s.table a).choose) (a := a)
      (SlotTable.naming_none.1 hnone)
    generalize s.removeSlot p.abandoning a false (s.table a).choose = s1 at *
    have g1 : Grantable s1 a w r l := ⟨g.window, (live.1 w).trans g.live, g.rights, (live.2 a).symm ▸ g.allowed,
        g.within,
      fun e y hy hw => r1.entry_held g.unrecalled hy hw⟩
    have placed := Places.install (pointer := (s.table a).choose + 1) g1 empty
    have law := placed.law k1 g1 (k1.holders.install empty unnamed)
    have same := SameChanges.sendGrant ((s1.setTable a { s1.table a with
      slots := (s1.table a).slots.set (s.table a).choose (some { window := w, rights := r, cls := l.cls.name })
      pointer := (s.table a).choose + 1 }).setWindow w { s1.window w with holders := (s1.window w).holders.add a })
      a tag (s.table a).choose w l r (((s.table a).slots[(s.table a).choose]).map Holding.window)
    exact endWaits_settles hk h ((r1.trans placed.releases).trans same.releases) (same.law law) hn

/-! ## Answers to lookups -/

theorem answerLookup_settles (h : ChangeLaw p s) (hn : s.waiting ≤ n) (a : AgentId) (tag : Fin 4) {w : Nat} {r : Rights}
    (hw : w < 4096) (hr : r ≠ .none) (unrecalled : ∀ e x, s.entry e = some x → x.window = w → x.state = .held) :
    Settles p s (answerLookup k p.abandoning a tag w r s) [] := by
  unfold answerLookup
  split
  · exact (SameChanges.sendAgent ..).settles h
  · rename_i l hl
    split
    · exact (SameChanges.sendAgent ..).settles h
    · rename_i hc
      simp only [Bool.or_eq_true, Bool.not_eq_true', not_or, Bool.not_eq_false, Bool.not_eq_true] at hc
      exact grant_settles hk h hn tag ⟨hw, hl, hr, hc.1, hc.2, unrecalled⟩

theorem retakeOne_settles (h : ChangeLaw p s) (hn : s.waiting ≤ n) {q : Parked} (hw : q.window < 4096)
    (hr : q.rights ≠ .none) (unrecalled : ∀ e x, s.entry e = some x → x.window = q.window → x.state = .held) :
    Settles p s (retakeOne k p.abandoning q s) [] := by
  have tagged : SameChanges s (s.setLookupTag q.agent q.tag false) := .setPort s (by rfl)
  have first := tagged.settles h
  exact first.trans (M := []) (answerLookup_settles hk first.law (first.shrinks.onlyEnds.waiting.trans hn) _ _ hw hr
    fun e x hx => unrecalled e x ((tagged.entry e).symm.trans hx))

/-- The re-take of a window that no entry is for. -/
theorem foldl_retakeOne_settles : ∀ (L : List Parked) {s : State} {w : Nat}, ChangeLaw p s → s.waiting ≤ n →
    (∀ q ∈ L, q.window = w ∧ w < 4096 ∧ q.rights ≠ .none) → (∀ e x, s.entry e = some x → x.window ≠ w) →
    Settles p s (L.foldl (fun s q => retakeOne k p.abandoning q s) s) []
  | [], _, _, h, _, _, _ => .refl h
  | q :: L, s, w, h, hn, hL, unclaimed => by
    obtain ⟨rfl, hw, hr⟩ := hL q (.head L)
    have first : Settles p s (retakeOne k p.abandoning q s) [] :=
      retakeOne_settles hk h hn hw hr fun e x hx hxw => absurd hxw (unclaimed e x hx)
    refine first.trans (M := []) (foldl_retakeOne_settles L first.law (first.shrinks.onlyEnds.waiting.trans hn)
      (fun c hc => hL c (.tail q hc)) fun e y hy => ?_)
    obtain ⟨x, hx, ebb⟩ := first.shrinks.entries e y hy
    exact ebb.window ▸ unclaimed e x hx

end

end Sys2Proof.Machine
end

section
/-!
SUPPORT of O56 and O57: the ends of changes within an action. An entry that awaits nobody affects no holding, so its
application leaves the rights held within the record; the group of a last READY member is applied whole; and the
nesting ends, since each nested end belongs to an entry that was still waiting.
-/

namespace Sys2Proof.Machine

variable {s t u : State} {a : AgentId} {p : Phase} {e : Fin 16} {x : Entry}

/-! ## An entry ends -/

/-- Entry e ends: it is FREE, its window's record alone is written, and no parked lookup is answered. -/
structure Drops (e : Fin 16) (x : Entry) (s t : State) : Prop where
  entry : ∀ d, t.entry d = if d = e then none else s.entry d
  window : ∀ w, w ≠ x.window → t.window w = s.window w
  groups : t.groups = s.groups
  held : ∀ a i, t.held a i = s.held a i
  context : ∀ a, (t.port a).context = (s.port a).context
  park : t.park = s.park

/-- The state in which the parked lookups of a window are answered. -/
def State.retaking (s : State) (w : Nat) : State := s.setPark (s.park.filter fun q => q.window != w)

section
variable (h : Drops e x s t)
include h

theorem Drops.back {d : Fin 16} {y : Entry} (hy : t.entry d = some y) : d ≠ e ∧ s.entry d = some y := by
  rw [h.entry] at hy
  split at hy
  · cases hy
  · exact ⟨‹_›, hy⟩

theorem Drops.group (g : Fin 4) : t.group g = s.group g := by rw [State.group, h.groups]; rfl

/-- The other entries are for other windows. -/
theorem Drops.window_ne (k : PendingLaw s) (hx : s.entry e = some x) {d : Fin 16} {y : Entry}
    (hy : t.entry d = some y) :
    y.window ≠ x.window := fun hw => by
  obtain ⟨hd, hy⟩ := h.back hy
  exact hd (Option.some.inj ((k.named d y hy).symm.trans (hw ▸ k.named e x hx)))

theorem Drops.law (k : ChangeLaw p s) (hx : s.entry e = some x) (busy : ∀ g, x.group = some g → p.Busy g)
    (pending : PendingLaw t) (holders : HolderLaw t) (rights : RightsLaw t) : ChangeLaw p (t.retaking x.window) where
  pending := pending.of_eq rfl
  holders := holders.of_eq rfl
  rights := rights
  live d y hy := by
    have hw := h.window_ne k.pending hx hy
    show _ ∧ (t.window y.window).live ≠ none
    rw [h.window _ hw]
    exact k.live d y (h.back hy).2
  alone d y hy := k.alone d y (h.back hy).2
  member d y g hy hg := by
    show d ∈ (t.group g).members
    rw [h.group]
    exact k.member d y g (h.back hy).2 hg
  listed d y g hd hy := by
    have hd : d ∈ (t.group g).members := hd
    rw [h.group] at hd
    exact k.listed d y g hd (h.back hy).2
  full g hg d hd := by
    have hd : d ∈ (t.group g).members := hd
    rw [h.group] at hd
    show t.entry d ≠ none
    rw [h.entry, if_neg]
    · exact k.full g hg d hd
    · rintro rfl
      exact hg (busy g (k.listed d x g hd hx))
  limit g := by
    show (t.group g).members.length ≤ 8 ∧ (t.group g).members.Nodup
    rw [h.group]
    exact k.limit g
  free g := by
    show (t.group g).state = _ → (t.group g).members = []
    rw [h.group]
    exact k.free g
  opened g hs ho d y hy := by
    have ho : (t.group g).state = .opened := ho
    rw [h.group] at ho
    exact k.opened g hs ho d y (h.back hy).2
  recalling g c hr d y hy := by
    have hr : (t.group g).state = .recalling c := hr
    rw [h.group] at hr
    exact k.recalling g c hr d y (h.back hy).2
  unready g c hb hr := by
    have hr : (t.group g).state = .recalling c := hr
    show ∃ d ∈ (t.group g).members, ∃ y, t.entry d = some y ∧ _
    rw [h.group] at hr ⊢
    obtain ⟨d, hd, y, hy, hst⟩ := k.unready g c hb hr
    refine ⟨d, hd, y, ?_, hst⟩
    rw [h.entry, if_neg]
    · exact hy
    · rintro rfl
      exact hb (busy g (k.listed d x g hd hx))
  ready g hg d y hy := k.ready g hg d y (h.back hy).2
  holds d y b hy hs ha := by
    obtain ⟨i, z, hz, hw⟩ := k.holds d y b (h.back hy).2 hs ha
    exact ⟨i, z, (h.held b i).trans hz, hw⟩
  covered d y l b i z hy hs hl hz hw hk :=
    k.covered d y l b i z (h.back hy).2 hs (h.window _ (h.window_ne k.pending hx hy) ▸ hl)
      ((h.held b i).symm.trans hz) hw hk
  waits d y b hy := k.waits d y b (h.back hy).2
  deadline d y hy := k.deadline d y (h.back hy).2
  parked q hq := by
    obtain ⟨hq, hne⟩ := List.mem_filter.1 (h.park ▸ hq : q ∈ s.park.filter fun q => q.window != x.window)
    have hne : q.window ≠ x.window := by simpa using hne
    obtain ⟨hw, hr, hc⟩ := k.parked q hq
    refine ⟨hw, hr, State.condition_eq_inRecall.2 ?_⟩
    obtain ⟨d, y, hp, hy, hs⟩ := State.condition_eq_inRecall.1 hc
    refine ⟨d, y, (congrArg Window.pending (h.window _ hne)).trans hp, (h.entry d).trans ?_, hs⟩
    rw [if_neg]
    · exact hy
    · rintro rfl
      cases hx.symm.trans hy
      obtain ⟨z, hz, hzw⟩ := k.pending.inUse _ _ hp
      cases hx.symm.trans hz
      exact hne hzw.symm

theorem Drops.settles (k : ChangeLaw p s) (hx : s.entry e = some x) (busy : ∀ g, x.group = some g → p.Busy g)
    (pending : PendingLaw t) (holders : HolderLaw t) (rights : RightsLaw t) :
      Settles p s (t.retaking x.window) [e] where
  law := h.law k hx busy pending holders rights
  shrinks := ⟨fun d y hy => ⟨y, (h.back hy).2, .refl y⟩, fun g _ => h.group g, fun q hq =>
    h.park ▸ (List.mem_filter.1 hq).1⟩
  due d := by
    show (∃ y, t.entry d = some y ∧ _) ↔ _
    rw [h.entry, List.mem_singleton]
    split
    · simp [*]
    · simp [State.Due, *]

/-- An entry ends, and its window's parked lookups are answered. -/
theorem Drops.retake {k : EndWait} {n : Nat} (hk : EndsWell p.abandoning k n) (law : ChangeLaw p s) (hn : s.waiting ≤ n)
    (hx : s.entry e = some x) (busy : ∀ g, x.group = some g → p.Busy g)
    (pending : PendingLaw t) (holders : HolderLaw t) (rights : RightsLaw t) :
    Settles p s (retake k p.abandoning x.window t) [e] ∧ (retake k p.abandoning x.window t).entry e = none := by
  have dropped := h.settles law hx busy pending holders rights
  have unclaimed : ∀ d y, (t.retaking x.window).entry d = some y → y.window ≠ x.window :=
    fun d y hy => h.window_ne law.pending hx hy
  have retaken : Settles p (t.retaking x.window) (Machine.retake k p.abandoning x.window t) [] := by
    refine foldl_retakeOne_settles hk _ dropped.law (dropped.shrinks.onlyEnds.waiting.trans hn) (fun q hq => ?_)
      unclaimed
    obtain ⟨hq, hw⟩ := List.mem_filter.1 hq
    have hw : q.window = x.window := by simpa using hw
    obtain ⟨hlt, hr, -⟩ := law.parked q (h.park ▸ hq)
    exact ⟨hw, hw ▸ hlt, hr⟩
  refine ⟨dropped.trans retaken, retaken.shrinks.ended ?_⟩
  show t.entry e = none
  rw [h.entry, if_pos rfl]

end

theorem Drops.of_same (h : Drops e x s t) (k : SameChanges t u) (hp : u.park = t.park) : Drops e x s u :=
  ⟨fun d => (k.entry d).trans (h.entry d), fun w hw => (k.window w).trans (h.window w hw), k.groups.trans h.groups,
    fun a i => (k.held a i).trans (h.held a i), fun a => (k.context a).trans (h.context a), hp.trans h.park⟩

theorem SameChanges.of_tag (s : State) (tag : BitVec 8) : SameChanges s (s.freeTag tag) :=
  ⟨⟨rfl, rfl, rfl, fun _ _ => rfl, fun _ => id⟩, fun _ => rfl⟩

theorem SameChanges.finish (s : State) (tag : BitVec 8) (o : DoneOutcome) (g : Option (BitVec 16)) (l : FinSet 8)
    (i : Option (Fin 16)) : SameChanges s (s.finish tag o g l i) := (SameChanges.of_tag s tag).trans (.sendSup ..)

/-! ## Application -/

theorem State.applyParts_drops {l : LiveFields} (hl : (s.window x.window).live = some l) :
    Drops e x s (s.applyParts e x) ∧
      ((s.applyParts e x).window x.window).live = (x.kind.applied (s.window x.window) l).live := by
  unfold State.applyParts
  rw [hl]
  dsimp only
  obtain ⟨m, hm⟩ := (s.setWindow x.window (x.kind.applied (s.window x.window) l)).moveFrames_engineOnly x l
  generalize (s.setWindow x.window (x.kind.applied (s.window x.window) l)).moveFrames x l = v at *
  have window (w : Nat) : v.window w = if w = x.window then x.kind.applied (s.window x.window) l else s.window w := by
    rw [State.window, hm.windows]
    exact State.window_setWindow ..
  have dropped : Drops e x s (v.setEntry e none) := by
    refine ⟨fun d => ?_, fun w hw => (window w).trans (if_neg hw), hm.groups, fun b i => ?_, fun b => ?_, hm.park⟩
    · rw [State.entry_setEntry]
      simp only [State.entry, hm.entries]
      rfl
    · show v.held b i = _
      simp only [State.held, State.table, hm.tables]
      rfl
    · show (v.port b).context = _
      simp only [State.port, hm.ports]
      rfl
  have same := SameChanges.finish (v.setEntry e none) x.tag .applied
    (some (x.kind.applied (s.window x.window) l).generation) x.lost (x.jobSlot l)
  refine ⟨dropped.of_same same (State.finish_park ..), ?_⟩
  rw [same.window]
  exact congrArg _ ((window _).trans (if_pos rfl))

theorem State.abandonParts_drops :
    Drops e x s (s.abandonParts e x) ∧
      ((s.abandonParts e x).window x.window).live = (s.window x.window).live := by
  unfold State.abandonParts
  extract_lets r s1 s2 s3
  have window (w : Nat) : s3.window w =
      if w = x.window then { s.window x.window with pending := none } else s.window w := by
    have : s3.window w = s1.window w := by
      unfold s3
      cases x.scrubSlot <;> rfl
    rw [this]
    exact State.window_setWindow ..
  have dropped : Drops e x s (s3.setEntry e none) := by
    refine ⟨fun d => ?_, fun w hw => (window w).trans (if_neg hw), ?_, fun b i => ?_, fun b => ?_, ?_⟩
    · rw [State.entry_setEntry]
      have : s3.entry d = s.entry d := by
        unfold s3
        cases x.scrubSlot <;> rfl
      rw [this]
    all_goals
      unfold s3
      cases x.scrubSlot <;> rfl
  have same := SameChanges.finish (s3.setEntry e none) x.tag .abandoned (some r.generation) x.lost none
  refine ⟨dropped.of_same same (State.finish_park ..), ?_⟩
  rw [same.window]
  show (s3.window x.window).live = _
  rw [window, if_pos rfl]

/-- A change that hits no holding leaves the rights held within the new record. -/
theorem Drops.rights {l : LiveFields} (h : Drops e x s t) (k : RightsLaw s) (hl : (s.window x.window).live = some l)
    (live : (t.window x.window).live = (x.kind.applied (s.window x.window) l).live)
    (unhit : ∀ a i h, s.held a i = some h → h.window = x.window → ¬x.kind.hits l a h.rights) : RightsLaw t := by
  intro b i z hz
  have hz : s.held b i = some z := (h.held b i).symm.trans hz
  obtain ⟨hw, hr, l', hl', within, hcls, allowed⟩ := k b i z hz
  refine ⟨hw, hr, ?_⟩
  rw [h.context]
  by_cases hzx : z.window = x.window
  · have miss := unhit b i z hz hzx
    rw [hzx] at hl' ⊢
    cases hl'.symm.trans hl
    rw [live]
    match hk : x.kind with
    | .retire =>
      rw [hk] at miss
      exact (miss trivial).elim
    | .change q r n =>
      rw [hk] at miss
      refine ⟨_, rfl, ?_, hcls, allowed⟩
      cases q with
      | none => exact within
      | some q =>
        rw [← Bool.not_eq_true]
        intro exceeds
        refine miss (.inr ⟨q, rfl, ?_⟩)
        rw [← storedRights_eq]
        exact exceeds
  · rw [h.window _ hzx]
    exact ⟨l', hl', within, hcls, allowed⟩

theorem Drops.rights_kept (h : Drops e x s t) (k : RightsLaw s)
    (live : (t.window x.window).live = (s.window x.window).live) : RightsLaw t := by
  intro b i z hz
  have live' (w : Nat) : (t.window w).live = (s.window w).live := by
    by_cases hw : w = x.window
    · rw [hw, live]
    · rw [h.window w hw]
  rw [h.context, live']
  exact k b i z ((h.held b i).symm.trans hz)

/-- An entry that is in its round and awaits nobody hits no holding. -/
theorem ChangeLaw.unhit {l : LiveFields} (h : ChangeLaw p s) (hx : s.entry e = some x) (hs : x.state ≠ .held)
    (ha : ∀ a : AgentId, x.awaited[a] = false) (hl : (s.window x.window).live = some l) (a : AgentId) (i : Fin 64)
    (y : Holding) (hy : s.held a i = some y) (hw : y.window = x.window) : ¬x.kind.hits l a y.rights := fun hk => by
  have := h.covered e x l a i y hx hs hl hy hw hk
  rw [ha] at this
  cases this

theorem ChangeLaw.ready_awaits (h : ChangeLaw p s) (hx : s.entry e = some x) (hs : x.state = .ready) (a : AgentId) :
    x.awaited[a] = false := by
  rw [← Bool.not_eq_true]
  intro ha
  have := h.waits e x a hx ha
  rw [hs] at this
  cases this

/-- Nothing ends when the entry is FREE already. -/
theorem Settles.of_free (h : ChangeLaw p s) (he : s.entry e = none) : Settles p s s [e] := by
  refine (Settles.refl h).congr fun d hd => ?_
  rw [List.mem_singleton]
  refine iff_of_false nofun ?_
  rintro rfl
  obtain ⟨y, hy, -⟩ := hd
  cases he.symm.trans hy

/-- The members of a group that is being applied or abandoned end one after another. -/
theorem foldl_members_settles {f : State → Fin 16 → State} {g : Fin 4} {n : Nat} (hg : p.Busy g)
    (ends : ∀ {s e}, ChangeLaw p s → s.waiting ≤ n → e ∈ (s.group g).members →
      Settles p s (f s e) [e] ∧ (f s e).entry e = none) :
    ∀ (L : List (Fin 16)) {s : State}, ChangeLaw p s → s.waiting ≤ n → (∀ e ∈ L, e ∈ (s.group g).members) →
      Settles p s (L.foldl f s) L ∧ ∀ e ∈ L, (L.foldl f s).entry e = none
  | [], _, h, _, _ => ⟨.refl h, nofun⟩
  | e :: L, s, h, hn, members => by
    obtain ⟨settled, ended⟩ := ends h hn (members e (.head L))
    obtain ⟨rest, gone⟩ := foldl_members_settles hg ends L settled.law (settled.shrinks.onlyEnds.waiting.trans hn)
      fun d hd => by
        rw [settled.shrinks.groups g hg]
        exact members d (.tail e hd)
    refine ⟨settled.trans rest, fun d hd => ?_⟩
    obtain rfl | hd := List.mem_cons.1 hd
    · exact rest.shrinks.ended ended
    · exact gone d hd

/-- No entry of a group is left once its members have ended. -/
theorem Settles.gone {L : List (Fin 16)} {g : Fin 4} (h : Settles p s t L) (hg : p.Busy g)
    (ended : ∀ e ∈ (s.group g).members, t.entry e = none) (e : Fin 16) (x : Entry) (hx : t.entry e = some x) :
    x.group ≠ some g := fun hxg => by
  have member := h.law.member e x g hx hxg
  rw [h.shrinks.groups g hg] at member
  cases (ended e member).symm.trans hx

section
variable {k : EndWait} {n : Nat} (hk : EndsWell p.abandoning k n)
include hk

theorem applyEntry_settles (h : ChangeLaw p s) (hn : s.waiting ≤ n) (hx : s.entry e = some x)
    (busy : ∀ g, x.group = some g → p.Busy g)
    (unhit : ∀ l, (s.window x.window).live = some l →
      ∀ a i y, s.held a i = some y → y.window = x.window → ¬x.kind.hits l a y.rights) :
    Settles p s (applyEntry k p.abandoning e s) [e] ∧ (applyEntry k p.abandoning e s).entry e = none := by
  obtain ⟨l, hl⟩ := Option.ne_none_iff_exists'.1 (h.live e x hx).2
  obtain ⟨dropped, live⟩ := State.applyParts_drops (e := e) hl
  unfold applyEntry
  rw [hx]
  exact dropped.retake hk h hn hx busy (State.applyParts_pendingLaw h.pending hx)
    (State.applyParts_holderLaw h.holders e x)
    (dropped.rights h.rights hl live (unhit l hl))

/-! ## The application of a group -/

theorem applyMember_settles {g : Fin 4} (hg : p.applying g) (h : ChangeLaw p s) (hn : s.waiting ≤ n)
    (member : e ∈ (s.group g).members) :
    Settles p s (applyEntry k p.abandoning e s) [e] ∧ (applyEntry k p.abandoning e s).entry e = none := by
  cases hx : s.entry e with
  | none =>
    have same : applyEntry k p.abandoning e s = s := by
      unfold applyEntry
      rw [hx]
    rw [same]
    exact ⟨.of_free h hx, hx⟩
  | some x =>
    have group := h.listed e x g member hx
    have ready := h.ready g hg e x hx group
    refine applyEntry_settles hk h hn hx (fun c hc => ?_) fun l hl =>
      h.unhit hx (by simp [ready]) (h.ready_awaits hx ready) hl
    cases hc.symm.trans group
    exact .inl hg

end

/-- A group more is being applied. -/
def Phase.apply (p : Phase) (g : Fin 4) : Phase := { p with applying := fun c => c = g ∨ p.applying c }

theorem Phase.busy_apply {g c : Fin 4} : (p.apply g).Busy c ↔ c = g ∨ p.Busy c := or_assoc

/-- The record of a group none of whose members is left is written, with no member. -/
theorem ChangeLaw.setGroup {q : Phase} {g : Fin 4} {y : Group} (h : ChangeLaw q s) (members : y.members = [])
    (state : ∀ c, y.state ≠ .recalling c) (gone : ∀ e x, s.entry e = some x → x.group ≠ some g)
    (busy : ∀ c, q.Busy c → c = g ∨ p.Busy c) (applying : ∀ c, p.applying c → q.applying c)
    (spared : ∀ x, x.group ≠ some g → q.Spared x → p.Spared x) (fresh : q.fresh = p.fresh)
    (starting : q.starting = p.starting) : ChangeLaw p (s.setGroup g y) where
  pending := h.pending.of_eq rfl
  holders := h.holders.of_eq rfl
  rights := h.rights
  live := h.live
  alone e x hx := fresh ▸ h.alone e x hx
  member e x c hx hc := by
    rw [State.group_setGroup, if_neg fun hcg : c = g => gone e x hx (hcg ▸ hc)]
    exact h.member e x c hx hc
  listed e x c he hx := by
    rw [State.group_setGroup] at he
    split at he
    · cases members ▸ he
    · exact h.listed e x c he hx
  full c hc e he := by
    rw [State.group_setGroup] at he
    split at he
    · cases members ▸ he
    · exact h.full c (fun hb => (busy c hb).elim ‹_› hc) e he
  limit c := by
    rw [State.group_setGroup]
    split
    · rw [members]
      exact ⟨by decide, List.nodup_nil⟩
    · exact h.limit c
  free c hf := by
    rw [State.group_setGroup] at hf ⊢
    split at hf
    · rw [if_pos ‹_›]
      exact members
    · rw [if_neg ‹_›]
      exact h.free c hf
  opened c hs ho e x hx hc := by
    rw [State.group_setGroup, if_neg fun hcg : c = g => gone e x hx (hcg ▸ hc)] at ho
    exact h.opened c (starting ▸ hs) ho e x hx hc
  recalling c r hr e x hx hc := by
    rw [State.group_setGroup, if_neg fun hcg : c = g => gone e x hx (hcg ▸ hc)] at hr
    exact h.recalling c r hr e x hx hc
  unready c r hb hr := by
    rw [State.group_setGroup] at hr ⊢
    split at hr
    · exact absurd hr (state r)
    · rw [if_neg ‹_›]
      exact h.unready c r (fun hq => (busy c hq).elim ‹_› hb) hr
  ready c hc := h.ready c (applying c hc)
  holds e x a hx hs := h.holds e x a hx fun hq => hs (spared x (gone e x hx) hq)
  covered := h.covered
  waits := h.waits
  deadline := h.deadline
  parked := h.parked

theorem State.closeGroup_same (s : State) (g : Fin 4) (o : DoneOutcome) (l : FinSet 8) :
    ∃ t, SameChanges s t ∧ t.park = s.park ∧ s.closeGroup g o l = t.setGroup g .initial := by
  unfold State.closeGroup
  dsimp only
  split
  · exact ⟨_, SameChanges.finish .., State.finish_park .., rfl⟩
  · exact ⟨s, .refl s, rfl, rfl⟩

theorem Shrinks.weaken {q : Phase} (h : Shrinks q s t) (busy : ∀ c, p.Busy c → q.Busy c) : Shrinks p s t :=
  ⟨h.entries, fun c hc => h.groups c (busy c hc), h.park⟩

section
variable {k : EndWait} {n : Nat} (hk : EndsWell p.abandoning k n)
include hk

theorem applyGroup_settles {g : Fin 4} (h : ChangeLaw (p.apply g) s) (hb : ¬p.Busy g) (hn : s.waiting ≤ n) :
    Settles p s (applyGroup k p.abandoning g s) [] := by
  obtain ⟨settled, ended⟩ := foldl_members_settles (p := p.apply g) (.inl (.inl rfl))
    (fun h hn => applyMember_settles (p := p.apply g) hk (.inl rfl) h hn) (s.group g).members h hn fun _ => id
  unfold applyGroup
  obtain ⟨t, same, -, close⟩ := State.closeGroup_same
    ((s.group g).members.foldl (fun s e => applyEntry k p.abandoning e s) s) g .applied (s.groupLost g)
  rw [close]
  have kept := settled.trans (same.settles settled.law)
  have gone := kept.gone (.inl (.inl rfl)) fun e he => (same.entry e).trans (ended e he)
  refine ⟨kept.law.setGroup rfl nofun gone (fun c => Phase.busy_apply.1) (fun c => .inr) (fun _ _ => id) rfl rfl, ?_,
    fun e => ?_⟩
  · have shrinks : Shrinks p s t := kept.shrinks.weaken fun c hc => Phase.busy_apply.2 (.inr hc)
    refine ⟨shrinks.entries, fun c hc => ?_, shrinks.park⟩
    rw [State.group_setGroup, if_neg fun hcg : c = g => hb (hcg ▸ hc)]
    exact shrinks.groups c hc
  · have due := kept.due e
    rw [List.append_nil] at due
    refine due.trans (and_congr_right fun ⟨x, hx, hs, _⟩ => iff_of_true (fun he => ?_) nofun)
    have := h.ready g (.inl rfl) e x hx (h.listed e x g he hx)
    rw [hs] at this
    cases this

end

/-! ## The end of an entry's waiting -/

/-- What the laws say of one entry, by itself. -/
structure EntryLaw (p : Phase) (s : State) (e : Fin 16) (x : Entry) : Prop where
  alone : p.fresh ≠ some e → x.group = none → x.state = .recalling
  opened : ∀ g, p.starting ≠ some g → (s.group g).state = .opened → x.group = some g → x.state = .held
  recalling : ∀ g c, (s.group g).state = .recalling c → x.group = some g → x.state ≠ .held
  ready : ∀ g, p.applying g → x.group = some g → x.state = .ready
  holds : ∀ a : AgentId, ¬p.Spared x → x.awaited[a] = true → ∃ i h, s.held a i = some h ∧ h.window = x.window
  covered : ∀ l (a : AgentId) i h, x.state ≠ .held → (s.window x.window).live = some l → s.held a i = some h →
    h.window = x.window → x.kind.hits l a h.rights → x.awaited[a] = true
  waits : ∀ a : AgentId, x.awaited[a] = true → x.state = .recalling
  deadline : x.deadline = .stopped ↔ x.state = .held

theorem ChangeLaw.entryLaw (h : ChangeLaw p s) (hx : s.entry e = some x) : EntryLaw p s e x where
  alone := h.alone e x hx
  opened g hs ho := h.opened g hs ho e x hx
  recalling g c hr := h.recalling g c hr e x hx
  ready g hg := h.ready g hg e x hx
  holds a hs := h.holds e x a hx hs
  covered l a i y hs := h.covered e x l a i y hx hs
  waits a := h.waits e x a hx
  deadline := h.deadline e x hx

/-- An entry is written that goes on with its request. -/
theorem ChangeLaw.setEntry {q : Phase} {y : Entry} (h : ChangeLaw p s) (hx : s.entry e = some x)
    (same : x.SameRequest y) (own : EntryLaw q s e y) (round : x.state ≠ .held → y.state ≠ .held)
    (others : ∀ d z, d ≠ e → s.entry d = some z → EntryLaw q s d z) (busy : ∀ c, ¬q.Busy c → ¬p.Busy c)
    (unready : ∀ g c, ¬q.Busy g → (s.group g).state = .recalling c → ∃ d ∈ (s.group g).members,
      ∃ z, (s.setEntry e (some y)).entry d = some z ∧ z.state ≠ .ready) :
    ChangeLaw q (s.setEntry e (some y)) := by
  have entry (d : Fin 16) : (s.setEntry e (some y)).entry d = if d = e then some y else s.entry d :=
    State.entry_setEntry ..
  have law {d : Fin 16} {z : Entry} (hz : (s.setEntry e (some y)).entry d = some z) : EntryLaw q s d z := by
    rw [entry] at hz
    split at hz
    · cases hz
      exact ‹d = e› ▸ own
    · exact others d z ‹_› hz
  have former {d : Fin 16} {z : Entry} (hz : (s.setEntry e (some y)).entry d = some z) :
      ∃ x, s.entry d = some x ∧ z.window = x.window ∧ z.group = x.group := by
    rw [entry] at hz
    split at hz
    · cases hz
      exact ⟨x, ‹d = e› ▸ hx, same.window, same.group⟩
    · exact ⟨z, hz, rfl, rfl⟩
  exact
    { pending := by
        refine h.pending.of_same (fun w => rfl) fun d => ?_
        rw [State.changed_setEntry]
        split
        · subst_vars
          rw [Option.map_some, same.window, State.changed, hx]
          rfl
        · rfl
      holders := h.holders.of_eq rfl
      rights := h.rights
      live := fun d z hz => by
        obtain ⟨x, hx, hw, -⟩ := former hz
        exact hw ▸ h.live d x hx
      alone := fun d z hz => (law hz).alone
      member := fun d z g hz hg => by
        obtain ⟨x, hx, -, hxg⟩ := former hz
        exact h.member d x g hx (hxg ▸ hg)
      listed := fun d z g hd hz => by
        obtain ⟨x, hx, -, hxg⟩ := former hz
        exact hxg.trans (h.listed d x g hd hx)
      full := fun g hg d hd => by
        rw [entry]
        split
        · nofun
        · exact h.full g (busy g hg) d hd
      limit := h.limit
      free := h.free
      opened := fun g hs ho d z hz => (law hz).opened g hs ho
      recalling := fun g c hr d z hz => (law hz).recalling g c hr
      unready := unready
      ready := fun g hg d z hz => (law hz).ready g hg
      holds := fun d z a hz hs => (law hz).holds a hs
      covered := fun d z l a i y hz hs => (law hz).covered l a i y hs
      waits := fun d z a hz => (law hz).waits a
      deadline := fun d z hz => (law hz).deadline
      parked := fun q hq => by
        obtain ⟨hw, hr, hc⟩ := h.parked q hq
        refine ⟨hw, hr, State.condition_eq_inRecall.2 ?_⟩
        obtain ⟨d, z, hp, hz, hst⟩ := State.condition_eq_inRecall.1 hc
        by_cases hd : d = e
        · subst hd
          cases hx.symm.trans hz
          exact ⟨d, y, hp, (entry d).trans (if_pos rfl), round hst⟩
        · exact ⟨d, z, hp, (entry d).trans ((if_neg hd).trans hz), hst⟩ }

/-- A due member becomes READY; its group may be applied from then on when every member is. -/
theorem ChangeLaw.setReady {g : Fin 4} {A : Fin 4 → Prop} (h : ChangeLaw p s) (hx : s.entry e = some x)
    (hg : x.group = some g) (hs : x.state = .recalling) (ha : ∀ a : AgentId, x.awaited[a] = false)
    (hA : ∀ c, p.applying c → A c)
    (ready : ∀ c, A c → p.applying c ∨ ∀ d y, d ≠ e → s.entry d = some y → y.group = some c → y.state = .ready)
    (unready : ¬Phase.Busy { p with applying := A } g → ∀ c, (s.group g).state = .recalling c →
      ∃ d ∈ (s.group g).members,
      ∃ y, (s.setEntry e (some { x with state := .ready })).entry d = some y ∧ y.state ≠ .ready) :
    ChangeLaw { p with applying := A } (s.setEntry e (some { x with state := .ready })) := by
  have own := h.entryLaw hx
  have round : x.state ≠ .held := by simp [hs]
  refine h.setEntry hx ⟨rfl, rfl, rfl, rfl, rfl⟩ ?_ (fun _ => nofun) (fun d z hd hz => ?_)
    (fun c hc hb => hc (hb.imp_left (hA c))) fun c r hb hr => ?_
  · exact
      { alone := fun _ hn => by cases hg.symm.trans hn
        opened := fun c hc ho hcg => by cases hs.symm.trans (own.opened c hc ho hcg)
        recalling := fun _ _ _ _ => nofun
        ready := fun _ _ _ => rfl
        holds := own.holds
        covered := fun l a i y _ => own.covered l a i y round
        waits := fun a hay => by cases (ha a).symm.trans hay
        deadline := iff_of_false (fun hd => round (own.deadline.1 hd)) nofun }
  · have other := h.entryLaw hz
    exact { other with
      ready := fun c hc hcg => (ready c hc).elim (fun hp => other.ready c hp hcg) fun hr => hr d z hd hz hcg }
  · by_cases hcg : c = g
    · subst hcg
      exact unready hb r hr
    · obtain ⟨d, hd, y, hy, hst⟩ := h.unready c r (fun hp => hb (hp.imp_left (hA c))) hr
      refine ⟨d, hd, y, (State.entry_setEntry ..).trans ((if_neg ?_).trans hy), hst⟩
      rintro rfl
      exact hcg (Option.some.inj ((h.listed d x c hd hx).symm.trans hg))

theorem State.allReady_iff {g : Fin 4} :
    s.allReady g = true ↔ ∀ e ∈ (s.group g).members, ∃ x, s.entry e = some x ∧ x.state = .ready := by
  unfold State.allReady
  rw [List.all_eq_true]
  refine forall₂_congr fun e _ => ?_
  cases s.entry e <;> simp

section
variable {k : EndWait} {n : Nat} (hk : EndsWell p.abandoning k n)
include hk

theorem endWaiting_settles (h : ChangeLaw p s) (due : s.Due e) (unspared : ∀ x, s.entry e = some x → ¬p.Spared x)
    (hn : s.waiting ≤ n) : Settles p s (endWaiting k p.abandoning e s) [e] := by
  obtain ⟨x, hx, hs, ha⟩ := due
  have round : x.state ≠ .held := by simp [hs]
  unfold endWaiting
  rw [hx]
  dsimp only
  split
  · rename_i hg
    exact (applyEntry_settles hk h hn hx (fun g hxg => by cases hg.symm.trans hxg) fun l => h.unhit hx round ha).1
  · rename_i g hg
    have hb : ¬p.Busy g := by
      rintro (hb | hb)
      · cases hs.symm.trans (h.ready g hb e x hx hg)
      · exact unspared x hx ⟨g, hg, hb⟩
    generalize ht : s.setEntry e (some { x with state := .ready }) = t
    have entry (d : Fin 16) : t.entry d = if d = e then some { x with state := .ready } else s.entry d := by
      rw [← ht]
      exact State.entry_setEntry ..
    have group (c : Fin 4) : t.group c = s.group c := by rw [← ht]; rfl
    have shrinks : Shrinks p s t := by
      refine ⟨fun d y hy => ?_, fun c _ => group c, fun q hq => by rw [← ht] at hq; exact hq⟩
      rw [entry] at hy
      split at hy
      · cases hy
        subst_vars
        exact ⟨x, hx, rfl, rfl, rfl, rfl, fun _ => id⟩
      · exact ⟨y, hy, .refl y⟩
    have due (d : Fin 16) : t.Due d ↔ s.Due d ∧ d ∉ [e] := by
      unfold State.Due
      rw [entry, List.mem_singleton]
      split <;> simp [*]
    split
    · rename_i all
      have law : ChangeLaw (p.apply g) t := by
        rw [← ht] at all ⊢
        refine h.setReady hx hg hs ha (fun c => .inr) (fun c hc => hc.symm.imp_right ?_) fun hb =>
          absurd (.inl (.inl rfl)) hb
        rintro rfl d y hd hy hyc
        obtain ⟨z, hz, hst⟩ := State.allReady_iff.1 all d (h.member d y c hy hyc)
        rw [State.entry_setEntry, if_neg hd] at hz
        cases hy.symm.trans hz
        exact hst
      have applied := applyGroup_settles hk law hb ((shrinks.onlyEnds.waiting).trans hn)
      exact ⟨applied.law, shrinks.trans applied.shrinks, fun d => by rw [applied.due, due]; simp⟩
    · rename_i all
      refine ⟨?_, shrinks, due⟩
      have law : ChangeLaw { p with applying := p.applying } t := by
        rw [← ht] at all ⊢
        refine h.setReady hx hg hs ha (fun c => id) (fun c => .inl) fun _ r hr => ?_
        rw [State.allReady_iff] at all
        simp only [not_forall, not_exists, not_and] at all
        obtain ⟨d, hd, hst⟩ := all
        refine ⟨d, hd, ?_⟩
        have full : (s.setEntry e (some { x with state := .ready })).entry d ≠ none := by
          rw [State.entry_setEntry]
          split
          · nofun
          · exact h.full g hb d hd
        obtain ⟨y, hy⟩ := Option.ne_none_iff_exists'.1 full
        exact ⟨y, hy, hst y hy⟩
      exact law

end

/-- The recursion ends the waiting of every due entry, when it is as deep as the entries that await are many. -/
theorem cascadeDepth_endsWell (ab : Option (Fin 4)) : ∀ n, EndsWell ab (cascadeDepth ab n) n
  | 0 => fun _ _ _ _ _ _ _ h => absurd h (Nat.not_lt_zero _)
  | n + 1 => by
    rintro p e t rfl h due unspared hn
    exact endWaiting_settles (cascadeDepth_endsWell p.abandoning n) h due unspared (Nat.le_of_lt_succ hn)

end Sys2Proof.Machine
end

section
/-!
SUPPORT of O56 and O57: the laws between actions, and the actions that bring no change into being. Each writes records
that the laws do not read, or removes and grants holdings and lets the entries that it makes due come to their end.
-/

namespace Sys2Proof.Machine

variable {s t u : State} {a : AgentId} {p : Phase} {e : Fin 16} {x : Entry}

theorem SlotTable.initial_slots (i : Fin 64) : SlotTable.initial.slots[i] = none := Vector.getElem_replicate ..

/-- What the laws of changes, holdings and parked lookups come to between actions. -/
structure Between (s : State) : Prop where
  law : ChangeLaw .rest s
  settled : s.Settled
  admitted : AdmittedLaw s

theorem DeviceLaw.between (h : DeviceLaw s) : Between s := ⟨h.changeLaw, h.settled, h.admittedLaw⟩

theorem Between.groupLaw (h : Between s) : GroupLaw s := h.law.groupLaw

theorem Between.roundLaw (h : Between s) : RoundLaw s := h.law.roundLaw h.settled h.admitted

/-- Ports that are ADMITTED stay so. -/
def KeepsAdmitted (s t : State) : Prop := ∀ a, (s.port a).state = .admitted → (t.port a).state = .admitted

theorem Steady.keepsAdmitted (h : Steady s t) : KeepsAdmitted s t := fun a ha => (h.state a).trans ha

theorem AdmittedLaw.shrinks (h : AdmittedLaw s) (k : Shrinks p s t) (ports : KeepsAdmitted s t) : AdmittedLaw t := by
  refine ⟨fun e y a hy ha => ?_, fun q hq => ports _ (h.parked q (k.park q hq))⟩
  obtain ⟨x, hx, ebb⟩ := k.entries e y hy
  exact ports a (h.awaited e x a hx (ebb.awaited a ha))

theorem Between.settles (h : Between s) {L : List (Fin 16)} (k : Settles .rest s t L) (ports : KeepsAdmitted s t) :
    Between t :=
  ⟨k.law, fun e he => h.settled e ((k.due e).1 he).1, h.admitted.shrinks k.shrinks ports⟩

theorem Between.records (h : Between s) (k : SameRecords s t) (rights : RightsLaw t) (ports : KeepsAdmitted s t) :
    Between t :=
  h.settles (L := []) ⟨k.law h.law rights, k.shrinks _, fun e => by simp [k.due]⟩ ports

theorem Between.same (h : Between s) (k : SameChanges s t) (ports : KeepsAdmitted s t) : Between t :=
  h.settles (k.settles h.law) ports

/-- An action writes nothing that the laws read. -/
theorem Between.of_eq (h : Between s)
    (k : (t.windows, t.tables, t.ports, t.park, t.entries, t.groups) =
      (s.windows, s.tables, s.ports, s.park, s.entries, s.groups)) : Between t := by
  simp only [Prod.mk.injEq] at k
  obtain ⟨windows, tables, ports, park, entries, groups⟩ := k
  refine h.same ⟨⟨windows, entries, groups, fun a i => ?_, fun q hq => park ▸ hq⟩, fun a => ?_⟩ fun a ha => ?_
  · simp only [State.held, State.table, tables]
  · simp only [State.port, ports]
  · simpa only [State.port, ports] using ha

theorem EngineOnly.between (k : EngineOnly s t) (h : Between s) : Between t :=
  h.of_eq (by rw [k.windows, k.tables, k.ports, k.park, k.entries, k.groups])

/-- The port of an agent that is not ADMITTED is written, with its context as it was. -/
theorem Between.setPort (h : Between s) (ha : (s.port a).state ≠ .admitted) {x : Port}
    (hx : x.context = (s.port a).context) : Between (s.setPort a x) := by
  refine h.same (.setPort s hx) fun b hb => ?_
  rw [State.port_setPort, if_neg]
  · exact hb
  · rintro rfl
    exact ha hb

theorem cascade_endsWell : EndsWell none cascade 16 := cascadeDepth_endsWell none 16

theorem State.waiting_le (s : State) : s.waiting ≤ 16 := (Finset.card_le_univ _).trans_eq (Finset.card_fin 16)

/-- Removals, and the ends of the entries that they make due. -/
theorem Between.endWaits (h : Between s) (r : Releases .rest s t) (law : ChangeLaw .rest t) (admitted : AdmittedLaw t) :
    Between (endWaits cascade s t) := by
  have hk : EndsWell Phase.rest.abandoning cascade 16 := cascade_endsWell
  have settled := endWaits_settles hk h.law r law s.waiting_le
  have ended := endWaits_ends hk h.law r law s.waiting_le
  exact ⟨settled.law, fun e he => h.settled e ((settled.due e).1 he).1,
    admitted.shrinks ended.shrinks (endWaits_cascade_steady s t).keepsAdmitted⟩

/-- The same where no port leaves ADMITTED. -/
theorem Between.releases (h : Between s) (r : Releases .rest s t) (law : ChangeLaw .rest t)
    (ports : KeepsAdmitted s t) :
    Between (Machine.endWaits cascade s t) :=
  h.endWaits r law (h.admitted.shrinks r.shrinks ports)

theorem Between.postPort (h : Between s) (a : AgentId) : Between (s.postPort a) := by
  refine (deliver_engineOnly _ _).between ?_
  exact h.of_eq rfl

/-! ## Requests of an ADMITTED agent -/

theorem Between.takeReleased (h : Between s) (a : AgentId) (w g : BitVec 16) : Between (takeReleased a w g s) := by
  have forgotten : SameChanges s (s.forgetRecall a w.toNat) := .setTable s rfl
  unfold Machine.takeReleased
  dsimp only
  split
  · exact h.same forgotten fun _ => id
  · rename_i i _
    obtain ⟨law, removed⟩ := (forgotten.law h.law).removeSlot a false i
    exact h.releases (forgotten.releases.trans removed) law
      ((State.setTable_steady s a _).trans (State.removeSlot_steady ..)).keepsAdmitted

theorem Between.takeReturn (h : Between s) (a : AgentId) (i : Fin 64) : Between (takeReturn a i s) := by
  obtain ⟨law, removed⟩ := h.law.removeSlot a false i
  have sent := SameChanges.sendAgent (s.removeSlot none a false i) a (.returned i (s.table a).slots[i].isSome)
  exact h.releases (removed.trans sent.releases) (sent.law law)
    ((State.removeSlot_steady s none a false i).trans (State.sendAgent_steady ..)).keepsAdmitted

theorem Between.takeFlush (h : Between s) (a : AgentId) : Between (takeFlush a s) := by
  obtain ⟨law, removed⟩ := h.law.removeWhere rfl a false fun _ => true
  have steady := State.removeWhere_steady s a false fun _ => true
  unfold Machine.takeFlush
  generalize s.removeWhere a false (fun _ => true) = r at *
  have pointed : SameChanges r (r.setPointer a 0) := .setTable r rfl
  have sent : SameChanges r ((r.setPointer a 0).sendAgent a .flushed) := pointed.trans (.sendAgent ..)
  exact h.releases (removed.trans sent.releases) (sent.law law)
    (steady.trans ((State.setTable_steady r a _).trans (State.sendAgent_steady ..))).keepsAdmitted

/-- The context of an agent is written that holds nothing BOUND. -/
theorem RightsLaw.setContext (h : RightsLaw s) {port : Port}
    (unbound : ∀ i y, s.held a i = some y → y.isBound = false) : RightsLaw (s.setPort a port) := by
  intro b i y hy
  obtain ⟨hw, hr, l, hl, within, cls, allowed⟩ := h b i y hy
  refine ⟨hw, hr, l, hl, within, cls, ?_⟩
  rw [State.port_setPort]
  split
  · subst_vars
    have shared := unbound i y hy
    unfold Holding.isBound at shared
    cases hc : l.cls with
    | shared => rfl
    | bound => simp [cls, hc, WindowClass.name] at shared
  · exact allowed

theorem Between.takeSwitch (h : Between s) (a : AgentId) (c : Fin 16) : Between (takeSwitch a c s) := by
  obtain ⟨law, removed⟩ := h.law.removeWhere rfl a false Holding.isBound
  have steady := State.removeWhere_steady s a false Holding.isBound
  have unbound : ∀ i y, (s.removeWhere a false Holding.isBound).held a i = some y → y.isBound = false :=
      fun i y hy => by
    rw [(s.removeWhere_removed a false Holding.isBound).held] at hy
    split at hy
    · cases hy
    · rename_i hn
      simpa [hy] using hn
  unfold Machine.takeSwitch
  dsimp only
  generalize s.removeWhere a false Holding.isBound = r at *
  have same : SameRecords r (r.setPort a { r.port a with context := c }) := ⟨rfl, rfl, rfl, fun _ _ => rfl, fun _ => id⟩
  have sent := SameChanges.sendAgent (r.setPort a { r.port a with context := c }) a
    (.switched c ((s.table a).count Holding.isBound))
  refine h.releases (removed.trans (same.releases.trans sent.releases))
    (sent.law (same.law law (law.rights.setContext unbound))) fun b hb => ?_
  rw [State.sendAgent_port, State.port_setPort]
  have hb : (r.port b).state = .admitted := steady.keepsAdmitted b hb
  split
  · subst_vars
    exact hb
  · exact hb

theorem takeLookup_steady (a : AgentId) (n : Fin 4) (w : Nat) (r : Rights) (s : State) :
    Steady s (takeLookup a n w r s) := by
  unfold takeLookup
  split
  · split
    · exact (State.setPark_steady ..).trans (State.setLookupTag_steady ..)
    · exact State.sendAgent_steady ..
  · unfold answerLookup
    split
    · exact State.sendAgent_steady ..
    · split
      · exact State.sendAgent_steady ..
      · exact grant_steady (fun e t h => h.trans (cascade_steady e t)) none a n w r _ s (.refl s)

theorem ChangeLaw.setPark (h : ChangeLaw p s) {l : List Parked}
    (parked : ∀ q ∈ l, q.window < 4096 ∧ q.rights ≠ .none ∧ s.condition q.window = .inRecall) :
    ChangeLaw p (s.setPark l) where
  pending := h.pending.of_eq rfl
  holders := h.holders.of_eq rfl
  rights := h.rights
  live := h.live
  alone := h.alone
  member := h.member
  listed := h.listed
  full := h.full
  limit := h.limit
  free := h.free
  opened := h.opened
  recalling := h.recalling
  unready := h.unready
  ready := h.ready
  holds := h.holds
  covered := h.covered
  waits := h.waits
  deadline := h.deadline
  parked := parked

/-- A lookup is parked. -/
theorem Between.park (h : Between s) {q : Parked} (hw : q.window < 4096) (hr : q.rights ≠ .none)
    (hc : s.condition q.window = .inRecall) (ha : (s.port q.agent).state = .admitted) :
    Between (s.setPark (s.park ++ [q])) := by
  have mem {c : Parked} (hq : c ∈ s.park ++ [q]) : c ∈ s.park ∨ c = q := by simpa using hq
  refine ⟨h.law.setPark fun c hq => ?_, h.settled, ⟨h.admitted.awaited, fun c hq => ?_⟩⟩
  · obtain hq | rfl := mem hq
    · exact h.law.parked c hq
    · exact ⟨hw, hr, hc⟩
  · obtain hq | rfl := mem hq
    · exact h.admitted.parked c hq
    · exact ha

theorem Between.takeLookup (h : Between s) (ha : (s.port a).state = .admitted) (n : Fin 4) {w : Nat} {r : Rights}
    (hw : w < 4096) (hr : r ≠ .none) : Between (takeLookup a n w r s) := by
  have ports := (takeLookup_steady a n w r s).keepsAdmitted
  unfold Machine.takeLookup at ports ⊢
  split
  · rename_i hc
    split
    · exact (h.park (q := { agent := a, tag := n, window := w, rights := r }) hw hr hc.1 ha).same (.setPort _ (by rfl))
        (State.setLookupTag_steady ..).keepsAdmitted
    · exact h.same (.sendAgent ..) (State.sendAgent_steady ..).keepsAdmitted
  · rename_i hc
    rw [if_neg hc] at ports
    by_cases hl : (s.window w).live = none
    · unfold answerLookup
      rw [hl]
      exact h.same (.sendAgent ..) (State.sendAgent_steady ..).keepsAdmitted
    · have hk : EndsWell Phase.rest.abandoning cascade 16 := cascade_endsWell
      refine h.settles (answerLookup_settles hk h.law s.waiting_le a n hw hr fun e x hx hxw => ?_) ports
      by_contra hs
      exact hc ⟨State.condition_eq_inRecall.2 ⟨e, x, hxw ▸ h.law.pending.named e x hx, hx, hs⟩, hl⟩

/-! ## Departures -/

theorem EngineOnly.sameChanges (k : EngineOnly s t) : SameChanges s t := by
  refine ⟨⟨k.windows, k.entries, k.groups, fun a i => ?_, fun q hq => k.park ▸ hq⟩, fun a => ?_⟩
  · simp only [State.held, State.table, k.tables]
  · simp only [State.port, k.ports]

theorem SameChanges.of_outbox (s : State) (o : List Notice) : SameChanges s (s.setOutbox o) :=
  ⟨⟨rfl, rfl, rfl, fun _ _ => rfl, fun _ => id⟩, fun _ => rfl⟩

theorem SameChanges.postPort (s : State) (a : AgentId) : SameChanges s (s.postPort a) :=
  (SameChanges.of_outbox s _).trans (deliver_engineOnly _ _).sameChanges

theorem SameChanges.unpark (s : State) (f : Parked → Bool) : SameChanges s (s.setPark (s.park.filter f)) :=
  ⟨⟨rfl, rfl, rfl, fun _ _ => rfl, fun _ hq => (List.mem_filter.1 hq).1⟩, fun _ => rfl⟩

/-- A departure is the removal of the agent's holdings, as far as the laws read it (R142). -/
theorem ChangeLaw.departParts (h : ChangeLaw .rest s) (a : AgentId) (st : PortState) (r : PortReason)
    (fenced posted : Bool) :
    ChangeLaw .rest (s.departParts a st r fenced posted) ∧ Releases .rest s (s.departParts a st r fenced posted) := by
  unfold State.departParts
  extract_lets port s1 s2 table s3 s4 tags s5 s6
  have c1 : SameChanges s s1 := (SameChanges.setPort s (by rfl)).trans
      ⟨⟨rfl, rfl, rfl, fun _ _ => rfl, fun _ => id⟩, fun _ => rfl⟩
  obtain ⟨law, removed⟩ : ChangeLaw .rest s2 ∧ Releases .rest s1 s2 := (c1.law h).removeWhere rfl a true fun _ => true
  clear_value s2
  have c3 : SameChanges s2 s3 := .setTable s2 (by rfl)
  have c4 : SameChanges s3 s4 := .unpark s3 _
  have c5 : SameChanges s4 s5 := .setPort s4 (by rfl)
  have c6 : SameChanges s5 s6 := by
    unfold s6
    split
    · exact .sendAgent ..
    · exact .refl s5
  have c := ((c3.trans c4).trans c5).trans c6
  clear_value s6
  split
  · have c := c.trans (.postPort s6 a)
    exact ⟨c.law law, c1.releases.trans (removed.trans c.releases)⟩
  · exact ⟨c.law law, c1.releases.trans (removed.trans c.releases)⟩

/-- An agent that holds nothing is not awaited. -/
theorem ChangeLaw.not_awaited (h : ChangeLaw .rest s) (ha : ∀ i, s.held a i = none) (hx : s.entry e = some x) :
    x.awaited[a] = false := by
  rw [← Bool.not_eq_true]
  intro hax
  obtain ⟨i, y, hy, -⟩ := h.holds e x a hx (Phase.not_spared x) hax
  cases (ha i).symm.trans hy

theorem AdmittedLaw.departParts (h : AdmittedLaw s) (law : ChangeLaw .rest s) (a : AgentId) (st : PortState)
    (r : PortReason) (fenced posted : Bool) : AdmittedLaw (s.departParts a st r fenced posted) := by
  have left := s.departParts_left (a := a) st r fenced posted
  obtain ⟨law, removed⟩ := law.departParts a st r fenced posted
  have empty (i : Fin 64) : (s.departParts a st r fenced posted).held a i = none := by
    rw [State.held, left.table, if_pos rfl, SlotTable.initial_slots]
  refine ⟨fun e y b hy hb => ?_, fun q hq => ?_⟩
  · have hba : b ≠ a := by
      rintro rfl
      cases (law.not_awaited empty hy).symm.trans hb
    obtain ⟨x, hx, ebb, -⟩ := removed.back hy
    rw [left.port, if_neg hba]
    exact h.awaited e x b hx (ebb.awaited b hb)
  · rw [left.park] at hq
    obtain ⟨hq, hqa⟩ := List.mem_filter.1 hq
    rw [left.port, if_neg (by simpa using hqa)]
    exact h.parked q hq

theorem Between.depart (h : Between s) (a : AgentId) (st : PortState) (r : PortReason) (fenced posted : Bool) :
    Between (s.depart a st r fenced posted) := by
  obtain ⟨law, removed⟩ := h.law.departParts a st r fenced posted
  exact h.endWaits removed law (h.admitted.departParts h.law ..)

theorem Between.losePort (h : Between s) (a : AgentId) : Between (s.losePort a) := by
  unfold State.losePort
  split
  · exact h
  · exact h.depart ..
  all_goals
    rename_i hs
    exact (h.setPort (a := a) (by simp [hs]) (by rfl)).postPort a

/-- The agents of a list are put OUTSIDE one after another. -/
theorem foldl_putOutside_departs : ∀ (L : List AgentId) {s : State}, ChangeLaw .rest s → AdmittedLaw s →
    ChangeLaw .rest (L.foldl State.putOutside s) ∧ Releases .rest s (L.foldl State.putOutside s) ∧
      AdmittedLaw (L.foldl State.putOutside s)
  | [], s, h, ha => ⟨h, .refl _ s, ha⟩
  | a :: L, s, h, ha => by
    have first : ChangeLaw .rest (s.putOutside a) ∧ Releases .rest s (s.putOutside a) ∧
        AdmittedLaw (s.putOutside a) := by
      unfold State.putOutside
      split
      · exact ⟨(h.departParts ..).1, (h.departParts ..).2, ha.departParts h ..⟩
      · exact ⟨h, .refl _ s, ha⟩
    obtain ⟨law, removed, admitted⟩ := first
    obtain ⟨law, more, admitted⟩ := foldl_putOutside_departs L law admitted
    exact ⟨law, removed.trans more, admitted⟩

/-- The deadline of a recall expires. -/
theorem ChangeLaw.expire (h : ChangeLaw p s) (hx : s.entry e = some x) (hd : x.deadline = .running) :
    ChangeLaw p (s.setEntry e (some { x with deadline := .expired })) := by
  have own := h.entryLaw hx
  refine h.setEntry hx ⟨rfl, rfl, rfl, rfl, rfl⟩ { own with deadline := ?_ } id (fun d z _ hz => h.entryLaw hz)
    (fun _ => id)
    fun g c hb hr => ?_
  · exact iff_of_false nofun fun hs => by cases hd.symm.trans (own.deadline.2 hs)
  · obtain ⟨d, hd, y, hy, hst⟩ := h.unready g c hb hr
    refine ⟨d, hd, ?_⟩
    rw [State.entry_setEntry]
    split
    · subst_vars
      cases hx.symm.trans hy
      exact ⟨_, rfl, hst⟩
    · exact ⟨y, hy, hst⟩

theorem Between.takeExpiry (h : Between s) (hx : s.entry e = some x) (hd : x.deadline = .running) :
    Between (takeExpiry e x s) := by
  unfold Machine.takeExpiry
  generalize hv : s.setEntry e (some { x with deadline := .expired }) = v
  have entry (d : Fin 16) : v.entry d = if d = e then some { x with deadline := .expired } else s.entry d := by
    rw [← hv]
    exact State.entry_setEntry ..
  have law : ChangeLaw .rest v := hv ▸ h.law.expire hx hd
  have awaits (d : Fin 16) : v.awaits d = s.awaits d := by
    unfold State.awaits
    by_cases hde : d = e
    · rw [entry, if_pos hde, hde, hx]
    · rw [entry, if_neg hde]
  have same (t : State) : emptied s t = emptied v t := by
    unfold emptied
    simp only [awaits]
  have between : Between v := by
    refine ⟨law, fun d hdue => ?_, ⟨fun d y b hy hb => ?_, ?_⟩⟩
    · obtain ⟨y, hy, hst, ha⟩ := hdue
      rw [entry] at hy
      split at hy
      · cases hy
        exact h.settled d ⟨x, ‹d = e› ▸ hx, hst, ha⟩
      · exact h.settled d ⟨y, hy, hst, ha⟩
    · rw [entry] at hy
      have port : v.port b = s.port b := by rw [← hv]; rfl
      rw [port]
      split at hy
      · cases hy
        exact h.admitted.awaited e x b hx hb
      · exact h.admitted.awaited d y b hy hb
    · rw [← hv]
      exact h.admitted.parked
  obtain ⟨law', removed, admitted⟩ := foldl_putOutside_departs x.awaited.elems law between.admitted
  unfold Machine.endWaits
  dsimp only
  rw [same]
  exact between.endWaits removed law' admitted

/-! ## Links, the Scrub Engine, the device -/

theorem Between.comeUp (h : Between s) (ports : PortLaw s) {l : LinkId} (hl : s.isUp l = false) :
    Between (s.comeUp l) := by
  have up : Between (s.setLink l (.fresh .up)) := h.of_eq rfl
  cases l with
  | agent a =>
    have down : (s.port a).state ≠ .admitted := by simp [(ports.down a).2 hl]
    exact up.setPort down (by rfl)
  | sup => exact up
  | mem => exact (State.drive_engineOnly _).between up

theorem Between.leaveUp (h : Between s) (l : LinkId) : Between (s.leaveUp l) := by
  cases l with
  | agent a => exact h.losePort a
  | sup => exact h.of_eq rfl
  | mem => exact (State.loseMem_engineOnly _).between h

theorem Between.fillEnds (h : Between s) (k : Fin 4) (f : Fill) (ok : Bool) : Between (s.fillEnds k f ok) := by
  unfold State.fillEnds
  refine (State.afterFill_engineOnly _).between ?_
  split
  · exact h.of_eq rfl
  · split
    · split
      · unfold State.countBlock
        dsimp only
        split <;> exact h.of_eq rfl
      · exact h.of_eq rfl
    · exact h.of_eq rfl

theorem Between.configureWith (h : Between s) (c : Configuration) : Between (s.configureWith c) := by
  unfold State.configureWith
  dsimp only
  split
  · refine (State.enqueue_engineOnly ..).between ?_
    exact h.of_eq rfl
  · exact h.of_eq rfl

theorem Between.rescrubRun (h : Between s) (r : Run) (i : Fin 16) : Between (s.rescrubRun r i) := by
  refine (State.enqueue_engineOnly ..).between ?_
  exact h.of_eq rfl

theorem Between.openGate (h : Between s) (empty : EmptyPortLaw s) (ha : (s.port a).state = .waiting) :
    Between ((s.setPort a { s.port a with state := .admitted, context := 0 }).setFence a true) := by
  have same : SameRecords s ((s.setPort a { s.port a with state := .admitted, context := 0 }).setFence a true) :=
    ⟨rfl, rfl, rfl, fun _ _ => rfl, fun _ => id⟩
  have rights := h.law.rights.setContext (a := a) (port := { s.port a with state := .admitted, context := 0 })
    fun i y hy => by
    have initial := (empty a (by simp [ha])).1
    rw [State.held, initial, SlotTable.initial_slots] at hy
    cases hy
  refine h.records same rights fun b hb => ?_
  show ((s.setPort a _).port b).state = _
  rw [State.port_setPort]
  split
  · rfl
  · exact hb

/-- A FREE window becomes LIVE. -/
theorem Between.createWindow (h : Between s) {w : Nat} {l : LiveFields} (hl : (s.window w).live = none) :
    Between (s.createWindow w l) := by
  have window (v : Nat) (hv : (s.window v).live ≠ none) : (s.createWindow w l).window v = s.window v := by
    unfold State.createWindow
    dsimp only
    rw [State.setFrames_window, State.window_setWindow, if_neg]
    rintro rfl
    exact hv hl
  have pending (v : Nat) : ((s.createWindow w l).window v).pending = (s.window v).pending := by
    unfold State.createWindow
    dsimp only
    rw [State.setFrames_window, State.window_setWindow]
    split
    · subst_vars
      rfl
    · rfl
  have used {e : Fin 16} {x : Entry} (hx : s.entry e = some x) : (s.window x.window).live ≠ none :=
      (h.law.live e x hx).2
  have law : ChangeLaw .rest (s.createWindow w l) :=
    { pending := h.law.pending.of_same pending fun _ => rfl
      holders := (State.setWindow_holderLaw h.law.holders (by rfl)).of_eq rfl
      rights := fun b i y hy => by
        obtain ⟨hw, hr, k, hk, within, cls, allowed⟩ := h.law.rights b i y hy
        refine ⟨hw, hr, k, ?_, within, cls, allowed⟩
        rw [window _ (by rw [Option.mem_def.1 hk]; nofun)]
        exact hk
      live := fun e x hx => ⟨(h.law.live e x hx).1, by
        rw [window _ (used hx)]
        exact used hx⟩
      alone := h.law.alone
      member := h.law.member
      listed := h.law.listed
      full := h.law.full
      limit := h.law.limit
      free := h.law.free
      opened := h.law.opened
      recalling := h.law.recalling
      unready := h.law.unready
      ready := h.law.ready
      holds := h.law.holds
      covered := fun e x k a i y hx hs hk => h.law.covered e x k a i y hx hs (window _ (used hx) ▸ hk)
      waits := h.law.waits
      deadline := h.law.deadline
      parked := fun q hq => by
        obtain ⟨hw, hr, hc⟩ := h.law.parked q hq
        obtain ⟨e, x, hp, hx, hs⟩ := State.condition_eq_inRecall.1 hc
        exact ⟨hw, hr, State.condition_eq_inRecall.2 ⟨e, x, (pending _).trans hp, hx, hs⟩⟩ }
  exact ⟨law, h.settled, ⟨h.admitted.awaited, h.admitted.parked⟩⟩

/-- The tables and the queue of the reset state, with ports of any contexts (R145). -/
theorem Between.of_reset (windows : s.windows = State.reset.windows) (entries : s.entries = State.reset.entries)
    (groups : s.groups = State.reset.groups) (tables : s.tables = State.reset.tables)
    (park : s.park = State.reset.park) : Between s := by
  have reset : Between .reset := DeviceLaw.between resetMeetsTheLaws
  have held (a : AgentId) (i : Fin 64) : s.held a i = State.reset.held a i := by
    simp only [State.held, State.table, tables]
  have empty (a : AgentId) (i : Fin 64) : State.reset.held a i = none := by
    have initial : State.reset.table a = .initial := by simp [State.table, State.reset]
    rw [State.held, initial, SlotTable.initial_slots]
  refine reset.records ⟨windows, entries, groups, held, fun q hq => park ▸ hq⟩ (fun a i y hy => ?_) fun a ha => ?_
  · cases ((held a i).trans (empty a i)).symm.trans hy
  · have down : (State.reset.port a).state = .down := by simp [State.port, State.reset, Port.initial]
    cases down.symm.trans ha

theorem EmptyPortLaw.of_eq (h : EmptyPortLaw s)
    (k : (t.tables, t.ports, t.park) = (s.tables, s.ports, s.park)) : EmptyPortLaw t := by
  simp only [Prod.mk.injEq] at k
  obtain ⟨tables, ports, park⟩ := k
  intro a ha
  rw [State.port, ports] at ha ⊢
  rw [State.table, tables, park]
  exact h a ha

end Sys2Proof.Machine
end

section
/-!
SUPPORT of O56 and O57: the acceptance of a CHANGE or RETIRE. The entry it takes is HELD and awaits nobody; a
standalone one goes on in the same action.
-/

namespace Sys2Proof.Machine

variable {s t u : State} {a : AgentId} {p : Phase} {e : Fin 16} {x y : Entry}

/-! ## Acceptance -/

/-- Entry e is taken for a request, as the last member of its group where it names one. -/
structure Takes (e : Fin 16) (y : Entry) (s t : State) : Prop where
  entry : ∀ d, t.entry d = if d = e then some y else s.entry d
  live : ∀ w, (t.window w).live = (s.window w).live
  pending : ∀ w, (t.window w).pending = if w = y.window then some e else (s.window w).pending
  group : ∀ g, t.group g =
    if y.group = some g then { s.group g with members := (s.group g).members ++ [e] } else s.group g
  held : ∀ a i, t.held a i = s.held a i
  context : ∀ a, (t.port a).context = (s.port a).context
  park : t.park = s.park

/-- What the checks of an acceptance leave. -/
structure Acceptable (s : State) (e : Fin 16) (y : Entry) : Prop where
  free : s.entry e = none
  window : y.window < 4096
  live : (s.window y.window).live ≠ none
  unclaimed : (s.window y.window).pending = none
  group : ∀ g, y.group = some g → (s.group g).state = .opened ∧ (s.group g).members.length < 8
  state : y.state = .held
  awaited : ∀ a : AgentId, y.awaited[a] = false
  deadline : y.deadline = .stopped

/-- Nothing is under way but an entry that is accepted and not started. -/
def Phase.accepting (f : Option (Fin 16)) : Phase := { Phase.rest with fresh := f }

section
variable (h : Takes e y s t)
include h

theorem Takes.back {d : Fin 16} {z : Entry} (hz : t.entry d = some z) : d = e ∧ z = y ∨ d ≠ e ∧ s.entry d = some z := by
  rw [h.entry] at hz
  split at hz
  · cases hz
    exact .inl ⟨‹_›, rfl⟩
  · exact .inr ⟨‹_›, hz⟩

theorem Takes.mem {g : Fin 4} {d : Fin 16} :
    d ∈ (t.group g).members ↔ d ∈ (s.group g).members ∨ y.group = some g ∧ d = e := by
  rw [h.group]
  split <;> simp [*]

theorem Takes.group_state (g : Fin 4) : (t.group g).state = (s.group g).state := by
  rw [h.group]
  split <;> rfl

variable (c : Acceptable s e y)
include c

theorem Takes.forth {d : Fin 16} {z : Entry} (hz : s.entry d = some z) : t.entry d = some z := by
  rw [h.entry, if_neg]
  · exact hz
  · rintro rfl
    cases c.free.symm.trans hz

theorem Takes.pendingLaw (k : PendingLaw s) : PendingLaw t := by
  rw [pendingLaw_iff] at k ⊢
  intro w d
  have hd := k w d
  have he : s.changed e = none := by simp [State.changed, c.free]
  have changed : t.changed d = if d = e then some y.window else s.changed d := by
    unfold State.changed
    rw [h.entry]
    split <;> rfl
  have unclaimed := c.unclaimed
  rw [h.pending, changed]
  grind

theorem Takes.law (k : ChangeLaw .rest s) (holders : HolderLaw t) {f : Option (Fin 16)}
    (hf : y.group = none → f = some e) :
    ChangeLaw (.accepting f) t where
  pending := h.pendingLaw c k.pending
  holders := holders
  rights b i z hz := by
    rw [h.live, h.context]
    exact k.rights b i z ((h.held b i).symm.trans hz)
  live d z hz := by
    rw [h.live]
    obtain ⟨rfl, rfl⟩ | ⟨-, hz⟩ := h.back hz
    · exact ⟨c.window, c.live⟩
    · exact k.live d z hz
  alone d z hz hn hg := by
    obtain ⟨rfl, rfl⟩ | ⟨-, hz⟩ := h.back hz
    · exact absurd (hf hg) hn
    · exact k.alone d z hz nofun hg
  member d z g hz hg := by
    rw [h.mem]
    obtain ⟨rfl, rfl⟩ | ⟨-, hz⟩ := h.back hz
    · exact .inr ⟨hg, rfl⟩
    · exact .inl (k.member d z g hz hg)
  listed d z g hd hz := by
    obtain hd | ⟨hg, rfl⟩ := h.mem.1 hd
    · obtain ⟨rfl, rfl⟩ | ⟨-, hz⟩ := h.back hz
      · exact absurd c.free (k.full g (Phase.not_busy g) d hd)
      · exact k.listed d z g hd hz
    · obtain ⟨-, rfl⟩ | ⟨hne, -⟩ := h.back hz
      · exact hg
      · exact absurd rfl hne
  full g _ d hd := by
    rw [h.entry]
    split
    · nofun
    · obtain hd | ⟨-, rfl⟩ := h.mem.1 hd
      · exact k.full g (Phase.not_busy g) d hd
      · exact absurd rfl ‹_›
  limit g := by
    obtain ⟨le, nodup⟩ := k.limit g
    rw [h.group]
    split
    · rename_i hg
      have lt := (c.group g hg).2
      refine ⟨by rw [List.length_append]; exact lt, ?_⟩
      refine List.nodup_append.2 ⟨nodup, List.nodup_singleton e, fun d hd b hb => ?_⟩
      rw [List.mem_singleton.1 hb]
      rintro rfl
      exact k.full g (Phase.not_busy g) d hd c.free
    · exact ⟨le, nodup⟩
  free g hg := by
    rw [h.group_state] at hg
    rw [h.group, if_neg]
    · exact k.free g hg
    · intro hy
      cases hg.symm.trans (c.group g hy).1
  opened g _ ho d z hz hg := by
    rw [h.group_state] at ho
    obtain ⟨rfl, rfl⟩ | ⟨-, hz⟩ := h.back hz
    · exact c.state
    · exact k.opened g nofun ho d z hz hg
  recalling g r hr d z hz hg := by
    rw [h.group_state] at hr
    obtain ⟨rfl, rfl⟩ | ⟨-, hz⟩ := h.back hz
    · cases hr.symm.trans (c.group g hg).1
    · exact k.recalling g r hr d z hz hg
  unready g r _ hr := by
    rw [h.group_state] at hr
    obtain ⟨d, hd, z, hz, hs⟩ := k.unready g r (Phase.not_busy g) hr
    exact ⟨d, h.mem.2 (.inl hd), z, h.forth c hz, hs⟩
  ready g hg := hg.elim
  holds d z b hz hs ha := by
    simp only [h.held]
    obtain ⟨rfl, rfl⟩ | ⟨-, hz⟩ := h.back hz
    · cases (c.awaited b).symm.trans ha
    · exact k.holds d z b hz hs ha
  covered d z l b i w hz hs hl hw := by
    rw [h.live] at hl
    rw [h.held] at hw
    obtain ⟨rfl, rfl⟩ | ⟨-, hz⟩ := h.back hz
    · exact absurd c.state hs
    · exact k.covered d z l b i w hz hs hl hw
  waits d z b hz ha := by
    obtain ⟨rfl, rfl⟩ | ⟨-, hz⟩ := h.back hz
    · cases (c.awaited b).symm.trans ha
    · exact k.waits d z b hz ha
  deadline d z hz := by
    obtain ⟨rfl, rfl⟩ | ⟨-, hz⟩ := h.back hz
    · exact iff_of_true c.deadline c.state
    · exact k.deadline d z hz
  parked q hq := by
    obtain ⟨hw, hr, hc⟩ := k.parked q (h.park ▸ hq)
    obtain ⟨d, z, hp, hz, hs⟩ := State.condition_eq_inRecall.1 hc
    refine ⟨hw, hr, State.condition_eq_inRecall.2 ⟨d, z, ?_, h.forth c hz, hs⟩⟩
    rw [h.pending, if_neg]
    · exact hp
    · intro hwy
      rw [hwy] at hp
      cases c.unclaimed.symm.trans hp

/-- The accepted entry is not due, and awaits nobody. -/
theorem Takes.settled (k : s.Settled) : t.Settled := by
  rintro d ⟨z, hz, hs, ha⟩
  obtain ⟨rfl, rfl⟩ | ⟨-, hz⟩ := h.back hz
  · cases hs.symm.trans c.state
  · exact k d ⟨z, hz, hs, ha⟩

theorem Takes.admitted (k : AdmittedLaw s) (ports : KeepsAdmitted s t) : AdmittedLaw t := by
  refine ⟨fun d z b hz ha => ports b ?_, fun q hq => ports _ (k.parked q (h.park ▸ hq))⟩
  obtain ⟨rfl, rfl⟩ | ⟨-, hz⟩ := h.back hz
  · cases (c.awaited b).symm.trans ha
  · exact k.awaited d z b hz ha

end

/-! ## What an acceptance takes -/

theorem SameChanges.accept (s : State) (tag : BitVec 8) : SameChanges s (s.accept tag) :=
  (show SameChanges s (s.addTag tag) from ⟨⟨rfl, rfl, rfl, fun _ _ => rfl, fun _ => id⟩, fun _ => rfl⟩).trans
    (.sendSup ..)

section
variable {q : ChangeRequest} {l : LiveFields} {slot : Option (Fin 16)}

theorem State.acceptable (hq : q.window < 4096) (hc : s.changeChecks q = .ok (l, e, slot)) (tag : BitVec 8) :
    Acceptable s e (.fresh tag q.window q.kind q.group slot) := by
  obtain ⟨hl, hp, hg, he, -⟩ := State.changeChecks_eq_ok hc
  refine ⟨State.freeEntry_eq_some he, hq, fun hn => ?_, hp, fun g hqg => ?_, rfl, fun a => noneOf_get a, rfl⟩
  · cases hn.symm.trans hl
  · have hqg : q.group = some g := hqg
    rw [hqg] at hg
    unfold State.checkGroup at hg
    grind [Config.groupMembers]

theorem Takes.of_same (h : Takes e y s t) (k : SameChanges t u) (hp : u.park = t.park) : Takes e y s u :=
  ⟨fun d => (k.entry d).trans (h.entry d), fun w => (congrArg _ (k.window w)).trans (h.live w),
    fun w => (congrArg _ (k.window w)).trans (h.pending w), fun g => (k.group g).trans (h.group g),
    fun a i => (k.held a i).trans (h.held a i), fun a => (k.context a).trans (h.context a), hp.trans h.park⟩

/-- An acceptance, with the groups as it leaves them. -/
theorem State.accepted_takes (tag : BitVec 8) {G : Vector Group 4} (group : ∀ g : Fin 4, G[g] =
      if q.group = some g then { s.group g with members := (s.group g).members ++ [e] } else s.group g) :
    Takes e (.fresh tag q.window q.kind q.group slot) s { s.accepted tag q e slot with groups := G } := by
  have rest := State.reserveRun_eq (s := (s.setEntry e (some (.fresh tag q.window q.kind q.group slot))).setWindow
    q.window { s.window q.window with pending := some e }) q.window q.kind
  refine ⟨fun d => State.accepted_entry tag q e slot d, fun w => ?_, fun w => ?_, group, fun a i => ?_, fun a => ?_, ?_⟩
  · refine (congrArg Window.live (State.accepted_window tag q e slot w)).trans ?_
    split
    · subst_vars
      rfl
    · rfl
  · exact (congrArg Window.pending (State.accepted_window tag q e slot w)).trans (apply_ite Window.pending ..)
  all_goals
    rw [State.accepted, rest]
    rfl

theorem State.acceptParts_takes (hg : q.group = none) (tag : BitVec 8) :
    Takes e (.fresh tag q.window q.kind q.group slot) s (s.acceptParts tag q e slot) := by
  have takes := State.accepted_takes (s := s) (e := e) (slot := slot) tag (q := q) (G := s.groups) fun g => by
    rw [if_neg (by simp [hg])]
    rfl
  have groups : (s.accepted tag q e slot).groups = s.groups := by
    rw [State.accepted, State.reserveRun_eq]
    rfl
  rw [← groups] at takes
  cases slot with
  | none => exact takes
  | some i => exact takes.of_same ⟨⟨rfl, rfl, rfl, fun _ _ => rfl, fun _ => id⟩, fun _ => rfl⟩ rfl

theorem State.joinGroup_takes {g : Fin 4} (hg : q.group = some g) (tag : BitVec 8) :
    Takes e (.fresh tag q.window q.kind q.group slot) s ((s.acceptParts tag q e slot).joinGroup g e tag) := by
  have group (c : Fin 4) : (s.acceptParts tag q e slot).group c = s.group c := by
    cases slot <;> rw [State.acceptParts, State.reserveRun_eq] <;> rfl
  have takes := State.accepted_takes (s := s) (e := e) (slot := slot) tag (q := q)
    (G := ((s.acceptParts tag q e slot).setGroup g { s.group g with members := (s.group g).members ++ [e] }).groups)
    fun c => by
      refine (State.group_setGroup (s.acceptParts tag q e slot) g c _).trans ?_
      rw [hg, group]
      grind
  have joined : State.joinGroup (s.acceptParts tag q e slot) g e tag =
      State.accept ((s.acceptParts tag q e slot).setGroup g { s.group g with members := (s.group g).members ++ [e] })
        tag := by
    rw [State.joinGroup, group]
  rw [joined]
  refine (takes.of_same ?_ ?_).of_same (.accept _ tag) (State.accept_park _ tag)
  · cases slot <;> exact ⟨⟨rfl, rfl, rfl, fun _ _ => rfl, fun _ => id⟩, fun _ => rfl⟩
  · cases slot <;> rfl

/-- An acceptance that joins a group. -/
theorem Between.joinGroup (h : Between s) (hq : q.window < 4096) (hc : s.changeChecks q = .ok (l, e, slot))
    {g : Fin 4} (hg : q.group = some g) (tag : BitVec 8) :
    Between ((s.acceptParts tag q e slot).joinGroup g e tag) := by
  have takes := State.joinGroup_takes (s := s) (e := e) (slot := slot) hg tag
  have c := State.acceptable hq hc tag
  have holders : HolderLaw (State.joinGroup (s.acceptParts tag q e slot) g e tag) := by
    refine State.accept_holderLaw ?_ tag
    exact (State.acceptParts_holderLaw h.law.holders ..).of_eq rfl
  refine ⟨takes.law c h.law holders (f := none) fun hn => ?_, takes.settled c h.settled,
    takes.admitted c h.admitted fun a ha => ?_⟩
  · cases hg.symm.trans hn
  · have kept : KeepsPort a s (State.joinGroup (s.acceptParts tag q e slot) g e tag) := by
      refine State.accept_keepsPort ?_ tag
      exact (State.acceptParts_keepsPort (.refl a s) ..).of_eq rfl
    exact kept.state.trans ha

end

end Sys2Proof.Machine
end

section
/-!
SUPPORT of O56 and O57: the start of a recall (R65, R67, R93), for a standalone entry in the action of its acceptance
and for the members of a group at its commit. The awaited set is then exactly the agents with an affected holding.
-/

namespace Sys2Proof.Machine

variable {s t u : State} {a : AgentId} {p : Phase} {e : Fin 16} {x y : Entry}

/-! ## Whom a started recall awaits -/

section
variable {k : ChangeKind} {w : Nat} {l : LiveFields}

theorem State.affectedAgents_hit (holders : HolderLaw s) (hl : (s.window w).live = some l) {i : Fin 64} {y : Holding}
    (hy : s.held a i = some y) (hw : y.window = w) (hk : k.hits l a y.rights) : (s.affectedAgents k w)[a] = true := by
  have naming : (s.table a).naming w = some i :=
    SlotTable.naming_eq hy hw fun j z hz hzw => holders.once a j i z y hz hy (hzw.trans hw.symm)
  have holding : (s.table a).holding w = some y := by
    rw [SlotTable.holding, naming]
    exact hy
  rw [State.affectedAgents_get hl, holding]
  exact ChangeKind.affects_eq_true.2 hk

theorem State.affectedAgents_holds (ha : (s.affectedAgents k w)[a] = true) :
    ∃ i y, s.held a i = some y ∧ y.window = w := by
  by_contra hno
  cases hl : (s.window w).live with
  | none =>
    rw [State.affectedAgents, hl, noneOf_get] at ha
    cases ha
  | some l =>
    have := State.affectedAgents_eq_false (k := k) hl fun i y hy hw => (hno ⟨i, y, hy, hw⟩).elim
    rw [this] at ha
    cases ha

theorem State.affectedAgents_unhit (holders : HolderLaw s) (hl : (s.window w).live = some l)
    (empty : (s.affectedAgents k w).empty = true) (a : AgentId) (i : Fin 64) (y : Holding) (hy : s.held a i = some y)
    (hw : y.window = w) : ¬k.hits l a y.rights := fun hk => by
  have := State.affectedAgents_hit holders hl hy hw hk
  rw [(FinSet.empty_iff _).1 empty a] at this
  cases this

end

/-- Every agent with a holding is ADMITTED. -/
def HoldersAdmitted (s : State) : Prop := ∀ a i h, s.held a i = some h → (s.port a).state = .admitted

theorem EmptyPortLaw.holdersAdmitted (k : EmptyPortLaw s) : HoldersAdmitted s := by
  intro a i h hh
  by_contra ha
  rw [State.held, (k a ha).1, SlotTable.initial_slots] at hh
  cases hh

/-! ## An entry starts -/

theorem State.underway_state_ne_held (s : State) (x : Entry) : (s.underway x).state ≠ .held := by
  unfold State.underway
  dsimp only
  split <;> nofun

theorem State.underway_recalling (ha : (s.underway x).awaited[a] = true) : (s.underway x).state = .recalling :=
  if_neg fun hn => by
    have := (FinSet.empty_iff _).1 hn a
    rw [show (s.affectedAgents x.kind x.window)[a] = true from ha] at this
    cases this

/-- A recall starts, of a standalone entry that affects a holding or of a member of the group that is starting. -/
theorem ChangeLaw.startEntry {f : Option (Fin 16)} (h : ChangeLaw p s) (hx : s.entry e = some x) (hs : x.state = .held)
    (lone : x.group = none → (s.affectedAgents x.kind x.window).empty = false)
    (joined : ∀ g, x.group = some g → p.starting = some g) (hf : ∀ d, d ≠ e → f ≠ some d → p.fresh ≠ some d) :
    ChangeLaw { p with fresh := f } (s.setEntry e (some (s.underway x))) := by
  refine h.setEntry hx ⟨rfl, rfl, rfl, rfl, rfl⟩ ?_ (fun _ => s.underway_state_ne_held x) (fun d z hd hz => ?_)
    (fun _ => id) fun g c hb hr => ?_
  · exact
      { alone := fun _ hg => if_neg (Bool.eq_false_iff.1 (lone hg))
        opened := fun g hg _ hxg => absurd (joined g hxg) hg
        recalling := fun _ _ _ _ => s.underway_state_ne_held x
        ready := fun g hg hxg => by cases hs.symm.trans (h.ready g hg e x hx hxg)
        holds := fun a _ ha => State.affectedAgents_holds ha
        covered := fun l a i y _ hl hy hw hk => State.affectedAgents_hit h.holders hl hy hw hk
        waits := fun a => State.underway_recalling
        deadline := iff_of_false nofun (s.underway_state_ne_held x) }
  · exact { h.entryLaw hz with alone := fun hn => h.alone d z hz (hf d hd hn) }
  · obtain ⟨d, hd, z, hz, hst⟩ := h.unready g c hb hr
    refine ⟨d, hd, z, (State.entry_setEntry ..).trans ((if_neg ?_).trans hz), hst⟩
    rintro rfl
    exact h.recalling g c hr d x hx (h.listed d x g hd hx) hs

theorem SameChanges.sendRecall (s : State) (w : Nat) (a : AgentId) : SameChanges s (s.sendRecall w a) := by
  unfold State.sendRecall
  dsimp only
  split
  · exact .refl s
  · exact (SameChanges.setTable (a := a) s (by rfl)).trans (.sendAgent ..)

theorem State.startRecall_same (s : State) (e : Fin 16) (x : Entry) :
    SameChanges (s.setEntry e (some (s.underway x))) (s.startRecall e x) :=
  foldl_keeps (P := SameChanges (s.setEntry e (some (s.underway x))))
    (fun u a hu => hu.trans (.sendRecall u x.window a)) _ _
    (.refl _)

/-! ## What stands while recalls start -/

/-- The laws between actions, with what phase p leaves open. -/
structure Starting (p : Phase) (s : State) : Prop where
  law : ChangeLaw p s
  settled : s.Settled
  admitted : AdmittedLaw s
  holders : HoldersAdmitted s

theorem Starting.startRecall {f : Option (Fin 16)} (h : Starting p s) (hx : s.entry e = some x) (hs : x.state = .held)
    (lone : x.group = none → (s.affectedAgents x.kind x.window).empty = false)
    (joined : ∀ g, x.group = some g → p.starting = some g) (hf : ∀ d, d ≠ e → f ≠ some d → p.fresh ≠ some d) :
    Starting { p with fresh := f } (s.startRecall e x) := by
  have same := s.startRecall_same e x
  have entry (d : Fin 16) : (s.startRecall e x).entry d = if d = e then some (s.underway x) else s.entry d :=
    (same.entry d).trans (State.entry_setEntry ..)
  have port (a : AgentId) : ((s.startRecall e x).port a).state = (s.port a).state :=
    (State.startRecall_keepsPort (.refl a s) e x).state
  refine ⟨same.law (h.law.startEntry hx hs lone joined hf), ?_, ⟨?_, fun q hq => ?_⟩, fun a i y hy => ?_⟩
  · rintro d ⟨y, hy, hst, ha⟩
    rw [entry] at hy
    split at hy
    · cases hy
      have empty : (s.affectedAgents x.kind x.window).empty = true := (FinSet.empty_iff _).2 ha
      cases hst.symm.trans (if_pos empty)
    · exact h.settled d ⟨y, hy, hst, ha⟩
  · intro d y a hy ha
    rw [port]
    rw [entry] at hy
    split at hy
    · cases hy
      obtain ⟨i, z, hz, -⟩ := State.affectedAgents_holds ha
      exact h.holders a i z hz
    · exact h.admitted.awaited d y a hy ha
  · rw [port]
    exact h.admitted.parked q (same.park q hq)
  · rw [port]
    exact h.holders a i y ((same.held a i).symm.trans hy)

theorem Starting.between (h : Starting .rest s) : Between s := ⟨h.law, h.settled, h.admitted⟩

theorem Between.accept (h : Between s) (tag : BitVec 8) : Between (s.accept tag) :=
  h.same (.accept s tag) fun a ha => (State.accept_keepsPort (.refl a s) tag).state.trans ha

/-! ## A standalone entry -/

theorem ChangeLaw.ended (h : ChangeLaw (.accepting (some e)) s) (gone : s.entry e = none) : ChangeLaw .rest s :=
  { h with
    alone := fun d x hx _ => h.alone d x hx (by
      rintro ⟨⟩
      cases gone.symm.trans hx) }

section
variable {q : ChangeRequest} {l : LiveFields} {slot : Option (Fin 16)}

/-- What stands after the acceptance of a standalone entry. -/
theorem Between.starting (h : Between s) (empty : EmptyPortLaw s) (hq : q.window < 4096)
    (hc : s.changeChecks q = .ok (l, e, slot)) (hg : q.group = none) (tag : BitVec 8) :
    Starting (.accepting (some e)) (s.acceptParts tag q e slot) := by
  have takes := State.acceptParts_takes (s := s) (e := e) (slot := slot) hg tag
  have c := State.acceptable hq hc tag
  have port (a : AgentId) : ((s.acceptParts tag q e slot).port a).state = (s.port a).state :=
    (State.acceptParts_keepsPort (.refl a s) ..).state
  refine ⟨takes.law c h.law (State.acceptParts_holderLaw h.law.holders ..) fun _ => rfl, takes.settled c h.settled,
    takes.admitted c h.admitted fun a ha => (port a).trans ha, fun a i y hy => (port a).trans ?_⟩
  exact empty.holdersAdmitted a i y ((takes.held a i).symm.trans hy)

theorem Starting.standalone (h : Starting (.accepting (some e)) s) (hx : s.entry e = some x) (hs : x.state = .held)
    (hg : x.group = none) : Between (startStandalone e s) := by
  unfold startStandalone
  rw [hx]
  dsimp only
  split
  · rename_i empty
    obtain ⟨settles, gone⟩ := applyEntry_settles (p := .accepting (some e)) cascade_endsWell h.law s.waiting_le hx
      (fun g hxg => by cases hg.symm.trans hxg) fun l hl => State.affectedAgents_unhit h.law.holders hl empty
    exact ⟨settles.law.ended gone, fun d hd => h.settled d ((settles.due d).1 hd).1,
      h.admitted.shrinks settles.shrinks (applyEntry_cascade_steady e s).keepsAdmitted⟩
  · rename_i affects
    have started := h.startRecall (f := none) hx hs (fun _ => by simpa using affects)
      (fun g hxg => by cases hg.symm.trans hxg) fun d hd _ hde => hd (Option.some.inj hde).symm
    exact Between.accept (Starting.between started) x.tag

theorem Between.standalone (h : Between s) (empty : EmptyPortLaw s) (hq : q.window < 4096)
    (hc : s.changeChecks q = .ok (l, e, slot)) (hg : q.group = none) (tag : BitVec 8) :
    Between (startStandalone e (s.acceptParts tag q e slot)) :=
  (h.starting empty hq hc hg tag).standalone
    (((State.acceptParts_takes (s := s) (slot := slot) hg tag).entry e).trans (if_pos rfl)) rfl hg

end

/-! ## The members of a group -/

/-- The phase in which the recalls of a group's members start. -/
def Phase.commits (g : Fin 4) : Phase := { Phase.rest with starting := some g }

theorem Starting.startMember {g : Fin 4} (h : Starting (.commits g) s) (hx : s.entry e = some x) (hs : x.state = .held)
    (hg : x.group = some g) : Starting (.commits g) (startMember e s) := by
  unfold Machine.startMember
  rw [hx]
  exact h.startRecall (f := none) hx hs (fun hn => by cases hg.symm.trans hn) (fun c hc => hg.symm.trans hc)
    fun _ _ _ => nofun

theorem startMember_entry (d : Fin 16) : (startMember e s).entry d =
    if d = e then (s.entry d).map s.underway else s.entry d := by
  unfold startMember
  split
  · rename_i hx
    split
    · subst_vars
      rw [hx]
      rfl
    · rfl
  · rename_i x hx
    rw [(s.startRecall_same e x).entry, State.entry_setEntry]
    split
    · subst_vars
      rw [hx]
      rfl
    · rfl

theorem startMember_groups : (startMember e s).groups = s.groups := by
  unfold startMember
  split
  · rfl
  · exact (s.startRecall_same e _).groups

/-- The members' recalls start one after another: each leaves HELD, and no other entry is written. -/
theorem foldl_startMember_starting {g : Fin 4} : ∀ (L : List (Fin 16)) {s : State}, L.Nodup → Starting (.commits g) s →
    (∀ e ∈ L, ∃ x, s.entry e = some x ∧ x.state = .held ∧ x.group = some g) →
    Starting (.commits g) (L.foldl (fun s e => Machine.startMember e s) s) ∧
      (L.foldl (fun s e => Machine.startMember e s) s).groups = s.groups ∧
      (∀ d ∉ L, (L.foldl (fun s e => Machine.startMember e s) s).entry d = s.entry d) ∧
      ∀ d ∈ L, ∀ x, (L.foldl (fun s e => Machine.startMember e s) s).entry d = some x → x.state ≠ .held
  | [], _, _, h, _ => ⟨h, rfl, fun _ _ => rfl, nofun⟩
  | e :: L, s, nodup, h, members => by
    obtain ⟨x, hx, hs, hg⟩ := members e (.head L)
    obtain ⟨he, nodup⟩ := List.nodup_cons.1 nodup
    obtain ⟨law, groups, others, begun⟩ := foldl_startMember_starting L nodup (h.startMember hx hs hg) fun d hd => by
      rw [startMember_entry, if_neg (ne_of_mem_of_not_mem hd he)]
      exact members d (.tail e hd)
    refine ⟨law, groups.trans startMember_groups, fun d hd => ?_, fun d hd y hy => ?_⟩
    · obtain ⟨hde, hd⟩ := not_or.1 (mt List.mem_cons.2 hd)
      exact (others d hd).trans ((startMember_entry d).trans (if_neg hde))
    · obtain rfl | hd := List.mem_cons.1 hd
      · have hy := (others d he).symm.trans hy
        rw [startMember_entry, if_pos rfl, hx] at hy
        cases hy
        exact s.underway_state_ne_held x
      · exact begun d hd y hy

/-! ## GROUP_COMMIT -/

/-- A group whose members' recalls have started is RECALLING, unless it is to be applied. -/
theorem ChangeLaw.commit {g : Fin 4} {A : Fin 4 → Prop} (h : ChangeLaw (.commits g) s)
    (begun : ∀ e x, s.entry e = some x → x.group = some g → x.state ≠ .held)
    (ready : ∀ c, A c → ∀ e x, s.entry e = some x → x.group = some c → x.state = .ready)
    (unready : ¬A g → ∃ e ∈ (s.group g).members, ∃ x, s.entry e = some x ∧ x.state ≠ .ready) (tag : BitVec 8) :
    ChangeLaw { Phase.rest with applying := A } (s.setGroup g
      { state := .recalling tag, members := (s.group g).members }) := by
  have members (c : Fin 4) :
      ((s.setGroup g { state := .recalling tag, members := (s.group g).members }).group c).members =
      (s.group c).members := by
    rw [State.group_setGroup]
    split
    · subst_vars
      rfl
    · rfl
  have state (c : Fin 4) (hc : c ≠ g) :
      ((s.setGroup g { state := .recalling tag, members := (s.group g).members }).group c).state =
        (s.group c).state := by
    rw [State.group_setGroup, if_neg hc]
  have idle (c : Fin 4) : ¬(Phase.commits g).Busy c := Phase.not_busy c
  exact
    { pending := h.pending.of_eq rfl
      holders := h.holders.of_eq rfl
      rights := h.rights
      live := h.live
      alone := h.alone
      member := fun e x c => by
        rw [members]
        exact h.member e x c
      listed := fun e x c => by
        rw [members]
        exact h.listed e x c
      full := fun c _ => by
        rw [members]
        exact h.full c (idle c)
      limit := fun c => by
        rw [members]
        exact h.limit c
      free := fun c hf => by
        rw [members]
        refine h.free c (hf.symm.trans ?_).symm
        refine state c ?_
        rintro rfl
        rw [State.group_setGroup_self] at hf
        cases hf
      opened := fun c _ ho => by
        have hc : c ≠ g := by
          rintro rfl
          rw [State.group_setGroup_self] at ho
          cases ho
        rw [state c hc] at ho
        exact h.opened c (fun hgc => hc (Option.some.inj hgc).symm) ho
      recalling := fun c r hr e x hx hxc => by
        by_cases hc : c = g
        · exact begun e x hx (hc ▸ hxc)
        · rw [state c hc] at hr
          exact h.recalling c r hr e x hx hxc
      unready := fun c r hb hr => by
        rw [members]
        by_cases hc : c = g
        · subst hc
          exact unready fun ha => hb (.inl ha)
        · rw [state c hc] at hr
          exact h.unready c r (idle c) hr
      ready := ready
      holds := h.holds
      covered := h.covered
      waits := h.waits
      deadline := h.deadline
      parked := h.parked }

/-- The end of a commit: the group is RECALLING, or applies when every member is READY (R93). -/
theorem Starting.commit {g : Fin 4} (h : Starting (.commits g) s)
    (begun : ∀ e x, s.entry e = some x → x.group = some g → x.state ≠ .held) (tag : BitVec 8)
    (ht : s.setGroup g { state := .recalling tag, members := (s.group g).members } = t) :
    Between (if t.allReady g then applyGroup cascade none g t else t.accept tag) := by
  have admitted : AdmittedLaw t := by
    subst ht
    exact ⟨h.admitted.awaited, h.admitted.parked⟩
  have settled : t.Settled := by
    subst ht
    exact h.settled
  have group : (t.group g).members = (s.group g).members := by
    subst ht
    rw [State.group_setGroup_self]
  have entry (e : Fin 16) : t.entry e = s.entry e := by
    subst ht
    rfl
  split
  · rename_i all
    have law : ChangeLaw (Phase.rest.apply g) t := by
      rw [← ht]
      refine h.law.commit (A := fun c => c = g ∨ False) begun ?_ (fun hg => absurd (.inl rfl) hg) tag
      rintro c (rfl | ⟨⟨⟩⟩) e x hx hc
      obtain ⟨y, hy, hst⟩ := State.allReady_iff.1 all e (group ▸ h.law.member e x c hx hc)
      cases ((entry e).trans hx).symm.trans hy
      exact hst
    have applied := applyGroup_settles (p := .rest) cascade_endsWell law (Phase.not_busy g) t.waiting_le
    exact ⟨applied.law, fun d hd => settled d ((applied.due d).1 hd).1, admitted.shrinks applied.shrinks fun a ha =>
      (applyGroup_keeps (cascadeKeeps_keepsPort a t none) cascade_keepsPort g t (.refl a t)).state.trans ha⟩
  · rename_i all
    have law : ChangeLaw .rest t := by
      rw [← ht]
      refine h.law.commit (A := fun _ => False) begun (fun _ => False.elim) (fun _ => ?_) tag
      rw [State.allReady_iff] at all
      simp only [not_forall, not_exists, not_and] at all
      obtain ⟨d, hd, hst⟩ := all
      obtain ⟨y, hy⟩ := Option.ne_none_iff_exists'.1 (h.law.full g (Phase.not_busy g) d (group ▸ hd))
      exact ⟨d, group ▸ hd, y, hy, hst y ((entry d).trans hy)⟩
    exact Between.accept ⟨law, settled, admitted⟩ tag

theorem Between.commitGroup {g : Fin 4} (h : Between s) (empty : EmptyPortLaw s) (ho : (s.group g).state = .opened)
    (tag : BitVec 8) : Between (commitGroup tag g s) := by
  have starting : Starting (.commits g) s :=
    ⟨{ h.law with opened := fun c _ => h.law.opened c nofun }, h.settled, h.admitted, empty.holdersAdmitted⟩
  obtain ⟨started, groups, -, begun⟩ := foldl_startMember_starting (s.group g).members (h.law.limit g).2 starting
    fun e he => by
      obtain ⟨x, hx⟩ := Option.ne_none_iff_exists'.1 (h.law.full g (Phase.not_busy g) e he)
      have hg := h.law.listed e x g he hx
      exact ⟨x, hx, h.law.opened g nofun ho e x hx hg, hg⟩
  unfold Machine.commitGroup
  dsimp only
  generalize (s.group g).members.foldl (fun s e => startMember e s) s = u at *
  have group : u.group g = s.group g := by
    rw [State.group, groups]
    rfl
  refine started.commit (fun e x hx hg => begun e ?_ x hx) tag (by rw [group])
  exact group ▸ started.law.member e x g hx hg

end Sys2Proof.Machine
end

section
/-!
PROOFS of O56 and O57: abandonments, and every action together.
-/

namespace Sys2Proof.Machine

variable {s t u : State} {a : AgentId} {p : Phase} {e : Fin 16} {x y : Entry} {g : Fin 4}

/-! ## Abandonment -/

theorem State.abandonParts_rights (h : RightsLaw s) (e : Fin 16) (x : Entry) : RightsLaw (s.abandonParts e x) :=
  State.abandonParts_drops.1.rights_kept h State.abandonParts_drops.2

/-- ABANDON of a standalone entry, with the re-take after the two DONEs. -/
theorem Between.abandon (h : Between s) (hx : s.entry e = some x) (hg : x.group = none) (m : SupMsg) :
    Between (retake cascade none x.window ((s.abandonParts e x).sendSup m)) := by
  have sent := SameChanges.sendSup (s.abandonParts e x) m
  have dropped : Drops e x s ((s.abandonParts e x).sendSup m) :=
    State.abandonParts_drops.1.of_same sent (State.sendSup_park ..)
  have retaken := dropped.retake (p := .rest) cascade_endsWell h.law s.waiting_le hx
      (fun c hc => by cases hg.symm.trans hc)
    ((State.abandonParts_pendingLaw h.law.pending hx).of_eq (by rw [sent.windows, sent.entries]))
    (State.sendSup_holderLaw (State.abandonParts_holderLaw h.law.holders e x) m)
    (dropped.rights_kept h.law.rights ((congrArg Window.live (sent.window _)).trans State.abandonParts_drops.2))
  refine h.settles retaken.1 fun b hb => ?_
  exact (retake_keepsPort cascade_keepsPort none x.window (State.sendSup_keepsPort
    (State.abandonParts_keepsPort (.refl b s) e x) m)).state.trans hb

/-- The phase in which the members of a group are abandoned. -/
def Phase.abandons (g : Fin 4) : Phase := { Phase.rest with abandoning := some g }

theorem ChangeLaw.abandons (h : ChangeLaw .rest s) (g : Fin 4) : ChangeLaw (.abandons g) s :=
  { h with
    opened := fun c _ => h.opened c nofun
    full := fun c _ => h.full c (Phase.not_busy c)
    unready := fun c r _ => h.unready c r (Phase.not_busy c)
    holds := fun e x a hx _ => h.holds e x a hx (Phase.not_spared x) }

theorem abandonMember_settles (h : ChangeLaw (.abandons g) s) (member : e ∈ (s.group g).members) :
    Settles (.abandons g) s (abandonMember g e s) [e] ∧ (abandonMember g e s).entry e = none := by
  unfold abandonMember
  split
  · exact ⟨.of_free h ‹_›, ‹_›⟩
  · rename_i x hx
    refine State.abandonParts_drops.1.retake (p := .abandons g) (cascadeDepth_endsWell (some g) 16) h s.waiting_le hx
      (fun c hc => .inr ?_) (State.abandonParts_pendingLaw h.pending hx) (State.abandonParts_holderLaw h.holders e x)
      (State.abandonParts_rights h.rights e x)
    exact (h.listed e x g member hx).symm.trans hc

theorem Between.abandonGroup (h : Between s) (g : Fin 4) :
    Between (((s.group g).members.foldl (fun s e => abandonMember g e s) s).closeGroup g .abandoned
      (s.groupLost g)) := by
  have ports (a : AgentId) := (State.closeGroup_keepsPort (foldl_keeps (P := KeepsPort a s)
    (fun _ e hu => abandonMember_keepsPort g e hu) (s.group g).members s (.refl a s)) g .abandoned
      (s.groupLost g)).state
  obtain ⟨settled, ended⟩ := foldl_members_settles (p := .abandons g) (.inr rfl)
    (fun h _ => abandonMember_settles h) (s.group g).members (h.law.abandons g) s.waiting_le fun _ => id
  obtain ⟨t, same, -, close⟩ := State.closeGroup_same
    ((s.group g).members.foldl (fun s e => abandonMember g e s) s) g .abandoned (s.groupLost g)
  rw [close] at ports ⊢
  have kept := settled.trans (same.settles settled.law)
  have gone := kept.gone (.inr rfl) fun e he => (same.entry e).trans (ended e he)
  refine ⟨kept.law.setGroup rfl nofun gone (fun c hc => .inl ?_) (fun _ => id) (fun x hx hs => ?_) rfl rfl,
    fun d hd => h.settled d ((kept.due d).1 hd).1, ⟨fun d y b hy hb => ?_, fun q hq => ?_⟩⟩
  · obtain hc | hc := hc
    · exact hc.elim
    · exact (Option.some.inj hc).symm
  · obtain ⟨c, hxc, hc⟩ := hs
    exact absurd (hxc.trans hc.symm) hx
  · obtain ⟨z, hz, ebb⟩ := kept.shrinks.entries d y hy
    exact (ports b).trans (h.admitted.awaited d z b hz (ebb.awaited b hb))
  · exact (ports _).trans (h.admitted.parked q (kept.shrinks.park q hq))

/-! ## Groups without members -/

theorem Between.setGroup (h : Between s) (hm : (s.group g).members = []) {y : Group} (members : y.members = [])
    (state : ∀ c, y.state ≠ .recalling c) : Between (s.setGroup g y) := by
  refine ⟨h.law.setGroup members state (fun e x hx hg => ?_) (fun _ => .inr) (fun _ => id) (fun _ _ => id) rfl rfl,
    h.settled, ⟨h.admitted.awaited, h.admitted.parked⟩⟩
  have := h.law.member e x g hx hg
  rw [hm] at this
  cases this

/-! ## Every action -/

/-- What is known before an action: a port that is not ADMITTED is empty, and its gate agrees with its link. -/
structure Before (s : State) : Prop where
  ports : PortLaw s
  empty : EmptyPortLaw s
  between : Between s

theorem Before.of_eq (h : Before s) (ports : PortLaw t)
    (k : (t.windows, t.tables, t.ports, t.park, t.entries, t.groups) =
      (s.windows, s.tables, s.ports, s.park, s.entries, s.groups)) : Before t := by
  refine ⟨ports, h.empty.of_eq ?_, h.between.of_eq k⟩
  simp only [Prod.mk.injEq] at k ⊢
  exact ⟨k.2.1, k.2.2.1, k.2.2.2.1⟩

theorem betweenActions : ActionsKeep Before (fun _ => Before) Between where
  idle h := h.between
  pre h := h
  outPre _ h := h.of_eq (portActions.outPre _ h.ports) rfl
  out _ _ h := h.of_eq rfl
  buffer h hup hc hm := h.of_eq (portActions.buffer h.ports hup hc hm) rfl
  take h hb := h.of_eq (portActions.take h.ports hb).1 rfl
  reset _ := .of_reset rfl rfl rfl rfl rfl
  released h := h.between.of_eq rfl
  setLinkState h _ _ := h.between.of_eq rfl
  comeUp h hl := h.between.comeUp h.ports hl
  leaveUp {s l st} h _ _ := Between.leaveUp (s := s.setLink l (.fresh st)) (h.between.of_eq rfl) l
  expiry h hx hd := h.between.takeExpiry hx hd
  fill _ h _ := h.between.fillEnds ..
  lookup h ha _ hw hr := h.between.takeLookup (by simpa [State.isAdmitted] using ha) _ hw hr
  count _ _ h _ := h.between.takeReleased ..
  give _ h _ := h.between.takeReturn ..
  flush h _ := h.between.takeFlush _
  switch _ h _ := h.between.takeSwitch ..
  join {s a} h hs := (h.between.setPort (a := a) (by simp [hs]) (by rfl)).postPort a
  depart _ _ _ h _ _ _ := h.between.depart ..
  openGate h hs := h.between.openGate h.empty hs
  turnAway {s a} h hs := h.between.setPort (a := a) (by simp [hs]) (by rfl)
  configure h _ _ := h.between.configureWith _
  create h hc := by
    obtain ⟨-, -, -, hl, -⟩ := createChecks_eq_ok hc
    exact h.between.createWindow hl
  joinGroup h _ hq hc hg := h.between.joinGroup hq.window hc hg _
  standalone h _ hq hc hg := h.between.standalone h.empty hq.window hc hg _
  abandon m h hx hg := h.between.abandon hx hg m
  openGroup {s g} h hs := h.between.setGroup (h.between.law.free g hs) rfl nofun
  freeGroup h _ hm := h.between.setGroup hm rfl nofun
  commit tag h ho _ := h.between.commitGroup h.empty ho tag
  abandonGroup h _ := h.between.abandonGroup _
  suspend h _ := h.between.of_eq rfl
  suspendLater _ h _ _ := h.between.of_eq rfl
  resume h _ := (State.resume_engineOnly _).between h.between
  resumeEarly {s t} h _ := (State.resume_engineOnly _).between
    (h.between.same (.finish ..) fun a ha => (State.finish_keepsPort (.refl a s) ..).state.trans ha)
  rescrub h _ _ _ _ := h.between.rescrubRun ..
  credit {s tag n} m h := by
    refine (deliver_engineOnly _ _).between ?_
    have credited : Between (s.setCredit (min (s.credit + n.toNat) 255)) := h.between.of_eq rfl
    exact credited.same (.sendSup ..) fun a ha => (State.sendSup_keepsPort (.refl a _) m).state.trans ha
  restart _ := .of_reset rfl rfl rfl rfl rfl

/-- Every step keeps the laws of changes, groups and holdings. -/
theorem between_of_step (h : DeviceLaw s) (hst : step s = .next t) : Between t :=
  step_keeps betweenActions (fun _ h => h.of_eq (h.ports.of_eq rfl) rfl) ⟨h.ports, h.emptyPorts, h.between⟩ hst

/-- Settles O56: a change ends only when it hits no holding (`ChangeLaw.unhit`), so what is held stays within the
record; a grant checks the record, and SWITCH drops what is BOUND before the context changes. -/
theorem rightsLawKept : Obligations.RightsLawKept := by
  unfold Obligations.RightsLawKept
  exact fun s t h hst => (between_of_step h hst).law.rights

/-- Settles O57: the ends of changes nest, and each is taken to its end before the action is over
(`cascadeDepth_endsWell`). -/
theorem roundLawKept : Obligations.RoundLawKept := by
  unfold Obligations.RoundLawKept
  exact fun s t h hst => ⟨(between_of_step h hst).groupLaw, (between_of_step h hst).roundLaw⟩

end Sys2Proof.Machine
end
